-- ==== Sys2Proof/Word.lean ====
section
/-!
DEFINITION. The word types of the machine and their plainest arithmetic (R1 to R3: sext, zext, bit ranges).
-/

namespace Sys2Proof

/-- A 32-bit register, instruction word or local address. -/
abbrev Word := BitVec 32
/-- A byte of memory. -/
abbrev Byte := BitVec 8
/-- A 64-bit pair value or record word. -/
abbrev Dword := BitVec 64
/-- A mask of the 64 lane slots of a warp. -/
abbrev Mask := BitVec 64

/-- The pair value of two registers, bits [31:0] first (R88). -/
def pairOf (lo hi : Word) : Dword := hi ++ lo
/-- Bits [31:0] of a pair. -/
def loHalf (v : Dword) : Word := v.extractLsb' 0 32
/-- Bits [63:32] of a pair. -/
def hiHalf (v : Dword) : Word := v.extractLsb' 32 32

/-- The lane slots of a mask, ascending. -/
def Mask.lanes (m : Mask) : List Nat := (List.range 64).filter fun l => m.getLsbD l

/-- The mask of one lane slot. -/
def bit (l : Nat) : Mask := 1#64 <<< l

/-- The mask of a list of lane slots. -/
def maskOf (ls : List Nat) : Mask := ls.foldl (fun m l => m ||| bit l) 0

/-- The lowest lane slot of a mask, or 0. -/
def Mask.lowest (m : Mask) : Nat := m.lanes.headD 0

/-- The lane slots below n. -/
def belowMask (n : Nat) : Mask := BitVec.ofNat 64 (2 ^ min n 64 - 1)

end Sys2Proof
end

