-- ==== Sys2Proof/Config.lean ====
section
/-!
DEFINITION. What the device fixes and what the spec leaves free. The opaque constants have no body: nothing can
evaluate them, so a claim about them holds whatever they are.
-/

namespace Sys2Proof.Config

/-- The latency class values of the B48 (R72, R97, R139, R183). -/
def latAlu : Nat := 1
def latBit : Nat := 2
def latImul : Nat := 3
def latAlu64 : Nat := 2
def latRix : Nat := 2
def latXlane : Nat := 2
def latFpu : Nat := 4
def latSfu : Nat := 6
def latDpu : Nat := 8

/-- The choice a free value makes for an approximate function (R96, R103): a displacement, reduced into the range the
bound allows; the arguments are the opcode and the operand bits (log entry 6). -/
opaque approxPick : Nat → Nat → Nat

/-- A 32-bit value the spec leaves open, fresh for each use: the n-th one drawn (log entry 15). -/
opaque freeWord : Nat → BitVec 32

/-- The Ferryman's own system area of the scratchpad: first byte and bytes (R248, R349; log entry 16). -/
opaque systemArea : Nat × Nat

/-- The two image keys of the fuses (R333): root and public seed of key 0 or 1. The spec gives no key (log entry 7). -/
opaque imageRoot : Nat → BitVec 256
opaque imageSeed : Nat → BitVec 256

/-- The device's identity key (R334): the secrets its chains start from, by leaf and chain, the secret its randomisers come
from, and its public seed (log entry 7). -/
opaque identitySecret : (leaf chain : Nat) → BitVec 256
opaque identityPrf : BitVec 256
opaque identitySeed : BitVec 256

/-- Camxon's signature of the identity key (R334; log entry 7). -/
opaque identityCertificate : List (BitVec 8)

/-- The bytes by which the current bank, the generation and the serials stand in a quote's measurement, and those of its
configuration block; their layout is not the spec's (R334; log entry 7). -/
opaque quoteBlock : List Nat → List (BitVec 8)
opaque configBlock : List Nat → List (BitVec 8)

/-- Firmware parameters at their defaults, in nanoseconds: the aging of a ready head (R264), the quantum after a resumption
(R271), and the wait for a run boundary (R310); and the limit of replays (R342). -/
def ageLimit : Nat := 1000000
def quantum : Nat := 200000
def stopLimit : Nat := 20000
def replayLimit : Nat := 3

end Sys2Proof.Config
end

