-- ==== Sys2Proof/Machine/Flags.lean ====
section
/-!
DEFINITION. The sticky floating-point flags (R57, R94): NV, DZ, OF, UF, NX in bits 4 to 0.
-/

namespace Sys2Proof.Machine

/-- A set of floating-point flags. -/
abbrev Flags := BitVec 5

def flagNV : Flags := 16
def flagDZ : Flags := 8
def flagOF : Flags := 4
def flagUF : Flags := 2
def flagNX : Flags := 1
def noFlags : Flags := 0

/-- A flag raised when a condition holds. -/
def raiseIf (c : Bool) (f : Flags) : Flags := if c then f else noFlags

end Sys2Proof.Machine
end

