-- ==== Sys2Proof/Machine/Float.lean ====
section
/-!
DEFINITION. The number formats (R90), exact values, one rounding into a format with its flags (R94), and the functions
of R100 to R112. A finite value is ±m · 2^x with m a natural number, so nothing is lost before the one rounding.
-/

namespace Sys2Proof.Machine

/-- A binary format by its exponent and fraction widths (R90). -/
structure Fmt where
  ebits : Nat
  fbits : Nat
  deriving DecidableEq, Repr

def f64 : Fmt := ⟨11, 52⟩
def f32 : Fmt := ⟨8, 23⟩
def f16 : Fmt := ⟨5, 10⟩
def bf16 : Fmt := ⟨8, 7⟩

namespace Fmt

def bias (f : Fmt) : Nat := 2 ^ (f.ebits - 1) - 1
/-- The exponent of the lowest bit of a subnormal. -/
def qmin (f : Fmt) : Int := 1 - (f.bias : Int) - f.fbits
/-- The magnitude bits of infinity. -/
def inf (f : Fmt) : Nat := (2 ^ f.ebits - 1) * 2 ^ f.fbits
/-- The sign bit. -/
def sign (f : Fmt) : Nat := 2 ^ (f.ebits + f.fbits)
/-- The canonical NaN. -/
def nan (f : Fmt) : Nat := f.inf + 2 ^ (f.fbits - 1)
/-- Bits with a sign. -/
def signed (f : Fmt) (neg : Bool) (m : Nat) : Nat := if neg then f.sign + m else m

end Fmt

/-- A value: a NaN, an infinity, or ±m · 2^x. -/
inductive FVal where
  | nan (signalling : Bool)
  | inf (neg : Bool)
  | num (neg : Bool) (m : Nat) (x : Int)
  deriving DecidableEq, Repr

/-- The value of bits in a format (R90). -/
def Fmt.decode (f : Fmt) (bits : Nat) : FVal :=
  let neg := bits / f.sign % 2 == 1
  let e := bits / 2 ^ f.fbits % 2 ^ f.ebits
  let m := bits % 2 ^ f.fbits
  if e = 2 ^ f.ebits - 1 then
    if m = 0 then .inf neg else .nan (m < 2 ^ (f.fbits - 1))
  else if e = 0 then .num neg m f.qmin
  else .num neg (2 ^ f.fbits + m) (f.qmin + (e - 1 : Nat))

/-- The rounding modes (R57). -/
inductive Rm where
  | rne | rtz | rdn | rup
  deriving DecidableEq, Repr

/-- The mode `frm` holds. -/
def Rm.of (m : BitVec 2) : Rm := if m = 0 then .rne else if m = 1 then .rtz else if m = 2 then .rdn else .rup

/-- A natural number over 2^k, rounded, and whether that changed it. -/
def roundShift (rm : Rm) (neg : Bool) (m k : Nat) : Nat × Bool :=
  let q := m / 2 ^ k
  let r := m % 2 ^ k
  let up := match rm with
    | .rne => decide (2 ^ k < 2 * r) || (2 * r == 2 ^ k && r != 0 && q % 2 == 1)
    | .rtz => false
    | .rdn => neg && r != 0
    | .rup => !neg && r != 0
  (if up then q + 1 else q, r != 0)

/-- m · 2^x as a multiple of 2^q, rounded. -/
def roundAt (rm : Rm) (neg : Bool) (m : Nat) (x q : Int) : Nat × Bool :=
  if q ≤ x then (m * 2 ^ (x - q).toNat, false) else roundShift rm neg m (q - x).toNat

/-- The exponent of the lowest result bit with unbounded exponent range. -/
def lowestExp (f : Fmt) (m : Nat) (x : Int) : Int := x + (Nat.log2 m : Int) - f.fbits

/-- A non-zero exact value rounded once into a format (R94): magnitude bits and flags. -/
def roundMag (f : Fmt) (rm : Rm) (neg : Bool) (m : Nat) (x : Int) : Nat × Flags :=
  let q := lowestExp f m x
  let qf := max q f.qmin
  let (r, inexact) := roundAt rm neg m x qf
  let bits := (qf - f.qmin).toNat * 2 ^ f.fbits + r
  if f.inf ≤ bits then
    let toInf := match rm with
      | .rne => true
      | .rtz => false
      | .rdn => neg
      | .rup => !neg
    (if toInf then f.inf else f.inf - 1, flagOF ||| flagNX)
  else
    let (u, _) := roundAt rm neg m x q
    let tiny := decide ((Nat.log2 u : Int) + q < f.qmin + f.fbits)
    (bits, raiseIf (tiny && inexact) flagUF ||| raiseIf inexact flagNX)

/-- An exact product; an invalid one is a NaN that raises NV (R94). -/
def FVal.mul : FVal → FVal → FVal
  | .nan s, .nan t => .nan (s || t)
  | .nan s, _ => .nan s
  | _, .nan t => .nan t
  | .inf a, .inf b => .inf (a != b)
  | .inf a, .num b m _ => if m = 0 then .nan true else .inf (a != b)
  | .num a m _, .inf b => if m = 0 then .nan true else .inf (a != b)
  | .num a m x, .num b n y => .num (a != b) (m * n) (x + y)

def FVal.neg : FVal → FVal
  | .nan s => .nan s
  | .inf a => .inf (!a)
  | .num a m x => .num (!a) m x

def FVal.isNan : FVal → Bool
  | .nan _ => true
  | _ => false
def FVal.isSignalling : FVal → Bool
  | .nan s => s
  | _ => false
def FVal.isZero : FVal → Bool
  | .num _ m _ => m == 0
  | _ => false
def FVal.negative : FVal → Bool
  | .inf a => a
  | .num a _ _ => a
  | .nan _ => false
def FVal.isInf (neg : Bool) : FVal → Bool
  | .inf a => a == neg
  | _ => false

/-- The exponents of the finite non-zero terms. -/
def termExps : List FVal → List Int
  | [] => []
  | .num _ m x :: r => if m = 0 then termExps r else x :: termExps r
  | _ :: r => termExps r

/-- The least exponent of the finite non-zero terms. -/
def leastExp (ts : List FVal) : Int :=
  match termExps ts with
  | [] => 0
  | x :: r => r.foldl min x

/-- The exact sum of the finite terms as a multiple of 2^q. -/
def sumAt (q : Int) : List FVal → Int
  | [] => 0
  | .num neg m x :: r => (if neg then -1 else 1) * (m * 2 ^ (x - q).toNat : Nat) + sumAt q r
  | _ :: r => sumAt q r

/-- The exact sum of terms, rounded once into a format (R94, R111): bits and flags. -/
def sumRound (f : Fmt) (rm : Rm) (ts : List FVal) : Nat × Flags :=
  if ts.any FVal.isNan then (f.nan, raiseIf (ts.any FVal.isSignalling) flagNV)
  else if ts.any (FVal.isInf true) && ts.any (FVal.isInf false) then (f.nan, flagNV)
  else if ts.any (FVal.isInf true) then (f.signed true f.inf, noFlags)
  else if ts.any (FVal.isInf false) then (f.inf, noFlags)
  else
    let q := leastExp ts
    let s := sumAt q ts
    if s = 0 then
      let zeros := ts.all FVal.isZero
      let neg := if zeros && ts.all FVal.negative then true
        else if zeros && ts.all (fun t => !t.negative) then false
        else rm == .rdn
      (f.signed neg 0, noFlags)
    else
      let neg := decide (s < 0)
      let (m, fl) := roundMag f rm neg s.natAbs q
      (f.signed neg m, fl)

/-! ## Division and roots -/

/-- The integer square root by bits, from bit k down. -/
def sqrtBits : Nat → Nat → Nat → Nat
  | 0, n, r => if (r + 1) * (r + 1) ≤ n then r + 1 else r
  | k + 1, n, r => sqrtBits k n (if (r + 2 ^ (k + 1)) * (r + 2 ^ (k + 1)) ≤ n then r + 2 ^ (k + 1) else r)
def isqrt (n : Nat) : Nat := sqrtBits (Nat.log2 n / 2 + 1) n 0

/-- A quotient of natural numbers with 80 bits or more and a sticky bit: m and x with the value m · 2^x. -/
def quotient (a b : Nat) : Nat × Int :=
  let k := 80 + Nat.log2 b
  let q := a * 2 ^ k / b
  (2 * q + (if a * 2 ^ k % b = 0 then 0 else 1), -(k : Int) - 1)

/-- The root of m · 2^x with 80 bits or more and a sticky bit. -/
def root (m : Nat) (x : Int) : Nat × Int :=
  let (m, x) := if x % 2 = 0 then (m, x) else (2 * m, x - 1)
  let n := m * 2 ^ 180
  let r := isqrt n
  (2 * r + (if r * r = n then 0 else 1), (x - 180) / 2 - 1)

/-- a / b rounded once (R100). A divisor of ±0 raises DZ for an infinite a too, as the pseudocode of R100 has it. -/
def fdivide (f : Fmt) (rm : Rm) : FVal → FVal → Nat × Flags
  | .nan s, .nan t => (f.nan, raiseIf (s || t) flagNV)
  | .nan s, _ => (f.nan, raiseIf s flagNV)
  | _, .nan t => (f.nan, raiseIf t flagNV)
  | .inf _, .inf _ => (f.nan, flagNV)
  | .inf a, .num b n _ => (f.signed (a != b) f.inf, raiseIf (n == 0) flagDZ)
  | .num a _ _, .inf b => (f.signed (a != b) 0, noFlags)
  | .num a m x, .num b n y =>
    if n = 0 then (if m = 0 then (f.nan, flagNV) else (f.signed (a != b) f.inf, flagDZ))
    else if m = 0 then (f.signed (a != b) 0, noFlags)
    else
      let (q, z) := quotient m n
      let (r, fl) := roundMag f rm (a != b) q (x - y + z)
      (f.signed (a != b) r, fl)

/-- √a rounded once (R103). -/
def fsquareRoot (f : Fmt) (rm : Rm) : FVal → Nat × Flags
  | .nan s => (f.nan, raiseIf s flagNV)
  | .inf a => if a then (f.nan, flagNV) else (f.inf, noFlags)
  | .num a m x =>
    if m = 0 then (f.signed a 0, noFlags)
    else if a then (f.nan, flagNV)
    else
      let (r, y) := root m x
      roundMag f rm false r y

/-! ## Functions that meet a bound (R96, R103) -/

/-- The magnitude bits at or below m · 2^x, with the exponent field free to run past the format. -/
def floorBits (f : Fmt) (m : Nat) (x : Int) : Nat :=
  let q := max (lowestExp f m x) f.qmin
  (q - f.qmin).toNat * 2 ^ f.fbits + (roundAt .rtz false m x q).1

/-- A result within the bound of a value that no format value equals: the value lies between the magnitude bits lo and
lo + 1, and the free choice picks lo, lo + 1 or, when the bound is 2 ulp, one further on either side (log entry 6). A
further step up is not taken where the spacing doubles, nor are the closer values below a power of two; an overflow gives
infinity in every mode (log entry 104). -/
def pickBits (f : Fmt) (ulps pick lo : Nat) : Nat × Flags :=
  let r :=
    if ulps = 1 then lo + pick % 2
    else
      match pick % 4 with
      | 0 => lo
      | 1 => lo + 1
      | 2 => lo - 1
      | _ => if (lo + 1) % 2 ^ f.fbits = 0 then lo + 1 else lo + 2
  if f.inf ≤ r then (f.inf, flagOF ||| flagNX)
  else (r, raiseIf (decide (r < 2 ^ f.fbits)) flagUF ||| flagNX)

/-- A power of two: m has one bit. -/
def onePower (m : Nat) : Bool := m != 0 && 2 ^ Nat.log2 m == m

/-- 1 / a within 1 ulp (R103). -/
def freciprocal (f : Fmt) (pick : Nat) (a : FVal) : Nat × Flags :=
  match a with
  | .nan s => (f.nan, raiseIf s flagNV)
  | .inf n => (f.signed n 0, noFlags)
  | .num n m x =>
    if m = 0 then (f.signed n f.inf, flagDZ)
    else if onePower m then fdivide f .rne (.num false 1 0) a
    else
      let (q, z) := quotient 1 m
      let (r, fl) := pickBits f 1 pick (floorBits f q (z - x))
      (f.signed n r, fl)

/-- 1 / √a within 1 ulp (R103). -/
def freciprocalRoot (f : Fmt) (pick : Nat) (a : FVal) : Nat × Flags :=
  match a with
  | .nan s => (f.nan, raiseIf s flagNV)
  | .inf n => if n then (f.nan, flagNV) else (0, noFlags)
  | .num n m x =>
    if m = 0 then (f.signed n f.inf, flagDZ)
    else if n then (f.nan, flagNV)
    else
      let e := (Nat.log2 m : Int) + x
      if onePower m && e % 2 == 0 then roundMag f .rne false 1 (-(e / 2))
      else
        let (q, z) := quotient 1 m
        let (r, y) := root q (z - x)
        pickBits f 1 pick (floorBits f r y)

/-- 2^(j / 2^n) for j of n bits, as a multiple of 2^(−128): from the lowest bit of j up. -/
def exp2Bits : Nat → Nat → Nat → Nat
  | 0, _, y => y
  | n + 1, j, y => exp2Bits n (j / 2) (isqrt (y * 2 ^ 128 * (if j % 2 = 1 then 2 else 1)))

/-- 2^a within 2 ulp (R103). -/
def fexp2Fn (f : Fmt) (pick : Nat) : FVal → Nat × Flags
  | .nan s => (f.nan, raiseIf s flagNV)
  | .inf n => (if n then 0 else f.inf, noFlags)
  | .num n m x =>
    if m = 0 then (f.bias * 2 ^ f.fbits, noFlags)
    else
      -- a as a multiple of 2^(−160)
      let small := decide (x + (Nat.log2 m : Int) < -150)
      let big := decide (10 ≤ x + (Nat.log2 m : Int))
      let k : Int := if big then 2000 * 2 ^ 160 else if small then 1 else m * 2 ^ (x + 160).toNat
      let k := if n then -k else k
      if 128 * 2 ^ 160 ≤ k then (f.inf, flagOF ||| flagNX)
      else if k ≤ -150 * 2 ^ 160 then (0, flagUF ||| flagNX)
      else
        let i := k / 2 ^ 160
        let j := (k % 2 ^ 160).toNat
        if j = 0 then roundMag f .rne false 1 i
        else
          let y := exp2Bits 64 (j / 2 ^ 96) (2 ^ 128)
          pickBits f 2 pick (floorBits f (2 * y + 1) (i - 129))

/-- The first n bits of log2 of y · 2^(−200), for y from 2^200 to below 2^201. -/
def log2Bits : Nat → Nat → Nat → Nat
  | 0, _, r => r
  | n + 1, y, r =>
    let z := y * y / 2 ^ 200
    if 2 ^ 201 ≤ z then log2Bits n (z / 2) (2 * r + 1) else log2Bits n z (2 * r)

/-- log2 a within 2 ulp (R103). -/
def flog2Fn (f : Fmt) (pick : Nat) : FVal → Nat × Flags
  | .nan s => (f.nan, raiseIf s flagNV)
  | .inf n => if n then (f.nan, flagNV) else (f.inf, noFlags)
  | .num n m x =>
    if m = 0 then (f.signed true f.inf, flagDZ)
    else if n then (f.nan, flagNV)
    else
      let e := (Nat.log2 m : Int) + x
      if onePower m then
        if e = 0 then (0, noFlags)
        else
          let (r, fl) := roundMag f .rne (decide (e < 0)) e.natAbs 0
          (f.signed (decide (e < 0)) r, fl)
      else
        let l := log2Bits 120 (m * 2 ^ (200 - Nat.log2 m)) 0
        let v : Int := e * 2 ^ 120 + l
        let neg := decide (v < 0)
        -- the exact value lies above v, below v + 1
        let mag := if neg then (v + 1).natAbs else v.natAbs
        let (r, fl) := pickBits f 2 pick (floorBits f (2 * mag + 1) (-121))
        (f.signed neg r, fl)

/-- 2π as a multiple of 2^(−320). -/
def twoPi : Nat :=
  628318530717958647692528676655900576839433879875021164194988918461563281257241799725606965068423413596 *
    2 ^ 320 / 10 ^ 101

/-- The series of the sine or cosine from term k on, at multiples of 2^(−320): t is the term, s the square of the
angle. -/
def trigSeries : Nat → Nat → Nat → Nat → Int
  | 0, _, _, _ => 0
  | n + 1, k, t, s => (t : Int) - trigSeries n (k + 2) (t * s / 2 ^ 320 / ((k + 1) * (k + 2))) s

/-- sin and cos of 2π · r for r a multiple of 2^(−320) up to one eighth. -/
def sinOf (r : Nat) : Nat :=
  let a := r * twoPi / 2 ^ 320
  (trigSeries 40 1 a (a * a / 2 ^ 320)).toNat
def cosOf (r : Nat) : Nat :=
  let a := r * twoPi / 2 ^ 320
  (trigSeries 40 0 (2 ^ 320) (a * a / 2 ^ 320)).toNat

/-- sin of 2π · r for r up to one quarter. -/
def sinQuarter (r : Nat) : Nat := if 8 * r ≤ 2 ^ 320 then sinOf r else cosOf (2 ^ 318 - r)

/-- The sine of a turn count given as a multiple of 2^(−320) below 2^320, with the sign of the sine; none where it is
exact. -/
def sinTurns (r : Nat) : Bool × Option Nat :=
  let q := r / 2 ^ 318
  let p := r % 2 ^ 318
  if p = 0 then (decide (2 ≤ q), none)
  else (decide (2 ≤ q), some (sinQuarter (if q % 2 = 0 then p else 2 ^ 318 - p)))

/-- sin(2π · a), or the cosine, within 2 ulp (R103). The sign of a zero beside the rule's examples is the model's reading (log
entry 121). -/
def ftrig (f : Fmt) (pick : Nat) (cos : Bool) : FVal → Nat × Flags
  | .nan s => (f.nan, raiseIf s flagNV)
  | .inf _ => (f.nan, flagNV)
  | .num n m x =>
    let one := f.bias * 2 ^ f.fbits
    if m = 0 then (if cos then one else f.signed n 0, noFlags)
    else
      -- |a| modulo 1 as a multiple of 2^(−320)
      let r := if 0 ≤ x then 0 else m * 2 ^ (x + 320).toNat % 2 ^ 320
      let r' := if cos then (r + 2 ^ 318) % 2 ^ 320 else r
      let (sg, v) := sinTurns r'
      let neg := if cos then sg else (sg != n)
      match v with
      | none =>
        -- a multiple of a quarter turn: exact
        if r' % 2 ^ 319 = 0 then (if cos then 0 else f.signed n 0, noFlags)
        else (f.signed neg one, noFlags)
      | some v =>
        let (b, fl) := pickBits f 2 pick (floorBits f (2 * v + 1) (-321))
        (f.signed neg b, fl)

/-! ## Comparison, selection, conversion -/

/-- The order of two values that are not NaN: −1, 0 or 1, with −0 equal to +0. -/
def FVal.compare : FVal → FVal → Int
  | .inf a, .inf b => if a == b then 0 else if a then -1 else 1
  | .inf a, _ => if a then -1 else 1
  | _, .inf b => if b then 1 else -1
  | a, b =>
    let q := leastExp [a, b]
    let d := sumAt q [a, b.neg]
    if d < 0 then -1 else if d = 0 then 0 else 1

/-- The lesser or greater operand, numbers before NaNs, −0 below +0 (R101): the bits and flags. -/
def fminmax (f : Fmt) (greater : Bool) (a b : Nat) : Nat × Flags :=
  let x := f.decode a
  let y := f.decode b
  let fl := raiseIf (x.isSignalling || y.isSignalling) flagNV
  if x.isNan && y.isNan then (f.nan, fl)
  else if x.isNan then (b, fl)
  else if y.isNan then (a, fl)
  else
    let c := x.compare y
    let aLess := if c = 0 then x.negative else decide (c < 0)
    (if aLess == greater then b else a, fl)

/-- A comparison (R102): which relation, and whether a quiet NaN raises NV. -/
inductive Cmp where
  | eq | lt | le | uno
  deriving DecidableEq, Repr

def fcompare (f : Fmt) (op : Cmp) (a b : Nat) : Bool × Flags :=
  let x := f.decode a
  let y := f.decode b
  let anyNan := x.isNan || y.isNan
  let sig := x.isSignalling || y.isSignalling
  match op with
  | .eq => (!anyNan && x.compare y == 0, raiseIf sig flagNV)
  | .lt => (!anyNan && decide (x.compare y < 0), raiseIf anyNan flagNV)
  | .le => (!anyNan && decide (x.compare y ≤ 0), raiseIf anyNan flagNV)
  | .uno => (anyNan, raiseIf sig flagNV)

/-- A value rounded to an integer and saturated (R107): the integer and flags. -/
def ftoInt (rm : Rm) (lo hi : Int) : FVal → Int × Flags
  | .nan _ => (0, flagNV)
  | .inf n => (if n then lo else hi, flagNV)
  | .num n m x =>
    let (r, inexact) := roundAt rm n m x 0
    let v : Int := if n then -(r : Int) else r
    if v < lo then (lo, flagNV) else if hi < v then (hi, flagNV) else (v, raiseIf inexact flagNX)

/-- An integer as a value. -/
def FVal.ofInt (v : Int) : FVal := .num (decide (v < 0)) v.natAbs 0

/-- A value rounded to an integral value of its format (R110). -/
def fintegral (f : Fmt) (rm : Rm) (flag : Bool) : FVal → Nat × Flags
  | .nan s => (f.nan, raiseIf s flagNV)
  | .inf n => (f.signed n f.inf, noFlags)
  | .num n m x =>
    if m = 0 then (f.signed n 0, noFlags)
    else
      let (r, inexact) := roundAt rm n m x 0
      let fl := raiseIf (flag && inexact) flagNX
      if r = 0 then (f.signed n 0, fl) else (f.signed n (roundMag f .rne n r 0).1, fl)

/-- The class mask of a value (R108). -/
def fclassOf (f : Fmt) (bits : Nat) : Nat :=
  match f.decode bits with
  | .inf n => if n then 1 else 128
  | .nan s => if s then 256 else 512
  | .num n m _ =>
    if m = 0 then (if n then 8 else 16)
    else if m < 2 ^ f.fbits then (if n then 4 else 32)
    else (if n then 2 else 64)

/-- a · 2^k rounded once (R109). The scale is cut at ±1000, beyond which every result is the same. -/
def fscale (f : Fmt) (rm : Rm) (k : Int) : FVal → Nat × Flags
  | .nan s => (f.nan, raiseIf s flagNV)
  | .inf n => (f.signed n f.inf, noFlags)
  | .num n m x => sumRound f rm [.num n m (x + max (-1000) (min 1000 k))]

end Sys2Proof.Machine
end

