-- ==== Sys2Proof/Syntax.lean ====
section
/-!
DEFINITION. The instructions of the machine: one constructor for each row of spec/opcode_table.json.

The first 208 constructors are the Phiore words of R43, with the fields R26 gives them. A field holds a value
wide enough for Tolune too (R49, R50): a register or number field is 8 bits, an imm7 field is held sign-extended
to 8 bits (or as 8 bits where R27 reads it unsigned), an imm14 field as 16 bits, an imm21 field as 24 bits.
The last 105 constructors are the steps of engines, of the Ferryman, of the host and of the links; their
arguments name what the step acts on.
-/

namespace Sys2Proof

/-- A register field, or a field read as a small unsigned number (R25). -/
abbrev Reg := BitVec 8
/-- An imm7 (R27) or imm8 (R50) field. -/
abbrev Imm := BitVec 8
/-- An imm14 (R28) or imm16 (R50) field. -/
abbrev Imm14 := BitVec 16
/-- An imm21 (R29) or imm24 (R50) field. -/
abbrev Imm21 := BitVec 24
/-- The stall count of a body word (R36). -/
abbrev Stall := BitVec 3

/-- One constructor per row of the opcode table, in the table's order. -/
inductive Instr where
  /-- NOP (R119): No operation beyond its stall count. -/
  | nop (s : Stall)
  /-- RUNT (R41): Trailer that ends a run, names awaited registers and sets the entry and yield flags for the warp's next run. -/
  | runt (d : Reg) (a : Reg) (b : Reg) (f : BitVec 3)
  /-- EXT (R33): Prefix whose 21-bit payload extends the immediate of the following word. -/
  | ext (p : BitVec 21)
  /-- BRA (R120): Unconditional PC-relative branch that ends the run. -/
  | bra (i : Imm21) (s : Stall)
  /-- BNZ (R120): Per-lane branch taken when register d is not zero. -/
  | bnz (d : Reg) (i : Imm14) (s : Stall)
  /-- BZ (R120): Per-lane branch taken when register d is zero. -/
  | bz (d : Reg) (i : Imm14) (s : Stall)
  /-- BLTZ (R120): Per-lane branch taken when register d is negative. -/
  | bltz (d : Reg) (i : Imm14) (s : Stall)
  /-- BGEZ (R120): Per-lane branch taken when register d is zero or positive. -/
  | bgez (d : Reg) (i : Imm14) (s : Stall)
  /-- JPT (R115): Declares a join point and pushes a join-stack entry with the issuing lanes as its rejoin mask. -/
  | jpt (i : Imm21) (s : Stall)
  /-- REJOIN (R117): Parks each issuing lane at the matching join-stack entry until every lane of its mask has arrived. -/
  | rejoin (s : Stall)
  /-- CALL (R122): PC-relative call that slides the register window up and writes the link into callee g0 and g1. -/
  | call (k : Reg) (i : Imm14) (s : Stall)
  /-- CALLR (R122): Call to a land word whose address is in a register, sliding the window. -/
  | callr (k : Reg) (a : Reg) (s : Stall)
  /-- RET (R123): Returns through the link in g0 and g1 and slides the window back. -/
  | ret (s : Stall)
  /-- JMPR (R121): Indirect jump to a land word at the address in a register. -/
  | jmpr (a : Reg) (s : Stall)
  /-- LAND (R119): No-op that marks a legal indirect target. -/
  | land (s : Stall)
  /-- EXIT (R127): Ends each issuing thread with cause 0. -/
  | exit (s : Stall)
  /-- SVC (R128): Parks the warp off-core and writes a service request entry for the host. -/
  | svc (i : Imm14) (s : Stall)
  /-- TRAP (R128): Raises a precise program trap carrying a code. -/
  | trap (i : Imm14) (s : Stall)
  /-- BRK (R128): Raises a debug halt carrying a code. -/
  | brk (i : Imm14) (s : Stall)
  /-- SPINW (R129): Parks each lane until the word at its address differs from a value, then writes that value. -/
  | spinw (d : Reg) (a : Reg) (b : Reg) (s : Stall)
  /-- WBASE (R125): Moves the logical base of the register window up or down by 8k registers. -/
  | wbase (d : Reg) (k : Reg) (s : Stall)
  /-- RGET (R126): Reads the window register whose index is held in a register. -/
  | rget (d : Reg) (a : Reg) (s : Stall)
  /-- RPUT (R126): Writes the window register whose index is held in a register. -/
  | rput (d : Reg) (a : Reg) (s : Stall)
  /-- ADD (R75): 32-bit wrapping addition of two registers. -/
  | add (d : Reg) (a : Reg) (b : Reg) (s : Stall)
  /-- SUB (R75): 32-bit wrapping subtraction of two registers. -/
  | sub (d : Reg) (a : Reg) (b : Reg) (s : Stall)
  /-- MUL (R77): Low 32 bits of the product of two registers. -/
  | mul (d : Reg) (a : Reg) (b : Reg) (s : Stall)
  /-- MULHS (R77): High 32 bits of the signed product. -/
  | mulhs (d : Reg) (a : Reg) (b : Reg) (s : Stall)
  /-- MULHU (R77): High 32 bits of the unsigned product. -/
  | mulhu (d : Reg) (a : Reg) (b : Reg) (s : Stall)
  /-- MAD (R77): Adds the low product of a and b to the old d. -/
  | mad (d : Reg) (a : Reg) (b : Reg) (s : Stall)
  /-- DIVS (R78): Signed quotient truncated toward zero, with fixed results for division by zero and overflow. -/
  | divs (d : Reg) (a : Reg) (b : Reg) (s : Stall)
  /-- DIVU (R78): Unsigned quotient with a fixed result for division by zero. -/
  | divu (d : Reg) (a : Reg) (b : Reg) (s : Stall)
  /-- REMS (R78): Signed remainder taking the dividend's sign. -/
  | rems (d : Reg) (a : Reg) (b : Reg) (s : Stall)
  /-- REMU (R78): Unsigned remainder. -/
  | remu (d : Reg) (a : Reg) (b : Reg) (s : Stall)
  /-- AND (R75): Bitwise AND of two registers. -/
  | and (d : Reg) (a : Reg) (b : Reg) (s : Stall)
  /-- OR (R75): Bitwise OR of two registers. -/
  | or (d : Reg) (a : Reg) (b : Reg) (s : Stall)
  /-- XOR (R75): Bitwise exclusive OR of two registers. -/
  | xor (d : Reg) (a : Reg) (b : Reg) (s : Stall)
  /-- ANDN (R75): a AND NOT b. -/
  | andn (d : Reg) (a : Reg) (b : Reg) (s : Stall)
  /-- SHL (R76): Shift left by b[4:0]. -/
  | shl (d : Reg) (a : Reg) (b : Reg) (s : Stall)
  /-- SHR (R76): Logical shift right by b[4:0]. -/
  | shr (d : Reg) (a : Reg) (b : Reg) (s : Stall)
  /-- SAR (R76): Arithmetic shift right by b[4:0]. -/
  | sar (d : Reg) (a : Reg) (b : Reg) (s : Stall)
  /-- ROL (R76): Rotate left by b[4:0]. -/
  | rol (d : Reg) (a : Reg) (b : Reg) (s : Stall)
  /-- MINS (R79): Signed minimum. -/
  | mins (d : Reg) (a : Reg) (b : Reg) (s : Stall)
  /-- MINU (R79): Unsigned minimum. -/
  | minu (d : Reg) (a : Reg) (b : Reg) (s : Stall)
  /-- MAXS (R79): Signed maximum. -/
  | maxs (d : Reg) (a : Reg) (b : Reg) (s : Stall)
  /-- MAXU (R79): Unsigned maximum. -/
  | maxu (d : Reg) (a : Reg) (b : Reg) (s : Stall)
  /-- SEQ (R79): Sets 1 when a equals b. -/
  | seq (d : Reg) (a : Reg) (b : Reg) (s : Stall)
  /-- SNE (R79): Sets 1 when a differs from b. -/
  | sne (d : Reg) (a : Reg) (b : Reg) (s : Stall)
  /-- SLT (R79): Sets 1 when a is signed-less than b. -/
  | slt (d : Reg) (a : Reg) (b : Reg) (s : Stall)
  /-- SLTU (R79): Sets 1 when a is unsigned-less than b. -/
  | sltu (d : Reg) (a : Reg) (b : Reg) (s : Stall)
  /-- SLE (R79): Sets 1 when a is signed-less or equal to b. -/
  | sle (d : Reg) (a : Reg) (b : Reg) (s : Stall)
  /-- SLEU (R79): Sets 1 when a is unsigned-less or equal to b. -/
  | sleu (d : Reg) (a : Reg) (b : Reg) (s : Stall)
  /-- CSEL (R80): Chooses a or b by whether the old d is non-zero. -/
  | csel (d : Reg) (a : Reg) (b : Reg) (s : Stall)
  /-- MOV (R80): Copies a register with its poison bit. -/
  | mov (d : Reg) (a : Reg) (s : Stall)
  /-- CLZ (R81): Counts leading zeros. -/
  | clz (d : Reg) (a : Reg) (s : Stall)
  /-- CTZ (R81): Counts trailing zeros. -/
  | ctz (d : Reg) (a : Reg) (s : Stall)
  /-- POPC (R81): Counts set bits. -/
  | popc (d : Reg) (a : Reg) (s : Stall)
  /-- BREV (R81): Reverses bit order. -/
  | brev (d : Reg) (a : Reg) (s : Stall)
  /-- ABS (R80): Wrapping absolute value. -/
  | abs (d : Reg) (a : Reg) (s : Stall)
  /-- BFXU (R83): Extracts a bit field, zero-extended. -/
  | bfxu (d : Reg) (a : Reg) (b : Reg) (s : Stall)
  /-- BFXS (R83): Extracts a bit field, sign-extended. -/
  | bfxs (d : Reg) (a : Reg) (b : Reg) (s : Stall)
  /-- BFI (R83): Inserts the low bits of a into a field of d. -/
  | bfi (d : Reg) (a : Reg) (b : Reg) (s : Stall)
  /-- ADDI (R84): Adds a sign-extended immediate. -/
  | addi (d : Reg) (a : Reg) (i : Imm) (s : Stall)
  /-- ANDI (R84): ANDs with a sign-extended immediate. -/
  | andi (d : Reg) (a : Reg) (i : Imm) (s : Stall)
  /-- ORI (R84): ORs with a sign-extended immediate. -/
  | ori (d : Reg) (a : Reg) (i : Imm) (s : Stall)
  /-- XORI (R84): XORs with a sign-extended immediate. -/
  | xori (d : Reg) (a : Reg) (i : Imm) (s : Stall)
  /-- SHLI (R84): Shifts left by an immediate count. -/
  | shli (d : Reg) (a : Reg) (i : Imm) (s : Stall)
  /-- SHRI (R84): Logical shift right by an immediate count. -/
  | shri (d : Reg) (a : Reg) (i : Imm) (s : Stall)
  /-- SARI (R84): Arithmetic shift right by an immediate count. -/
  | sari (d : Reg) (a : Reg) (i : Imm) (s : Stall)
  /-- MOVI (R86): Loads a sign-extended 14-bit or, with EXT, a 32-bit constant. -/
  | movi (d : Reg) (i : Imm14) (s : Stall)
  /-- SLTI (R84): Sets 1 when a is signed-less than the immediate. -/
  | slti (d : Reg) (a : Reg) (i : Imm) (s : Stall)
  /-- SEQI (R84): Sets 1 when a equals the immediate. -/
  | seqi (d : Reg) (a : Reg) (i : Imm) (s : Stall)
  /-- LEA1 (R87): Base plus index. -/
  | lea1 (d : Reg) (a : Reg) (b : Reg) (s : Stall)
  /-- LEA2 (R87): Base plus twice the index. -/
  | lea2 (d : Reg) (a : Reg) (b : Reg) (s : Stall)
  /-- LEA4 (R87): Base plus four times the index. -/
  | lea4 (d : Reg) (a : Reg) (b : Reg) (s : Stall)
  /-- LEA8 (R87): Base plus eight times the index. -/
  | lea8 (d : Reg) (a : Reg) (b : Reg) (s : Stall)
  /-- ADD64 (R88): 64-bit addition of register pairs. -/
  | add64 (d : Reg) (a : Reg) (b : Reg) (s : Stall)
  /-- SUB64 (R88): 64-bit subtraction of register pairs. -/
  | sub64 (d : Reg) (a : Reg) (b : Reg) (s : Stall)
  /-- MULW (R88): Unsigned 32×32 product into a register pair. -/
  | mulw (d : Reg) (a : Reg) (b : Reg) (s : Stall)
  /-- SLTU64 (R88): Unsigned 64-bit less-than of two pairs. -/
  | sltu64 (d : Reg) (a : Reg) (b : Reg) (s : Stall)
  /-- FADD (R100): Binary32 addition rounded by frm. -/
  | fadd (d : Reg) (a : Reg) (b : Reg) (s : Stall)
  /-- FSUB (R100): Binary32 subtraction rounded by frm. -/
  | fsub (d : Reg) (a : Reg) (b : Reg) (s : Stall)
  /-- FMUL (R100): Binary32 multiplication rounded by frm. -/
  | fmul (d : Reg) (a : Reg) (b : Reg) (s : Stall)
  /-- FFMA (R100): Fused binary32 a·b + d with one rounding. -/
  | ffma (d : Reg) (a : Reg) (b : Reg) (s : Stall)
  /-- FFMS (R100): Fused binary32 a·b − d with one rounding. -/
  | ffms (d : Reg) (a : Reg) (b : Reg) (s : Stall)
  /-- FMIN (R101): Binary32 minimum preferring numbers to NaNs. -/
  | fmin (d : Reg) (a : Reg) (b : Reg) (s : Stall)
  /-- FMAX (R101): Binary32 maximum preferring numbers to NaNs. -/
  | fmax (d : Reg) (a : Reg) (b : Reg) (s : Stall)
  /-- FCPS (R101): Magnitude of a with the sign of b. -/
  | fcps (d : Reg) (a : Reg) (b : Reg) (s : Stall)
  /-- FEQ (R102): Binary32 equality comparison. -/
  | feq (d : Reg) (a : Reg) (b : Reg) (s : Stall)
  /-- FLT (R102): Signalling binary32 less-than comparison. -/
  | flt (d : Reg) (a : Reg) (b : Reg) (s : Stall)
  /-- FLE (R102): Signalling binary32 less-or-equal comparison. -/
  | fle (d : Reg) (a : Reg) (b : Reg) (s : Stall)
  /-- FUNO (R102): Sets 1 when either binary32 operand is NaN. -/
  | funo (d : Reg) (a : Reg) (b : Reg) (s : Stall)
  /-- FRCP (R103): Binary32 reciprocal within 1 ulp. -/
  | frcp (d : Reg) (a : Reg) (s : Stall)
  /-- FRSQ (R103): Binary32 reciprocal square root within 1 ulp. -/
  | frsq (d : Reg) (a : Reg) (s : Stall)
  /-- FSQRT (R103): Correctly rounded binary32 square root. -/
  | fsqrt (d : Reg) (a : Reg) (s : Stall)
  /-- FDIV (R100): Correctly rounded binary32 division. -/
  | fdiv (d : Reg) (a : Reg) (b : Reg) (s : Stall)
  /-- FEXP2 (R103): Binary32 2^a within 2 ulp. -/
  | fexp2 (d : Reg) (a : Reg) (s : Stall)
  /-- FLOG2 (R103): Binary32 log2 within 2 ulp. -/
  | flog2 (d : Reg) (a : Reg) (s : Stall)
  /-- FSIN (R103): Binary32 sine of a turns. -/
  | fsin (d : Reg) (a : Reg) (s : Stall)
  /-- FCOS (R103): Binary32 cosine of a turns. -/
  | fcos (d : Reg) (a : Reg) (s : Stall)
  /-- DADD (R104): Binary64 addition on pairs. -/
  | dadd (d : Reg) (a : Reg) (b : Reg) (s : Stall)
  /-- DSUB (R104): Binary64 subtraction on pairs. -/
  | dsub (d : Reg) (a : Reg) (b : Reg) (s : Stall)
  /-- DMUL (R104): Binary64 multiplication on pairs. -/
  | dmul (d : Reg) (a : Reg) (b : Reg) (s : Stall)
  /-- DFMA (R104): Fused binary64 multiply–add on pairs. -/
  | dfma (d : Reg) (a : Reg) (b : Reg) (s : Stall)
  /-- DMIN (R104): Binary64 minimum. -/
  | dmin (d : Reg) (a : Reg) (b : Reg) (s : Stall)
  /-- DMAX (R104): Binary64 maximum. -/
  | dmax (d : Reg) (a : Reg) (b : Reg) (s : Stall)
  /-- DEQ (R102): Binary64 equality comparison. -/
  | deq (d : Reg) (a : Reg) (b : Reg) (s : Stall)
  /-- DLT (R102): Signalling binary64 less-than comparison. -/
  | dlt (d : Reg) (a : Reg) (b : Reg) (s : Stall)
  /-- DLE (R102): Signalling binary64 less-or-equal comparison. -/
  | dle (d : Reg) (a : Reg) (b : Reg) (s : Stall)
  /-- DDIV (R104): Correctly rounded binary64 division. -/
  | ddiv (d : Reg) (a : Reg) (b : Reg) (s : Stall)
  /-- DSQRT (R103): Correctly rounded binary64 square root. -/
  | dsqrt (d : Reg) (a : Reg) (s : Stall)
  /-- DRCP (R103): Binary64 reciprocal within 1 ulp. -/
  | drcp (d : Reg) (a : Reg) (s : Stall)
  /-- HADD2 (R105): Packed f16 addition. -/
  | hadd2 (d : Reg) (a : Reg) (b : Reg) (s : Stall)
  /-- HMUL2 (R105): Packed f16 multiplication. -/
  | hmul2 (d : Reg) (a : Reg) (b : Reg) (s : Stall)
  /-- HFMA2 (R105): Packed f16 fused multiply–add. -/
  | hfma2 (d : Reg) (a : Reg) (b : Reg) (s : Stall)
  /-- BADD2 (R105): Packed bf16 addition. -/
  | badd2 (d : Reg) (a : Reg) (b : Reg) (s : Stall)
  /-- BMUL2 (R105): Packed bf16 multiplication. -/
  | bmul2 (d : Reg) (a : Reg) (b : Reg) (s : Stall)
  /-- BFMA2 (R105): Packed bf16 fused multiply–add. -/
  | bfma2 (d : Reg) (a : Reg) (b : Reg) (s : Stall)
  /-- CVT (R107): Format conversion selected by a code, rounding by frm, saturating to integers. -/
  | cvt (d : Reg) (a : Reg) (c : Reg) (s : Stall)
  /-- CVTZ (R107): Format conversion rounding toward zero. -/
  | cvtz (d : Reg) (a : Reg) (c : Reg) (s : Stall)
  /-- FCLASS (R108): One-hot class mask of a binary32. -/
  | fclass (d : Reg) (a : Reg) (s : Stall)
  /-- FLDX (R109): Scales a binary32 by 2^b with one rounding. -/
  | fldx (d : Reg) (a : Reg) (b : Reg) (s : Stall)
  /-- FRND (R110): Rounds a binary32 to an integral value by a mode. -/
  | frnd (d : Reg) (a : Reg) (m : Reg) (s : Stall)
  /-- DRND (R110): Rounds a binary64 to an integral value by a mode. -/
  | drnd (d : Reg) (a : Reg) (m : Reg) (s : Stall)
  /-- FDOT2 (R111): bf16x2 dot product accumulated into f32 with one rounding. -/
  | fdot2 (d : Reg) (a : Reg) (b : Reg) (s : Stall)
  /-- HDOT2 (R111): f16x2 dot product accumulated into f32 with one rounding. -/
  | hdot2 (d : Reg) (a : Reg) (b : Reg) (s : Stall)
  /-- PACKB (R112): Rounds two f32 values into a bf16x2 register. -/
  | packb (d : Reg) (a : Reg) (b : Reg) (s : Stall)
  /-- PACKH (R112): Rounds two f32 values into an f16x2 register. -/
  | packh (d : Reg) (a : Reg) (b : Reg) (s : Stall)
  /-- LDB (R226): Loads a byte, zero-extended. -/
  | ldb (d : Reg) (a : Reg) (i : Imm) (s : Stall)
  /-- LDBS (R226): Loads a byte, sign-extended. -/
  | ldbs (d : Reg) (a : Reg) (i : Imm) (s : Stall)
  /-- LDH (R226): Loads a halfword, zero-extended. -/
  | ldh (d : Reg) (a : Reg) (i : Imm) (s : Stall)
  /-- LDHS (R226): Loads a halfword, sign-extended. -/
  | ldhs (d : Reg) (a : Reg) (i : Imm) (s : Stall)
  /-- LDW (R226): Loads a word. -/
  | ldw (d : Reg) (a : Reg) (i : Imm) (s : Stall)
  /-- LDD (R226): Loads a doubleword into a pair. -/
  | ldd (d : Reg) (a : Reg) (i : Imm) (s : Stall)
  /-- LDQ (R226): Loads 16 bytes into a quad. -/
  | ldq (d : Reg) (a : Reg) (i : Imm) (s : Stall)
  /-- STB (R226): Stores a byte. -/
  | stb (d : Reg) (a : Reg) (i : Imm) (s : Stall)
  /-- STH (R226): Stores a halfword. -/
  | sth (d : Reg) (a : Reg) (i : Imm) (s : Stall)
  /-- STW (R226): Stores a word. -/
  | stw (d : Reg) (a : Reg) (i : Imm) (s : Stall)
  /-- STD (R226): Stores a doubleword from a pair. -/
  | std (d : Reg) (a : Reg) (i : Imm) (s : Stall)
  /-- STQ (R226): Stores 16 bytes from a quad. -/
  | stq (d : Reg) (a : Reg) (i : Imm) (s : Stall)
  /-- LDO (R227): Aligned load with an order code and scope. -/
  | ldo (d : Reg) (a : Reg) (c : BitVec 4) (o : BitVec 2) (z : BitVec 1) (s : Stall)
  /-- STO (R227): Aligned store with an order code and scope. -/
  | sto (d : Reg) (a : Reg) (c : BitVec 4) (o : BitVec 2) (z : BitVec 1) (s : Stall)
  /-- AADD (R228): Atomic add returning the old value. -/
  | aadd (d : Reg) (a : Reg) (c : BitVec 4) (o : BitVec 2) (z : BitVec 1) (s : Stall)
  /-- AAND (R228): Atomic AND returning the old value. -/
  | aand (d : Reg) (a : Reg) (c : BitVec 4) (o : BitVec 2) (z : BitVec 1) (s : Stall)
  /-- AOR (R228): Atomic OR returning the old value. -/
  | aor (d : Reg) (a : Reg) (c : BitVec 4) (o : BitVec 2) (z : BitVec 1) (s : Stall)
  /-- AXOR (R228): Atomic XOR returning the old value. -/
  | axor (d : Reg) (a : Reg) (c : BitVec 4) (o : BitVec 2) (z : BitVec 1) (s : Stall)
  /-- AMINS (R228): Atomic signed minimum. -/
  | amins (d : Reg) (a : Reg) (c : BitVec 4) (o : BitVec 2) (z : BitVec 1) (s : Stall)
  /-- AMINU (R228): Atomic unsigned minimum. -/
  | aminu (d : Reg) (a : Reg) (c : BitVec 4) (o : BitVec 2) (z : BitVec 1) (s : Stall)
  /-- AMAXS (R228): Atomic signed maximum. -/
  | amaxs (d : Reg) (a : Reg) (c : BitVec 4) (o : BitVec 2) (z : BitVec 1) (s : Stall)
  /-- AMAXU (R228): Atomic unsigned maximum. -/
  | amaxu (d : Reg) (a : Reg) (c : BitVec 4) (o : BitVec 2) (z : BitVec 1) (s : Stall)
  /-- AXCH (R228): Atomic exchange. -/
  | axch (d : Reg) (a : Reg) (c : BitVec 4) (o : BitVec 2) (z : BitVec 1) (s : Stall)
  /-- ACAS (R228): Atomic compare-and-swap. -/
  | acas (d : Reg) (a : Reg) (c : BitVec 4) (o : BitVec 2) (z : BitVec 1) (s : Stall)
  /-- AFXA (R230): Adds an f32 or f64 to an FX cell on its fixed grid. -/
  | afxa (d : Reg) (a : Reg) (c : BitVec 4) (o : BitVec 2) (z : BitVec 1) (s : Stall)
  /-- AFXR (R230): Reads an FX cell as an f32 or f64. -/
  | afxr (d : Reg) (a : Reg) (c : BitVec 4) (o : BitVec 2) (z : BitVec 1) (s : Stall)
  /-- AFXZ (R230): Clears an FX cell and sets its exponent. -/
  | afxz (d : Reg) (a : Reg) (c : BitVec 4) (o : BitVec 2) (s : Stall)
  /-- FENCE (R231): Orders the lane's accesses and GO submissions at a scope. -/
  | fence (c : BitVec 4) (o : BitVec 2) (s : Stall)
  /-- TGRAB (R232): Atomically takes the next chunk of a Tundish counter. -/
  | tgrab (d : Reg) (a : Reg) (s : Stall)
  /-- TINIT (R232): Sets up a Tundish counter from a quad. -/
  | tinit (a : Reg) (b : Reg) (s : Stall)
  /-- VOTE (R168): Collective predicate, ballot or count over the members. -/
  | vote (d : Reg) (a : Reg) (m : Reg) (s : Stall)
  /-- SHFI (R169): Reads register a of the lane named by an index register. -/
  | shfi (d : Reg) (a : Reg) (b : Reg) (s : Stall)
  /-- SHFU (R169): Reads register a of the lane delta slots below. -/
  | shfu (d : Reg) (a : Reg) (n : Reg) (s : Stall)
  /-- SHFD (R169): Reads register a of the lane delta slots above. -/
  | shfd (d : Reg) (a : Reg) (n : Reg) (s : Stall)
  /-- SHFX (R169): Reads register a of the lane at slot XOR delta. -/
  | shfx (d : Reg) (a : Reg) (n : Reg) (s : Stall)
  /-- REDF (R170): Floating-point reduction over a fixed 64-leaf tree. -/
  | redf (d : Reg) (a : Reg) (m : Reg) (s : Stall)
  /-- REDI (R171): Integer reduction over the live members. -/
  | redi (d : Reg) (a : Reg) (m : Reg) (s : Stall)
  /-- SCNI (R172): Integer prefix scan in lane-slot order. -/
  | scni (d : Reg) (a : Reg) (x : BitVec 1) (o : BitVec 3) (s : Stall)
  /-- MATCH (R173): Mask of live members holding the same value. -/
  | matchw (d : Reg) (a : Reg) (s : Stall)
  /-- ELECT (R174): Writes 1 to the lowest lane of the issuing group. -/
  | elect (d : Reg) (s : Stall)
  /-- QSWZ (R175): Reads register a of a lane of the same quad. -/
  | qswz (d : Reg) (a : Reg) (b : Reg) (s : Stall)
  /-- SBIND (R177): Binds or unbinds a stream to a window slot. -/
  | sbind (n : Reg) (a : Reg) (b : Reg) (s : Stall)
  /-- SPOS (R179): Reads and optionally sets a lane's stream position. -/
  | spos (d : Reg) (a : Reg) (t : BitVec 1) (n : BitVec 3) (s : Stall)
  /-- QBIND (R180): Binds or unbinds a queue register to a window slot. -/
  | qbind (q : Reg) (b : Reg) (s : Stall)
  /-- WSPL (R182): Spills whole units from the allotment to the spill stack. -/
  | wspl (k : Reg) (s : Stall)
  /-- WFIL (R182): Fills whole units from the spill stack. -/
  | wfil (k : Reg) (s : Stall)
  /-- DSP (R131): Dispatches on the guest opcode at gpc through the handler table, possibly regrouping. -/
  | dsp (c : Reg) (s : Stall)
  /-- GLDB (R134): Loads a guest code byte relative to gpc, zero-extended. -/
  | gldb (d : Reg) (i : Imm) (s : Stall)
  /-- GLDBS (R134): Loads a guest code byte, sign-extended. -/
  | gldbs (d : Reg) (i : Imm) (s : Stall)
  /-- GLDH (R134): Loads a guest halfword, zero-extended. -/
  | gldh (d : Reg) (i : Imm) (s : Stall)
  /-- GLDHS (R134): Loads a guest halfword, sign-extended. -/
  | gldhs (d : Reg) (i : Imm) (s : Stall)
  /-- GLDW (R134): Loads a guest word. -/
  | gldw (d : Reg) (i : Imm) (s : Stall)
  /-- GADV (R135): Advances gpc by an immediate or by glen. -/
  | gadv (i : Imm) (s : Stall)
  /-- GJMP (R135): Sets gpc to a register. -/
  | gjmp (a : Reg) (s : Stall)
  /-- GJREL (R135): Adds a register to gpc. -/
  | gjrel (a : Reg) (s : Stall)
  /-- GTRAP (R136): Raises a guest trap of kind 4 with a code. -/
  | gtrap (i : Imm14) (s : Stall)
  /-- BLD (R200): Loads a Crucible bank from a tile descriptor as a job. -/
  | bld (k : Reg) (a : Reg) (b : Reg) (s : Stall)
  /-- CBL (R201): Loads a codebook table. -/
  | cbl (t : Reg) (a : Reg) (s : Stall)
  /-- MMA (R202): Narrow matrix product into an accumulator slot. -/
  | mma (d : Reg) (a : Reg) (b : Reg) (s : Stall)
  /-- MMAB (R203): Narrow matrix product whose A rows come from a slot. -/
  | mmab (d : Reg) (a : Reg) (b : Reg) (s : Stall)
  /-- MMAS (R223): Sliced FP32 or FP64 product into a slot. -/
  | mmas (d : Reg) (a : Reg) (b : Reg) (s : Stall)
  /-- DRN (R204): Drains 8 columns of a slot into registers. -/
  | drn (d : Reg) (a : Reg) (w : BitVec 1) (g : BitVec 2) (s : Stall)
  /-- ACZ (R205): Zeros the active rows of a slot or slot pair. -/
  | acz (d : Reg) (p : BitVec 1) (s : Stall)
  /-- ACL (R204): Loads 8 columns of a slot from registers. -/
  | acl (d : Reg) (a : Reg) (w : BitVec 1) (g : BitVec 2) (s : Stall)
  /-- RQT (R206): Submits a requantising transpose job of a CB4 tile. -/
  | rqt (d : Reg) (a : Reg) (b : Reg) (s : Stall)
  /-- MSTAT (R208): Reads Crucible status through the matrix queue. -/
  | mstat (d : Reg) (b : Reg) (s : Stall)
  /-- DWAIT (R234): Holds the group's next run until a done counter reaches a value. -/
  | dwait (d : Reg) (a : Reg) (s : Stall)
  /-- DPOLL (R234): Reads a done counter without waiting. -/
  | dpoll (d : Reg) (a : Reg) (s : Stall)
  /-- DRST (R234): Resets a done counter to 0. -/
  | drst (d : Reg) (s : Stall)
  /-- RWAIT (R236): Returns the head slot of a ring when filled. -/
  | rwait (d : Reg) (a : Reg) (s : Stall)
  /-- RREL (R236): Releases the head slot of a ring. -/
  | rrel (d : Reg) (s : Stall)
  /-- RCLM (R236): Claims a free ring slot to fill. -/
  | rclm (d : Reg) (a : Reg) (s : Stall)
  /-- RCMT (R236): Commits a claimed ring slot. -/
  | rcmt (d : Reg) (a : Reg) (s : Stall)
  /-- BAR (R237): Arrives at a barrier of every live thread of the block and waits. -/
  | bar (b : Reg) (s : Stall)
  /-- BARA (R237): Arrives at a counted barrier without waiting. -/
  | bara (a : Reg) (b : Reg) (s : Stall)
  /-- BARW (R237): Arrives at a counted barrier and waits. -/
  | barw (a : Reg) (b : Reg) (s : Stall)
  /-- SRD (R375): Reads a special register by selector. -/
  | srd (d : Reg) (b : Reg) (s : Stall)
  /-- SWR (R375): Writes a special register by selector. -/
  | swr (a : Reg) (b : Reg) (s : Stall)
  /-- PCRD (R376): Reads a top-down counter into a pair. -/
  | pcrd (d : Reg) (a : Reg) (s : Stall)
  /-- TMRK (R377): Writes a trace marker record per active lane when enabled. -/
  | tmrk (i : Imm14) (s : Stall)
  /-- TIME (R376): Reads package time in nanoseconds into a pair. -/
  | time (d : Reg) (s : Stall)
  /-- TOLUNE_INSTRUCTION (R52): The Tolune front end decodes and executes one 4-byte Tolune instruction as a precise stopping point. -/
  | toluneInstruction (w l : Nat)
  /-- PORT_RUN_CHOICE (R151): A port with no run in progress chooses an eligible gang and issues its run. -/
  | portRunChoice (core port : Nat)
  /-- STRAY_ISSUE (R149): A port issues a stray word in a cycle with no gang word. -/
  | strayIssue (core port : Nat)
  /-- STRAY_PROMOTION (R149): A stray eligible for 256 cycles takes the next cycle before any gang word. -/
  | strayPromotion (w l : Nat)
  /-- GANG_AGING_PROMOTION (R151): A gang eligible but unchosen for 1024 cycles is promoted above every priority. -/
  | gangAgingPromotion (w l : Nat)
  /-- REGROUP_HOLD_EXPIRY (R132): A candidate held to gather partners is released for regrouping. -/
  | regroupHoldExpiry (w l : Nat)
  /-- LOOP_BUFFER_REFILL (R148): A stray's loop-buffer refill completes and its run may issue. -/
  | loopBufferRefill (w l : Nat)
  /-- LOAD_RESULT_DELIVER (R153): A load result reaches its register and frees its request. -/
  | loadResultDeliver (w l n : Nat)
  /-- STORE_PERFORMED (R155): A store is performed at its memory, or acknowledged from another die, and frees its request. -/
  | storePerformed (w : Nat)
  /-- ATOMIC_RESULT_DELIVER (R228): An atomic's old value reaches its register. -/
  | atomicResultDeliver (w l n : Nat)
  /-- DIVIDE_RESULT_DELIVER (R72): An integer divide result is delivered from the port divider. -/
  | divideResultDeliver (w l n : Nat)
  /-- FDIV_RESULT_DELIVER (R97): A divide-and-root unit result is delivered. -/
  | fdivResultDeliver (w l n : Nat)
  /-- GUEST_LOAD_DELIVER (R134): A guest load result reaches its register. -/
  | guestLoadDeliver (w l n : Nat)
  /-- RPUT_WRITE_DELIVER (R126): The register written by rput is delivered. -/
  | rputWriteDeliver (w l n : Nat)
  /-- DSP_READS_COMPLETE (R131): Both dsp reads complete and the handler run becomes eligible. -/
  | dspReadsComplete (w l : Nat)
  /-- SPINW_REREAD (R129): A parked lane's word is read again on a store or after about 64 cycles. -/
  | spinwReread (w l : Nat)
  /-- DPOLL_RESULT_DELIVER (R234): A dpoll value reaches its register. -/
  | dpollResultDeliver (w l n : Nat)
  /-- TGRAB_RESULT_DELIVER (R232): The grabbed chunk pair reaches its registers. -/
  | tgrabResultDeliver (w l n : Nat)
  /-- RING_SLOT_DELIVER (R236): A pending rwait or rclm result is delivered when a commit or release makes the slot available. -/
  | ringSlotDeliver (w l n : Nat)
  /-- STREAM_ELEMENT_ARRIVE (R160): A stream element arrives and a waiting read proceeds. -/
  | streamElementArrive (w l n : Nat)
  /-- MATRIX_PRODUCT_START (R187): The Crucible begins the next accepted word of its matrix queue. -/
  | matrixProductStart (core : Nat)
  /-- NARROW_PRODUCT_COMPLETE (R195): A narrow product passes its checksum and commits to the slot. -/
  | narrowProductComplete (core : Nat)
  /-- SLICED_PASS_COMPLETE (R219): A sliced pass ends, checks its checksum, and after the last pass commits the slot. -/
  | slicedPassComplete (core : Nat)
  /-- BLD_COMPLETE (R200): A bank load completes and the bank's tag is set. -/
  | bldComplete (core : Nat)
  /-- CBL_COMPLETE (R201): A codebook table load completes. -/
  | cblComplete (core : Nat)
  /-- DRAIN_RESULT_DELIVER (R204): Drained accumulator values reach their registers. -/
  | drainResultDeliver (core : Nat)
  /-- MSTAT_RESULT_DELIVER (R208): The mstat value is delivered after earlier matrix words complete. -/
  | mstatResultDeliver (core : Nat)
  /-- RQT_JOB_COMPLETE (R207): A requantising transpose writes its tile and raises its done counter. -/
  | rqtJobComplete (j : Nat)
  /-- STAGING_REGISTER_WRITE (R238): A store to JC0 to JC3 writes the staging register and sets its written bit. -/
  | stagingRegisterWrite (w : Nat)
  /-- GO (R238): A store to GO checks and submits the lane's job card. -/
  | go (w : Nat)
  /-- JOB_START (R243): The hazard unit lets a job start once every earlier edge has completed. -/
  | jobStart (j : Nat)
  /-- JOB_RING_CLAIM (R241): A waiting ring-destination job claims a freed slot. -/
  | jobRingClaim (j : Nat)
  /-- JOB_CHUNK_COMPLETE (R244): A 4 KiB chunk of a job is written. -/
  | jobChunkComplete (j : Nat)
  /-- PAGE_WALK_COMPLETE (R337): A translation walk completes with a mapping, page fault or malformed entry. -/
  | pageWalkComplete (j : Nat)
  /-- PEER_CHUNK_ACK (R388): A peer acknowledges a chunk as performed at its main memory. -/
  | peerChunkAck (j : Nat)
  /-- JOB_COMPLETE (R242): A job's last byte is written and it completes. -/
  | jobComplete (j : Nat)
  /-- LADLE_CHANNEL_ERROR (R245): A Ladle channel error fences the channel and stops its jobs. -/
  | ladleChannelError (cluster channel : Nat)
  /-- RQT_ERROR (R245): An RQT error ends its job and fences the RQT. -/
  | rqtError (cluster : Nat)
  /-- RING_STATE_ERROR (R245): An uncorrectable error in ring or counter state gives a pipeline-error record. -/
  | ringStateError (b : Nat)
  /-- PATROL_SCRUB (R253): The patrol scrubber visits a scratchpad line and writes back corrections. -/
  | patrolScrub (addr : Nat)
  /-- SLIPWAY_FLIT_RETRY (R343): A Slipway flit failing its CRC is resent from the retry buffer. -/
  | slipwayFlitRetry
  /-- SLIPWAY_LINK_FENCE (R343): An unrecoverable Slipway is fenced until module reset. -/
  | slipwayLinkFence
  /-- TOWLINE_FLIT_RETRY (R386): A Towline flit failing its CRC is resent. -/
  | towlineFlitRetry (link : Nat)
  /-- TOWLINE_LINK_FENCE (R391): An unrecoverable Towline is fenced and its jobs stop. -/
  | towlineLinkFence (link : Nat)
  /-- QTAIL (R347): A host write of a launch queue's tail makes its records readable. -/
  | qtail (q v : Nat)
  /-- REGISTER_BLOCK_WRITE (R345): A host write to a register-block register with no row of its own, such as CBASE, CSIZE, CIDX or CASID. -/
  | registerBlockWrite (off size v : Nat)
  /-- LAUNCH_RECORD (R263): The Ferryman takes a kind-0 launch record and reads its header. -/
  | launchRecord (q : Nat)
  /-- MARKER_RECORD (R263): A marker record completes when every earlier record of its queue has completed. -/
  | markerRecord (q : Nat)
  /-- PATCH_ACTIVATION (R328): A kind-1 record verifies a signed patch image and writes it into the non-current bank. -/
  | patchActivation (q : Nat)
  /-- PATCH_ACTIVATION_COMPLETE (R328): The activation, after any live sweep, switches the current bank and posts its completion. -/
  | patchActivationComplete
  /-- BIND_BLOCK (R264): With room to bind, the Ferryman chooses a ready head and binds its next block. -/
  | bindBlock (die : Nat)
  /-- BIND_RECORD (R268): The dispatch hardware obeys a bind record and starts the warp's threads. -/
  | bindRecord (core : Nat)
  /-- UNBIND_NOTICE (R270): A warp whose last thread stopped frees its slot and notifies the Ferryman. -/
  | unbindNotice (w : Nat)
  /-- BLOCK_COMPLETE (R255): A block whose threads and jobs are done writes its completion record. -/
  | blockComplete (b : Nat)
  /-- WINDOW_OPEN_COMPLETE (R252): Window preparation completes and an open-complete entry is posted. -/
  | windowOpenComplete (ctx win : Nat)
  /-- ENGINE_STOP_ACK (R309): An engine reaches its stop point, writes its image part and acknowledges. -/
  | engineStopAck (b kind id : Nat)
  /-- PREEMPT_STALL_TIMEOUT (R310): After 20 µs a group stalled in its run is stopped at the stalled word. -/
  | preemptStallTimeout (w l : Nat)
  /-- PREEMPT_QUANTUM_EXPIRY (R271): A resumed block becomes pre-emptable again after 200 µs. -/
  | preemptQuantumExpiry (b : Nat)
  /-- QUEUE_HEAD_AGING (R264): A ready head unchosen for 1 ms is treated as priority 3 for its next choice. -/
  | queueHeadAging (q : Nat)
  /-- TRAP_RECORD_POST (R302): The Ferryman posts a trap record to the context's trap ring when room exists. -/
  | trapRecordPost (ctx : Nat)
  /-- SERVICE_REQUEST_POST (R351): A parked warp's service request entry is written when the ring has room. -/
  | serviceRequestPost (ctx : Nat)
  /-- SERVICE_WARP_REBIND (R352): A parked service-call warp is rebound once its core has room. -/
  | serviceWarpRebind (ctx : Nat)
  /-- RING_HEAD_RELEASE (R347): An RDOOR write of a device-produced ring's head frees its units. -/
  | ringHeadRelease (v : Nat)
  /-- TRAP_REPLY_RESUME (R304): Reply action 0 resumes the named parked lanes. -/
  | trapReplyResume (ctx : Nat)
  /-- TRAP_REPLY_REDIRECT (R304): Reply action 1 resumes the named lanes at a new pc as strays. -/
  | trapReplyRedirect (ctx : Nat)
  /-- TRAP_REPLY_ABORT (R304): Reply action 2 aborts the launch. -/
  | trapReplyAbort (ctx : Nat)
  /-- TRAP_REPLY_CHUNK_SERVICED (R304): Reply action 3 resumes a faulted job at its chunk. -/
  | trapReplyChunkServiced (ctx : Nat)
  /-- TRAP_REPLY_CHUNK_FATAL (R304): Reply action 4 stops a faulted job as a fatal fault. -/
  | trapReplyChunkFatal (ctx : Nat)
  /-- SERVICE_REPLY_RESUME (R352): Service reply action 0 rebinds the warp with replaced registers. -/
  | serviceReplyResume (ctx : Nat)
  /-- SERVICE_REPLY_ABORT (R352): Service reply action 2 aborts the launch. -/
  | serviceReplyAbort (ctx : Nat)
  /-- WINDOW_OPEN (R252): Command 1 opens a context window. -/
  | windowOpen
  /-- WINDOW_CLOSE (R252): Command 2 starts closing a window. -/
  | windowClose
  /-- WINDOW_DESCRIPTOR_READ (R349): Command 3 writes a window descriptor to a host buffer. -/
  | windowDescriptorRead
  /-- RING_DEFINE (R346): Command 4 defines or undefines a context ring. -/
  | ringDefine
  /-- QUEUE_DEFINE (R349): Command 5 defines a launch queue with owner and priority. -/
  | queueDefine
  /-- TRANSLATION_ROOT (R349): Command 6 sets the context's translation root and host address space. -/
  | translationRoot
  /-- INVALIDATE (R339): Command 7 invalidates cached translations of a VA range. -/
  | invalidate
  /-- SHADOW_POOL_GRANT (R341): Command 8 grants memory to the context's shadow pool. -/
  | shadowPoolGrant
  /-- CONTEXT_SUSPEND (R348): Command 9 pre-empts every block of the context and holds its queues. -/
  | contextSuspend
  /-- CONTEXT_RESUME (R348): Command 10 releases the context's queues. -/
  | contextResume
  /-- SLOT_RESET (R269): Command 11 resets a fenced warp slot. -/
  | slotReset
  /-- STATUS_READ (R349): Command 12 writes queue stall and fence status to a host buffer. -/
  | statusRead
  /-- FIRMWARE_LOAD (R348): Command 13 verifies a firmware image and writes board flash. -/
  | firmwareLoad
  /-- QUOTE (R334): Command 14 returns an identity-key signed measurement over a nonce. -/
  | quote
  /-- TOLUNE_DEFINE (R368): Command 15 records a Tolune range and translation map. -/
  | toluneDefine
  /-- TRANSLATION_INSTALL (R368): Command 16 installs translation map words after clearing instruction caches. -/
  | translationInstall
  /-- TRACE_SET (R385): Command 17 enables trace records and arms a watched region. -/
  | traceSet
  /-- COMPARATOR_SET (R385): Command 18 programs a debug comparator. -/
  | comparatorSet
  /-- WARP_STOP (R385): Command 19 halts every group of a warp at its next run boundary. -/
  | warpStop
  /-- PEER_BIND (R386): Command 20 binds or unbinds a Towline link for a peer context. -/
  | peerBind
  /-- CONTEXT_DEFINE (R349): Command 21 creates a context or sets its scratchpad quota. -/
  | contextDefine
  /-- CONTEXT_RELEASE (R349): Command 22 frees a context once its work is done. -/
  | contextRelease
  /-- STICKY_CLEAR (R349): Command 23 clears the context's sticky error bits. -/
  | stickyClear
  /-- CLOCK_THROTTLE (R353): The Ferryman lowers or raises the arithmetic clock in 100 MHz steps. -/
  | clockThrottle (mhz : Nat)
  /-- FREEZE_N (R354): Driving FREEZE_N low stops every clock of the package. -/
  | freezeN (low : Nat)
  /-- MODULE_RESET (R354): A module reset restarts the package in its reset state. -/
  | moduleReset
  /-- POWER_ON (R335): At power-on the Ferryman burns the next leaf-block counter step. -/
  | powerOn
  /-- POWER_LOSS (R354): Module power is removed and every piece of package state is lost except the fuses and the board-flash leaf index. -/
  | powerLoss
  /-- TOWLINE_PEER_REQUEST (R387): A peer's job chunk arrives over a Towline, is translated in the bound context and performed at this device's main memory, and is acknowledged. -/
  | towlinePeerRequest (link op va data : Nat)
  /-- PEER_FAULT_RETURN (R387): A fault that arises in the peer's walk returns to the submitting die, which parks the job and posts an event-9 record with space 3, or stops the job when the peer declares the fault fatal. -/
  | peerFaultReturn (j why : Nat)
  /-- TOWLINE_LINK_TRAINED (R386): A Towline link completes training and becomes usable for peer binding. -/
  | towlineLinkTrained (link : Nat)
  /-- FIRMWARE_READY (R345): The Ferryman firmware starts running after a reset and sets the ready bit of the register block. -/
  | firmwareReady
  /-- COLLECTIVE_RESULT_DELIVER (R165): A completed collective delivers its results to every issuing lane, which makes their next runs eligible. -/
  | collectiveResultDeliver (w n : Nat)
  /-- THREAD_MOVE_COMPLETE (R157): A merge or regroup migration finishes copying a thread into its new slot, and that thread's words may issue again. -/
  | threadMoveComplete (w l : Nat)
  /-- INSTRUCTION_CACHE_REFILL (R162): An instruction-cache line being fetched or refetched from scratchpad arrives, and the waiting word can issue or its lanes are switched off when the copy is poisoned. -/
  | instructionCacheRefill (w l : Nat)
  deriving DecidableEq, Repr

end Sys2Proof
end

