-- ==== Sys2Proof/WellFormed.lean ====
section
/-!
DEFINITION. Well-formed instructions: the field rules of R25 to R31, of each instruction's own description, and the
bounds a native word or a Tolune instruction can encode.
-/

namespace Sys2Proof

/-- The reason codes of an illegal instruction (R46). -/
inductive Reason where
  | reservedOpcode | patchOpcode | reservedField | illegalOrder | extMisuse | bodyTooLong | runEndNotLast
  | emptyRun | temporaryUnwritten | illegalUse | notInTolune
  deriving DecidableEq, Repr

/-- The number R46 gives a reason. -/
def Reason.code : Reason → Nat
  | .reservedOpcode => 0 | .patchOpcode => 1 | .reservedField => 2 | .illegalOrder => 3 | .extMisuse => 4
  | .bodyTooLong => 5 | .runEndNotLast => 6 | .emptyRun => 7 | .temporaryUnwritten => 8 | .illegalUse => 9
  | .notInTolune => 10

namespace Field

/-- An even register, as a pair needs (R25). -/
def even (r : Reg) : Bool := r &&& 1 == 0
/-- A multiple of 4, as a quad needs (R25). -/
def quad (r : Reg) : Bool := r &&& 3 == 0
/-- A multiple of 8, as a drained group needs (R204). -/
def oct (r : Reg) : Bool := r &&& 7 == 0
/-- At most `n`. -/
def le {w : Nat} (r : BitVec w) (n : Nat) : Bool := decide (r.toNat ≤ n)
/-- A slot from 0 to 119, or 127 for none (R31). -/
def slotOrNone (r : Reg) : Bool := le r 119 || r == 127
/-- The `cvt` codes whose destination is a pair (R106). -/
def cvtPairD (c : Reg) : Bool := c == 6 || c == 7 || c == 8 || (le (14 : Reg) c.toNat && le c 17)
/-- The `cvt` codes whose source is a pair (R106). -/
def cvtPairA (c : Reg) : Bool := c == 4 || c == 5 || c == 9 || (le (14 : Reg) c.toNat && le c 17)
/-- A 7-bit field of a native word. -/
def seven (r : BitVec 8) : Bool := (r.setWidth 7).setWidth 8 == r
/-- A sign-extended 7-bit field of a native word. -/
def seven' (r : BitVec 8) : Bool := (r.setWidth 7).signExtend 8 == r
/-- An unsigned 14-bit field of a native word. -/
def fourteen (r : BitVec 16) : Bool := (r.setWidth 14).setWidth 16 == r
/-- A sign-extended 14-bit field of a native word. -/
def fourteen' (r : BitVec 16) : Bool := (r.setWidth 14).signExtend 16 == r
/-- A sign-extended 21-bit field of a native word. -/
def twentyOne' (r : BitVec 24) : Bool := (r.setWidth 21).signExtend 24 == r
/-- A Tolune byte offset of a branch is a multiple of 4 (R51). -/
def offset16 (r : BitVec 16) : Bool := r &&& 3 == 0
/-- A Tolune byte offset of a jump is a multiple of 4 (R51). -/
def offset24 (r : BitVec 24) : Bool := r &&& 3 == 0

end Field

/-- The first failing check of a list, each with its reason. -/
def firstFailure : List (Bool × Reason) → Option Reason
  | [] => none
  | (ok, r) :: rest => if ok then firstFailure rest else some r

open Sys2Proof.Field in
/-- The field checks of one instruction (R25 to R31 and its own description), in order, the same for native words and
for Tolune. That a reserved value is named before an order code, and both before the EXT check, is the model's reading (log entry
113). -/
def Instr.fieldFault : Instr → Option Reason
  | .nop _ => none
  | .runt d a b f => firstFailure [(slotOrNone d && slotOrNone a && slotOrNone b, .reservedField), (!f.getLsbD 2, .reservedField)]
  | .ext _ => none
  | .bra _ _ => none
  | .bnz _ _ _ => none
  | .bz _ _ _ => none
  | .bltz _ _ _ => none
  | .bgez _ _ _ => none
  | .jpt _ _ => none
  | .rejoin _ => none
  | .call _ _ _ => none
  | .callr _ _ _ => none
  | .ret _ => none
  | .jmpr _ _ => none
  | .land _ => none
  | .exit _ => none
  | .svc i _ => firstFailure [(le i 16383, .reservedField)]
  | .trap i _ => firstFailure [(le i 16383, .reservedField)]
  | .brk i _ => firstFailure [(le i 16383, .reservedField)]
  | .spinw _ _ _ _ => none
  | .wbase d _ _ => firstFailure [(le d 1, .reservedField)]
  | .rget _ _ _ => none
  | .rput _ _ _ => none
  | .add _ _ _ _ => none
  | .sub _ _ _ _ => none
  | .mul _ _ _ _ => none
  | .mulhs _ _ _ _ => none
  | .mulhu _ _ _ _ => none
  | .mad _ _ _ _ => none
  | .divs _ _ _ _ => none
  | .divu _ _ _ _ => none
  | .rems _ _ _ _ => none
  | .remu _ _ _ _ => none
  | .and _ _ _ _ => none
  | .or _ _ _ _ => none
  | .xor _ _ _ _ => none
  | .andn _ _ _ _ => none
  | .shl _ _ _ _ => none
  | .shr _ _ _ _ => none
  | .sar _ _ _ _ => none
  | .rol _ _ _ _ => none
  | .mins _ _ _ _ => none
  | .minu _ _ _ _ => none
  | .maxs _ _ _ _ => none
  | .maxu _ _ _ _ => none
  | .seq _ _ _ _ => none
  | .sne _ _ _ _ => none
  | .slt _ _ _ _ => none
  | .sltu _ _ _ _ => none
  | .sle _ _ _ _ => none
  | .sleu _ _ _ _ => none
  | .csel _ _ _ _ => none
  | .mov _ _ _ => none
  | .clz _ _ _ => none
  | .ctz _ _ _ => none
  | .popc _ _ _ => none
  | .brev _ _ _ => none
  | .abs _ _ _ => none
  | .bfxu _ _ _ _ => none
  | .bfxs _ _ _ _ => none
  | .bfi _ _ _ _ => none
  | .addi _ _ _ _ => none
  | .andi _ _ _ _ => none
  | .ori _ _ _ _ => none
  | .xori _ _ _ _ => none
  | .shli _ _ _ _ => none
  | .shri _ _ _ _ => none
  | .sari _ _ _ _ => none
  | .movi _ _ _ => none
  | .slti _ _ _ _ => none
  | .seqi _ _ _ _ => none
  | .lea1 _ _ _ _ => none
  | .lea2 _ _ _ _ => none
  | .lea4 _ _ _ _ => none
  | .lea8 _ _ _ _ => none
  | .add64 d a b _ => firstFailure [(even d, .reservedField), (even a, .reservedField), (even b, .reservedField)]
  | .sub64 d a b _ => firstFailure [(even d, .reservedField), (even a, .reservedField), (even b, .reservedField)]
  | .mulw d _ _ _ => firstFailure [(even d, .reservedField)]
  | .sltu64 _ a b _ => firstFailure [(even a, .reservedField), (even b, .reservedField)]
  | .fadd _ _ _ _ => none
  | .fsub _ _ _ _ => none
  | .fmul _ _ _ _ => none
  | .ffma _ _ _ _ => none
  | .ffms _ _ _ _ => none
  | .fmin _ _ _ _ => none
  | .fmax _ _ _ _ => none
  | .fcps _ _ _ _ => none
  | .feq _ _ _ _ => none
  | .flt _ _ _ _ => none
  | .fle _ _ _ _ => none
  | .funo _ _ _ _ => none
  | .frcp _ _ _ => none
  | .frsq _ _ _ => none
  | .fsqrt _ _ _ => none
  | .fdiv _ _ _ _ => none
  | .fexp2 _ _ _ => none
  | .flog2 _ _ _ => none
  | .fsin _ _ _ => none
  | .fcos _ _ _ => none
  | .dadd d a b _ => firstFailure [(even d, .reservedField), (even a, .reservedField), (even b, .reservedField)]
  | .dsub d a b _ => firstFailure [(even d, .reservedField), (even a, .reservedField), (even b, .reservedField)]
  | .dmul d a b _ => firstFailure [(even d, .reservedField), (even a, .reservedField), (even b, .reservedField)]
  | .dfma d a b _ => firstFailure [(even d, .reservedField), (even a, .reservedField), (even b, .reservedField)]
  | .dmin d a b _ => firstFailure [(even d, .reservedField), (even a, .reservedField), (even b, .reservedField)]
  | .dmax d a b _ => firstFailure [(even d, .reservedField), (even a, .reservedField), (even b, .reservedField)]
  | .deq _ a b _ => firstFailure [(even a, .reservedField), (even b, .reservedField)]
  | .dlt _ a b _ => firstFailure [(even a, .reservedField), (even b, .reservedField)]
  | .dle _ a b _ => firstFailure [(even a, .reservedField), (even b, .reservedField)]
  | .ddiv d a b _ => firstFailure [(even d, .reservedField), (even a, .reservedField), (even b, .reservedField)]
  | .dsqrt d a _ => firstFailure [(even d, .reservedField), (even a, .reservedField)]
  | .drcp d a _ => firstFailure [(even d, .reservedField), (even a, .reservedField)]
  | .hadd2 _ _ _ _ => none
  | .hmul2 _ _ _ _ => none
  | .hfma2 _ _ _ _ => none
  | .badd2 _ _ _ _ => none
  | .bmul2 _ _ _ _ => none
  | .bfma2 _ _ _ _ => none
  | .cvt d a c _ => firstFailure [(le c 17, .reservedField), (!(cvtPairD c) || even d, .reservedField), (!(cvtPairA c) || even a, .reservedField)]
  | .cvtz d a c _ => firstFailure [(le c 17, .reservedField), (!(cvtPairD c) || even d, .reservedField), (!(cvtPairA c) || even a, .reservedField)]
  | .fclass _ _ _ => none
  | .fldx _ _ _ _ => none
  | .frnd _ _ m _ => firstFailure [(le m 4, .reservedField)]
  | .drnd d a m _ => firstFailure [(le m 4, .reservedField), (even d, .reservedField), (even a, .reservedField)]
  | .fdot2 _ _ _ _ => none
  | .hdot2 _ _ _ _ => none
  | .packb _ _ _ _ => none
  | .packh _ _ _ _ => none
  | .ldb _ _ _ _ => none
  | .ldbs _ _ _ _ => none
  | .ldh _ _ _ _ => none
  | .ldhs _ _ _ _ => none
  | .ldw _ _ _ _ => none
  | .ldd d _ _ _ => firstFailure [(even d, .reservedField)]
  | .ldq d _ _ _ => firstFailure [(quad d, .reservedField)]
  | .stb _ _ _ _ => none
  | .sth _ _ _ _ => none
  | .stw _ _ _ _ => none
  | .std d _ _ _ => firstFailure [(even d, .reservedField)]
  | .stq d _ _ _ => firstFailure [(quad d, .reservedField)]
  | .ldo d _ c o z _ => firstFailure [(le c 10, .reservedField), (z == 0 || even d, .reservedField), (o != 2, .illegalOrder)]
  | .sto d _ c o z _ => firstFailure [(le c 10, .reservedField), (z == 0 || even d, .reservedField), (o != 1, .illegalOrder)]
  | .aadd d _ c _ z _ => firstFailure [(le c 10, .reservedField), (z == 0 || even d, .reservedField)]
  | .aand d _ c _ z _ => firstFailure [(le c 10, .reservedField), (z == 0 || even d, .reservedField)]
  | .aor d _ c _ z _ => firstFailure [(le c 10, .reservedField), (z == 0 || even d, .reservedField)]
  | .axor d _ c _ z _ => firstFailure [(le c 10, .reservedField), (z == 0 || even d, .reservedField)]
  | .amins d _ c _ z _ => firstFailure [(le c 10, .reservedField), (z == 0 || even d, .reservedField)]
  | .aminu d _ c _ z _ => firstFailure [(le c 10, .reservedField), (z == 0 || even d, .reservedField)]
  | .amaxs d _ c _ z _ => firstFailure [(le c 10, .reservedField), (z == 0 || even d, .reservedField)]
  | .amaxu d _ c _ z _ => firstFailure [(le c 10, .reservedField), (z == 0 || even d, .reservedField)]
  | .axch d _ c _ z _ => firstFailure [(le c 10, .reservedField), (z == 0 || even d, .reservedField)]
  | .acas d _ c _ z _ => firstFailure [(le c 10, .reservedField), (if z == 0 then even d else quad d, .reservedField)]
  | .afxa d _ c _ z _ => firstFailure [(le c 10, .reservedField), (z == 0 || even d, .reservedField)]
  | .afxr d _ c _ z _ => firstFailure [(le c 10, .reservedField), (z == 0 || even d, .reservedField)]
  | .afxz _ _ c _ _ => firstFailure [(le c 10, .reservedField)]
  | .fence c o _ => firstFailure [(le c 10, .reservedField), (o != 0, .illegalOrder)]
  | .tgrab d _ _ => firstFailure [(even d, .reservedField)]
  | .tinit _ b _ => firstFailure [(quad b, .reservedField)]
  | .vote d _ m _ => firstFailure [(le m 4, .reservedField), (m != 2 || even d, .reservedField)]
  | .shfi _ _ _ _ => none
  | .shfu _ _ n _ => firstFailure [(le n 63, .reservedField)]
  | .shfd _ _ n _ => firstFailure [(le n 63, .reservedField)]
  | .shfx _ _ n _ => firstFailure [(le n 63, .reservedField)]
  | .redf _ _ m _ => firstFailure [(le m 2, .reservedField)]
  | .redi _ _ m _ => firstFailure [(le m 5, .reservedField)]
  | .scni _ _ _ o _ => firstFailure [(le o 5, .reservedField)]
  | .matchw d _ _ => firstFailure [(even d, .reservedField)]
  | .elect _ _ => none
  | .qswz _ _ _ _ => none
  | .sbind n a b _ => firstFailure [(le n 7, .reservedField), (quad a, .reservedField), (slotOrNone b, .reservedField), (b != 127 || a == 0, .reservedField)]
  | .spos _ a t _ _ => firstFailure [(t == 1 || a == 0, .reservedField)]
  | .qbind q b _ => firstFailure [(le q 7, .reservedField), (slotOrNone b, .reservedField)]
  | .wspl _ _ => none
  | .wfil _ _ => none
  | .dsp c _ => firstFailure [(le c 119, .reservedField)]
  | .gldb _ _ _ => none
  | .gldbs _ _ _ => none
  | .gldh _ _ _ => none
  | .gldhs _ _ _ => none
  | .gldw _ _ _ => none
  | .gadv _ _ => none
  | .gjmp _ _ => none
  | .gjrel _ _ => none
  | .gtrap i _ => firstFailure [(le i 16383, .reservedField)]
  | .bld k _ _ _ => firstFailure [(le k 7, .reservedField)]
  | .cbl t _ _ => firstFailure [(le t 1, .reservedField)]
  | .mma d a _ _ => firstFailure [(le d 7, .reservedField), (quad a, .reservedField)]
  | .mmab d a _ _ => firstFailure [(le d 7, .reservedField), (le a 7, .reservedField)]
  | .mmas d a _ _ => firstFailure [(le d 7, .reservedField), (quad a, .reservedField)]
  | .drn d a w _ _ => firstFailure [(oct d, .reservedField), (le a 7, .reservedField), (w == 0 || even a, .reservedField)]
  | .acz d p _ => firstFailure [(le d 7, .reservedField), (p == 0 || even d, .reservedField)]
  | .acl d a w _ _ => firstFailure [(le d 7, .reservedField), (oct a, .reservedField), (w == 0 || even d, .reservedField)]
  | .rqt _ _ _ _ => none
  | .mstat _ b _ => firstFailure [(le b 8, .reservedField)]
  | .dwait d _ _ => firstFailure [(le d 63, .reservedField)]
  | .dpoll _ a _ => firstFailure [(le a 63, .reservedField)]
  | .drst d _ => firstFailure [(le d 63, .reservedField)]
  | .rwait _ a _ => firstFailure [(le a 15, .reservedField)]
  | .rrel d _ => firstFailure [(le d 15, .reservedField)]
  | .rclm _ a _ => firstFailure [(le a 15, .reservedField)]
  | .rcmt d _ _ => firstFailure [(le d 15, .reservedField)]
  | .bar b _ => firstFailure [(le b 15, .reservedField)]
  | .bara _ b _ => firstFailure [(le b 15, .reservedField)]
  | .barw _ b _ => firstFailure [(le b 15, .reservedField)]
  | .srd _ _ _ => none
  | .swr _ _ _ => none
  | .pcrd d _ _ => firstFailure [(even d, .reservedField)]
  | .tmrk i _ => firstFailure [(le i 16383, .reservedField)]
  | .time d _ => firstFailure [(even d, .reservedField)]
  | .toluneInstruction _ _ => none
  | .portRunChoice _ _ => none
  | .strayIssue _ _ => none
  | .strayPromotion _ _ => none
  | .gangAgingPromotion _ _ => none
  | .regroupHoldExpiry _ _ => none
  | .loopBufferRefill _ _ => none
  | .loadResultDeliver _ _ _ => none
  | .storePerformed _ => none
  | .atomicResultDeliver _ _ _ => none
  | .divideResultDeliver _ _ _ => none
  | .fdivResultDeliver _ _ _ => none
  | .guestLoadDeliver _ _ _ => none
  | .rputWriteDeliver _ _ _ => none
  | .dspReadsComplete _ _ => none
  | .spinwReread _ _ => none
  | .dpollResultDeliver _ _ _ => none
  | .tgrabResultDeliver _ _ _ => none
  | .ringSlotDeliver _ _ _ => none
  | .streamElementArrive _ _ _ => none
  | .matrixProductStart _ => none
  | .narrowProductComplete _ => none
  | .slicedPassComplete _ => none
  | .bldComplete _ => none
  | .cblComplete _ => none
  | .drainResultDeliver _ => none
  | .mstatResultDeliver _ => none
  | .rqtJobComplete _ => none
  | .stagingRegisterWrite _ => none
  | .go _ => none
  | .jobStart _ => none
  | .jobRingClaim _ => none
  | .jobChunkComplete _ => none
  | .pageWalkComplete _ => none
  | .peerChunkAck _ => none
  | .jobComplete _ => none
  | .ladleChannelError _ _ => none
  | .rqtError _ => none
  | .ringStateError _ => none
  | .patrolScrub _ => none
  | .slipwayFlitRetry => none
  | .slipwayLinkFence => none
  | .towlineFlitRetry _ => none
  | .towlineLinkFence _ => none
  | .qtail _ _ => none
  | .registerBlockWrite _ _ _ => none
  | .launchRecord _ => none
  | .markerRecord _ => none
  | .patchActivation _ => none
  | .patchActivationComplete => none
  | .bindBlock _ => none
  | .bindRecord _ => none
  | .unbindNotice _ => none
  | .blockComplete _ => none
  | .windowOpenComplete _ _ => none
  | .engineStopAck _ _ _ => none
  | .preemptStallTimeout _ _ => none
  | .preemptQuantumExpiry _ => none
  | .queueHeadAging _ => none
  | .trapRecordPost _ => none
  | .serviceRequestPost _ => none
  | .serviceWarpRebind _ => none
  | .ringHeadRelease _ => none
  | .trapReplyResume _ => none
  | .trapReplyRedirect _ => none
  | .trapReplyAbort _ => none
  | .trapReplyChunkServiced _ => none
  | .trapReplyChunkFatal _ => none
  | .serviceReplyResume _ => none
  | .serviceReplyAbort _ => none
  | .windowOpen => none
  | .windowClose => none
  | .windowDescriptorRead => none
  | .ringDefine => none
  | .queueDefine => none
  | .translationRoot => none
  | .invalidate => none
  | .shadowPoolGrant => none
  | .contextSuspend => none
  | .contextResume => none
  | .slotReset => none
  | .statusRead => none
  | .firmwareLoad => none
  | .quote => none
  | .toluneDefine => none
  | .translationInstall => none
  | .traceSet => none
  | .comparatorSet => none
  | .warpStop => none
  | .peerBind => none
  | .contextDefine => none
  | .contextRelease => none
  | .stickyClear => none
  | .clockThrottle _ => none
  | .freezeN _ => none
  | .moduleReset => none
  | .powerOn => none
  | .powerLoss => none
  | .towlinePeerRequest _ _ _ _ => none
  | .peerFaultReturn _ _ => none
  | .towlineLinkTrained _ => none
  | .firmwareReady => none
  | .collectiveResultDeliver _ _ => none
  | .threadMoveComplete _ _ => none
  | .instructionCacheRefill _ _ => none

open Sys2Proof.Field in
/-- The values of the fields are ones a native word holds (R24, R26). -/
def Instr.fitsNative : Instr → Bool
  | .nop _ => true
  | .runt d a b _ => seven d && seven a && seven b
  | .ext _ => true
  | .bra i _ => twentyOne' i
  | .bnz d i _ => seven d && fourteen' i
  | .bz d i _ => seven d && fourteen' i
  | .bltz d i _ => seven d && fourteen' i
  | .bgez d i _ => seven d && fourteen' i
  | .jpt i _ => twentyOne' i
  | .rejoin _ => true
  | .call k i _ => seven k && fourteen' i && k != 0 && le k 15
  | .callr k a _ => seven k && seven a && k != 0 && le k 15
  | .ret _ => true
  | .jmpr a _ => seven a
  | .land _ => true
  | .exit _ => true
  | .svc i _ => fourteen i
  | .trap i _ => fourteen i
  | .brk i _ => fourteen i
  | .spinw d a b _ => seven d && seven a && seven b
  | .wbase d k _ => seven d && seven k
  | .rget d a _ => seven d && seven a
  | .rput d a _ => seven d && seven a
  | .add d a b _ => seven d && seven a && seven b
  | .sub d a b _ => seven d && seven a && seven b
  | .mul d a b _ => seven d && seven a && seven b
  | .mulhs d a b _ => seven d && seven a && seven b
  | .mulhu d a b _ => seven d && seven a && seven b
  | .mad d a b _ => seven d && seven a && seven b
  | .divs d a b _ => seven d && seven a && seven b
  | .divu d a b _ => seven d && seven a && seven b
  | .rems d a b _ => seven d && seven a && seven b
  | .remu d a b _ => seven d && seven a && seven b
  | .and d a b _ => seven d && seven a && seven b
  | .or d a b _ => seven d && seven a && seven b
  | .xor d a b _ => seven d && seven a && seven b
  | .andn d a b _ => seven d && seven a && seven b
  | .shl d a b _ => seven d && seven a && seven b
  | .shr d a b _ => seven d && seven a && seven b
  | .sar d a b _ => seven d && seven a && seven b
  | .rol d a b _ => seven d && seven a && seven b
  | .mins d a b _ => seven d && seven a && seven b
  | .minu d a b _ => seven d && seven a && seven b
  | .maxs d a b _ => seven d && seven a && seven b
  | .maxu d a b _ => seven d && seven a && seven b
  | .seq d a b _ => seven d && seven a && seven b
  | .sne d a b _ => seven d && seven a && seven b
  | .slt d a b _ => seven d && seven a && seven b
  | .sltu d a b _ => seven d && seven a && seven b
  | .sle d a b _ => seven d && seven a && seven b
  | .sleu d a b _ => seven d && seven a && seven b
  | .csel d a b _ => seven d && seven a && seven b
  | .mov d a _ => seven d && seven a
  | .clz d a _ => seven d && seven a
  | .ctz d a _ => seven d && seven a
  | .popc d a _ => seven d && seven a
  | .brev d a _ => seven d && seven a
  | .abs d a _ => seven d && seven a
  | .bfxu d a b _ => seven d && seven a && seven b
  | .bfxs d a b _ => seven d && seven a && seven b
  | .bfi d a b _ => seven d && seven a && seven b
  | .addi d a i _ => seven d && seven a && seven' i
  | .andi d a i _ => seven d && seven a && seven' i
  | .ori d a i _ => seven d && seven a && seven' i
  | .xori d a i _ => seven d && seven a && seven' i
  | .shli d a i _ => seven d && seven a && seven' i
  | .shri d a i _ => seven d && seven a && seven' i
  | .sari d a i _ => seven d && seven a && seven' i
  | .movi d i _ => seven d && fourteen' i
  | .slti d a i _ => seven d && seven a && seven' i
  | .seqi d a i _ => seven d && seven a && seven' i
  | .lea1 d a b _ => seven d && seven a && seven b
  | .lea2 d a b _ => seven d && seven a && seven b
  | .lea4 d a b _ => seven d && seven a && seven b
  | .lea8 d a b _ => seven d && seven a && seven b
  | .add64 d a b _ => seven d && seven a && seven b
  | .sub64 d a b _ => seven d && seven a && seven b
  | .mulw d a b _ => seven d && seven a && seven b
  | .sltu64 d a b _ => seven d && seven a && seven b
  | .fadd d a b _ => seven d && seven a && seven b
  | .fsub d a b _ => seven d && seven a && seven b
  | .fmul d a b _ => seven d && seven a && seven b
  | .ffma d a b _ => seven d && seven a && seven b
  | .ffms d a b _ => seven d && seven a && seven b
  | .fmin d a b _ => seven d && seven a && seven b
  | .fmax d a b _ => seven d && seven a && seven b
  | .fcps d a b _ => seven d && seven a && seven b
  | .feq d a b _ => seven d && seven a && seven b
  | .flt d a b _ => seven d && seven a && seven b
  | .fle d a b _ => seven d && seven a && seven b
  | .funo d a b _ => seven d && seven a && seven b
  | .frcp d a _ => seven d && seven a
  | .frsq d a _ => seven d && seven a
  | .fsqrt d a _ => seven d && seven a
  | .fdiv d a b _ => seven d && seven a && seven b
  | .fexp2 d a _ => seven d && seven a
  | .flog2 d a _ => seven d && seven a
  | .fsin d a _ => seven d && seven a
  | .fcos d a _ => seven d && seven a
  | .dadd d a b _ => seven d && seven a && seven b
  | .dsub d a b _ => seven d && seven a && seven b
  | .dmul d a b _ => seven d && seven a && seven b
  | .dfma d a b _ => seven d && seven a && seven b
  | .dmin d a b _ => seven d && seven a && seven b
  | .dmax d a b _ => seven d && seven a && seven b
  | .deq d a b _ => seven d && seven a && seven b
  | .dlt d a b _ => seven d && seven a && seven b
  | .dle d a b _ => seven d && seven a && seven b
  | .ddiv d a b _ => seven d && seven a && seven b
  | .dsqrt d a _ => seven d && seven a
  | .drcp d a _ => seven d && seven a
  | .hadd2 d a b _ => seven d && seven a && seven b
  | .hmul2 d a b _ => seven d && seven a && seven b
  | .hfma2 d a b _ => seven d && seven a && seven b
  | .badd2 d a b _ => seven d && seven a && seven b
  | .bmul2 d a b _ => seven d && seven a && seven b
  | .bfma2 d a b _ => seven d && seven a && seven b
  | .cvt d a c _ => seven d && seven a && seven c
  | .cvtz d a c _ => seven d && seven a && seven c
  | .fclass d a _ => seven d && seven a
  | .fldx d a b _ => seven d && seven a && seven b
  | .frnd d a m _ => seven d && seven a && seven m
  | .drnd d a m _ => seven d && seven a && seven m
  | .fdot2 d a b _ => seven d && seven a && seven b
  | .hdot2 d a b _ => seven d && seven a && seven b
  | .packb d a b _ => seven d && seven a && seven b
  | .packh d a b _ => seven d && seven a && seven b
  | .ldb d a i _ => seven d && seven a && seven' i
  | .ldbs d a i _ => seven d && seven a && seven' i
  | .ldh d a i _ => seven d && seven a && seven' i
  | .ldhs d a i _ => seven d && seven a && seven' i
  | .ldw d a i _ => seven d && seven a && seven' i
  | .ldd d a i _ => seven d && seven a && seven' i
  | .ldq d a i _ => seven d && seven a && seven' i
  | .stb d a i _ => seven d && seven a && seven' i
  | .sth d a i _ => seven d && seven a && seven' i
  | .stw d a i _ => seven d && seven a && seven' i
  | .std d a i _ => seven d && seven a && seven' i
  | .stq d a i _ => seven d && seven a && seven' i
  | .ldo d a _ _ _ _ => seven d && seven a
  | .sto d a _ _ _ _ => seven d && seven a
  | .aadd d a _ _ _ _ => seven d && seven a
  | .aand d a _ _ _ _ => seven d && seven a
  | .aor d a _ _ _ _ => seven d && seven a
  | .axor d a _ _ _ _ => seven d && seven a
  | .amins d a _ _ _ _ => seven d && seven a
  | .aminu d a _ _ _ _ => seven d && seven a
  | .amaxs d a _ _ _ _ => seven d && seven a
  | .amaxu d a _ _ _ _ => seven d && seven a
  | .axch d a _ _ _ _ => seven d && seven a
  | .acas d a _ _ _ _ => seven d && seven a
  | .afxa d a _ _ _ _ => seven d && seven a
  | .afxr d a _ _ _ _ => seven d && seven a
  | .afxz d a _ _ _ => seven d && seven a
  | .fence _ _ _ => true
  | .tgrab d a _ => seven d && seven a
  | .tinit a b _ => seven a && seven b
  | .vote d a m _ => seven d && seven a && seven m
  | .shfi d a b _ => seven d && seven a && seven b
  | .shfu d a n _ => seven d && seven a && seven n
  | .shfd d a n _ => seven d && seven a && seven n
  | .shfx d a n _ => seven d && seven a && seven n
  | .redf d a m _ => seven d && seven a && seven m
  | .redi d a m _ => seven d && seven a && seven m
  | .scni d a _ _ _ => seven d && seven a
  | .matchw d a _ => seven d && seven a
  | .elect d _ => seven d
  | .qswz d a b _ => seven d && seven a && seven b
  | .sbind n a b _ => seven n && seven a && seven b
  | .spos d a _ _ _ => seven d && seven a
  | .qbind q b _ => seven q && seven b
  | .wspl k _ => seven k
  | .wfil k _ => seven k
  | .dsp c _ => seven c
  | .gldb d i _ => seven d && seven' i
  | .gldbs d i _ => seven d && seven' i
  | .gldh d i _ => seven d && seven' i
  | .gldhs d i _ => seven d && seven' i
  | .gldw d i _ => seven d && seven' i
  | .gadv i _ => seven i
  | .gjmp a _ => seven a
  | .gjrel a _ => seven a
  | .gtrap i _ => fourteen i
  | .bld k a b _ => seven k && seven a && seven b
  | .cbl t a _ => seven t && seven a
  | .mma d a b _ => seven d && seven a && seven b
  | .mmab d a b _ => seven d && seven a && seven b
  | .mmas d a b _ => seven d && seven a && seven b
  | .drn d a _ _ _ => seven d && seven a
  | .acz d _ _ => seven d
  | .acl d a _ _ _ => seven d && seven a
  | .rqt d a b _ => seven d && seven a && seven b
  | .mstat d b _ => seven d && seven b
  | .dwait d a _ => seven d && seven a
  | .dpoll d a _ => seven d && seven a
  | .drst d _ => seven d
  | .rwait d a _ => seven d && seven a
  | .rrel d _ => seven d
  | .rclm d a _ => seven d && seven a
  | .rcmt d a _ => seven d && seven a
  | .bar b _ => seven b
  | .bara a b _ => seven a && seven b
  | .barw a b _ => seven a && seven b
  | .srd d b _ => seven d && seven b
  | .swr a b _ => seven a && seven b
  | .pcrd d a _ => seven d && seven a
  | .tmrk i _ => fourteen i
  | .time d _ => seven d
  | .toluneInstruction _ _ => false
  | .portRunChoice _ _ => false
  | .strayIssue _ _ => false
  | .strayPromotion _ _ => false
  | .gangAgingPromotion _ _ => false
  | .regroupHoldExpiry _ _ => false
  | .loopBufferRefill _ _ => false
  | .loadResultDeliver _ _ _ => false
  | .storePerformed _ => false
  | .atomicResultDeliver _ _ _ => false
  | .divideResultDeliver _ _ _ => false
  | .fdivResultDeliver _ _ _ => false
  | .guestLoadDeliver _ _ _ => false
  | .rputWriteDeliver _ _ _ => false
  | .dspReadsComplete _ _ => false
  | .spinwReread _ _ => false
  | .dpollResultDeliver _ _ _ => false
  | .tgrabResultDeliver _ _ _ => false
  | .ringSlotDeliver _ _ _ => false
  | .streamElementArrive _ _ _ => false
  | .matrixProductStart _ => false
  | .narrowProductComplete _ => false
  | .slicedPassComplete _ => false
  | .bldComplete _ => false
  | .cblComplete _ => false
  | .drainResultDeliver _ => false
  | .mstatResultDeliver _ => false
  | .rqtJobComplete _ => false
  | .stagingRegisterWrite _ => false
  | .go _ => false
  | .jobStart _ => false
  | .jobRingClaim _ => false
  | .jobChunkComplete _ => false
  | .pageWalkComplete _ => false
  | .peerChunkAck _ => false
  | .jobComplete _ => false
  | .ladleChannelError _ _ => false
  | .rqtError _ => false
  | .ringStateError _ => false
  | .patrolScrub _ => false
  | .slipwayFlitRetry => false
  | .slipwayLinkFence => false
  | .towlineFlitRetry _ => false
  | .towlineLinkFence _ => false
  | .qtail _ _ => false
  | .registerBlockWrite _ _ _ => false
  | .launchRecord _ => false
  | .markerRecord _ => false
  | .patchActivation _ => false
  | .patchActivationComplete => false
  | .bindBlock _ => false
  | .bindRecord _ => false
  | .unbindNotice _ => false
  | .blockComplete _ => false
  | .windowOpenComplete _ _ => false
  | .engineStopAck _ _ _ => false
  | .preemptStallTimeout _ _ => false
  | .preemptQuantumExpiry _ => false
  | .queueHeadAging _ => false
  | .trapRecordPost _ => false
  | .serviceRequestPost _ => false
  | .serviceWarpRebind _ => false
  | .ringHeadRelease _ => false
  | .trapReplyResume _ => false
  | .trapReplyRedirect _ => false
  | .trapReplyAbort _ => false
  | .trapReplyChunkServiced _ => false
  | .trapReplyChunkFatal _ => false
  | .serviceReplyResume _ => false
  | .serviceReplyAbort _ => false
  | .windowOpen => false
  | .windowClose => false
  | .windowDescriptorRead => false
  | .ringDefine => false
  | .queueDefine => false
  | .translationRoot => false
  | .invalidate => false
  | .shadowPoolGrant => false
  | .contextSuspend => false
  | .contextResume => false
  | .slotReset => false
  | .statusRead => false
  | .firmwareLoad => false
  | .quote => false
  | .toluneDefine => false
  | .translationInstall => false
  | .traceSet => false
  | .comparatorSet => false
  | .warpStop => false
  | .peerBind => false
  | .contextDefine => false
  | .contextRelease => false
  | .stickyClear => false
  | .clockThrottle _ => false
  | .freezeN _ => false
  | .moduleReset => false
  | .powerOn => false
  | .powerLoss => false
  | .towlinePeerRequest _ _ _ _ => false
  | .peerFaultReturn _ _ => false
  | .towlineLinkTrained _ => false
  | .firmwareReady => false
  | .collectiveResultDeliver _ _ => false
  | .threadMoveComplete _ _ => false
  | .instructionCacheRefill _ _ => false

open Sys2Proof.Field in
/-- The instruction is one Tolune holds (R49 to R51): no stall count, no run words, no window words, a slide of 0 and
branch offsets that are multiples of 4. -/
def Instr.fitsTolune : Instr → Bool
  | .nop s => s == 0
  | .runt _ _ _ _ => false
  | .ext _ => false
  | .bra i s => s == 0 && offset24 i
  | .bnz _ i s => s == 0 && offset16 i
  | .bz _ i s => s == 0 && offset16 i
  | .bltz _ i s => s == 0 && offset16 i
  | .bgez _ i s => s == 0 && offset16 i
  | .jpt i s => s == 0 && offset24 i
  | .rejoin s => s == 0
  | .call k i s => s == 0 && offset16 i && k == 0
  | .callr k _ s => s == 0 && k == 0
  | .ret s => s == 0
  | .jmpr _ s => s == 0
  | .land s => s == 0
  | .exit s => s == 0
  | .svc _ s => s == 0
  | .trap _ s => s == 0
  | .brk _ s => s == 0
  | .spinw _ _ _ s => s == 0
  | .wbase _ _ _ => false
  | .rget _ _ s => s == 0
  | .rput _ _ s => s == 0
  | .add _ _ _ s => s == 0
  | .sub _ _ _ s => s == 0
  | .mul _ _ _ s => s == 0
  | .mulhs _ _ _ s => s == 0
  | .mulhu _ _ _ s => s == 0
  | .mad _ _ _ s => s == 0
  | .divs _ _ _ s => s == 0
  | .divu _ _ _ s => s == 0
  | .rems _ _ _ s => s == 0
  | .remu _ _ _ s => s == 0
  | .and _ _ _ s => s == 0
  | .or _ _ _ s => s == 0
  | .xor _ _ _ s => s == 0
  | .andn _ _ _ s => s == 0
  | .shl _ _ _ s => s == 0
  | .shr _ _ _ s => s == 0
  | .sar _ _ _ s => s == 0
  | .rol _ _ _ s => s == 0
  | .mins _ _ _ s => s == 0
  | .minu _ _ _ s => s == 0
  | .maxs _ _ _ s => s == 0
  | .maxu _ _ _ s => s == 0
  | .seq _ _ _ s => s == 0
  | .sne _ _ _ s => s == 0
  | .slt _ _ _ s => s == 0
  | .sltu _ _ _ s => s == 0
  | .sle _ _ _ s => s == 0
  | .sleu _ _ _ s => s == 0
  | .csel _ _ _ s => s == 0
  | .mov _ _ s => s == 0
  | .clz _ _ s => s == 0
  | .ctz _ _ s => s == 0
  | .popc _ _ s => s == 0
  | .brev _ _ s => s == 0
  | .abs _ _ s => s == 0
  | .bfxu _ _ _ s => s == 0
  | .bfxs _ _ _ s => s == 0
  | .bfi _ _ _ s => s == 0
  | .addi _ _ _ s => s == 0
  | .andi _ _ _ s => s == 0
  | .ori _ _ _ s => s == 0
  | .xori _ _ _ s => s == 0
  | .shli _ _ _ s => s == 0
  | .shri _ _ _ s => s == 0
  | .sari _ _ _ s => s == 0
  | .movi _ _ s => s == 0
  | .slti _ _ _ s => s == 0
  | .seqi _ _ _ s => s == 0
  | .lea1 _ _ _ s => s == 0
  | .lea2 _ _ _ s => s == 0
  | .lea4 _ _ _ s => s == 0
  | .lea8 _ _ _ s => s == 0
  | .add64 _ _ _ s => s == 0
  | .sub64 _ _ _ s => s == 0
  | .mulw _ _ _ s => s == 0
  | .sltu64 _ _ _ s => s == 0
  | .fadd _ _ _ s => s == 0
  | .fsub _ _ _ s => s == 0
  | .fmul _ _ _ s => s == 0
  | .ffma _ _ _ s => s == 0
  | .ffms _ _ _ s => s == 0
  | .fmin _ _ _ s => s == 0
  | .fmax _ _ _ s => s == 0
  | .fcps _ _ _ s => s == 0
  | .feq _ _ _ s => s == 0
  | .flt _ _ _ s => s == 0
  | .fle _ _ _ s => s == 0
  | .funo _ _ _ s => s == 0
  | .frcp _ _ s => s == 0
  | .frsq _ _ s => s == 0
  | .fsqrt _ _ s => s == 0
  | .fdiv _ _ _ s => s == 0
  | .fexp2 _ _ s => s == 0
  | .flog2 _ _ s => s == 0
  | .fsin _ _ s => s == 0
  | .fcos _ _ s => s == 0
  | .dadd _ _ _ s => s == 0
  | .dsub _ _ _ s => s == 0
  | .dmul _ _ _ s => s == 0
  | .dfma _ _ _ s => s == 0
  | .dmin _ _ _ s => s == 0
  | .dmax _ _ _ s => s == 0
  | .deq _ _ _ s => s == 0
  | .dlt _ _ _ s => s == 0
  | .dle _ _ _ s => s == 0
  | .ddiv _ _ _ s => s == 0
  | .dsqrt _ _ s => s == 0
  | .drcp _ _ s => s == 0
  | .hadd2 _ _ _ s => s == 0
  | .hmul2 _ _ _ s => s == 0
  | .hfma2 _ _ _ s => s == 0
  | .badd2 _ _ _ s => s == 0
  | .bmul2 _ _ _ s => s == 0
  | .bfma2 _ _ _ s => s == 0
  | .cvt _ _ _ s => s == 0
  | .cvtz _ _ _ s => s == 0
  | .fclass _ _ s => s == 0
  | .fldx _ _ _ s => s == 0
  | .frnd _ _ _ s => s == 0
  | .drnd _ _ _ s => s == 0
  | .fdot2 _ _ _ s => s == 0
  | .hdot2 _ _ _ s => s == 0
  | .packb _ _ _ s => s == 0
  | .packh _ _ _ s => s == 0
  | .ldb _ _ _ s => s == 0
  | .ldbs _ _ _ s => s == 0
  | .ldh _ _ _ s => s == 0
  | .ldhs _ _ _ s => s == 0
  | .ldw _ _ _ s => s == 0
  | .ldd _ _ _ s => s == 0
  | .ldq _ _ _ s => s == 0
  | .stb _ _ _ s => s == 0
  | .sth _ _ _ s => s == 0
  | .stw _ _ _ s => s == 0
  | .std _ _ _ s => s == 0
  | .stq _ _ _ s => s == 0
  | .ldo _ _ _ _ _ s => s == 0
  | .sto _ _ _ _ _ s => s == 0
  | .aadd _ _ _ _ _ s => s == 0
  | .aand _ _ _ _ _ s => s == 0
  | .aor _ _ _ _ _ s => s == 0
  | .axor _ _ _ _ _ s => s == 0
  | .amins _ _ _ _ _ s => s == 0
  | .aminu _ _ _ _ _ s => s == 0
  | .amaxs _ _ _ _ _ s => s == 0
  | .amaxu _ _ _ _ _ s => s == 0
  | .axch _ _ _ _ _ s => s == 0
  | .acas _ _ _ _ _ s => s == 0
  | .afxa _ _ _ _ _ s => s == 0
  | .afxr _ _ _ _ _ s => s == 0
  | .afxz _ _ _ _ s => s == 0
  | .fence _ _ s => s == 0
  | .tgrab _ _ s => s == 0
  | .tinit _ _ s => s == 0
  | .vote _ _ _ s => s == 0
  | .shfi _ _ _ s => s == 0
  | .shfu _ _ _ s => s == 0
  | .shfd _ _ _ s => s == 0
  | .shfx _ _ _ s => s == 0
  | .redf _ _ _ s => s == 0
  | .redi _ _ _ s => s == 0
  | .scni _ _ _ _ s => s == 0
  | .matchw _ _ s => s == 0
  | .elect _ s => s == 0
  | .qswz _ _ _ s => s == 0
  | .sbind _ _ _ s => s == 0
  | .spos _ _ _ _ s => s == 0
  | .qbind _ _ s => s == 0
  | .wspl _ _ => false
  | .wfil _ _ => false
  | .dsp _ s => s == 0
  | .gldb _ _ s => s == 0
  | .gldbs _ _ s => s == 0
  | .gldh _ _ s => s == 0
  | .gldhs _ _ s => s == 0
  | .gldw _ _ s => s == 0
  | .gadv _ s => s == 0
  | .gjmp _ s => s == 0
  | .gjrel _ s => s == 0
  | .gtrap _ s => s == 0
  | .bld _ _ _ s => s == 0
  | .cbl _ _ s => s == 0
  | .mma _ _ _ s => s == 0
  | .mmab _ _ _ s => s == 0
  | .mmas _ _ _ s => s == 0
  | .drn _ _ _ _ s => s == 0
  | .acz _ _ s => s == 0
  | .acl _ _ _ _ s => s == 0
  | .rqt _ _ _ s => s == 0
  | .mstat _ _ s => s == 0
  | .dwait _ _ s => s == 0
  | .dpoll _ _ s => s == 0
  | .drst _ s => s == 0
  | .rwait _ _ s => s == 0
  | .rrel _ s => s == 0
  | .rclm _ _ s => s == 0
  | .rcmt _ _ s => s == 0
  | .bar _ s => s == 0
  | .bara _ _ s => s == 0
  | .barw _ _ s => s == 0
  | .srd _ _ s => s == 0
  | .swr _ _ s => s == 0
  | .pcrd _ _ s => s == 0
  | .tmrk _ s => s == 0
  | .time _ s => s == 0
  | .toluneInstruction _ _ => false
  | .portRunChoice _ _ => false
  | .strayIssue _ _ => false
  | .strayPromotion _ _ => false
  | .gangAgingPromotion _ _ => false
  | .regroupHoldExpiry _ _ => false
  | .loopBufferRefill _ _ => false
  | .loadResultDeliver _ _ _ => false
  | .storePerformed _ => false
  | .atomicResultDeliver _ _ _ => false
  | .divideResultDeliver _ _ _ => false
  | .fdivResultDeliver _ _ _ => false
  | .guestLoadDeliver _ _ _ => false
  | .rputWriteDeliver _ _ _ => false
  | .dspReadsComplete _ _ => false
  | .spinwReread _ _ => false
  | .dpollResultDeliver _ _ _ => false
  | .tgrabResultDeliver _ _ _ => false
  | .ringSlotDeliver _ _ _ => false
  | .streamElementArrive _ _ _ => false
  | .matrixProductStart _ => false
  | .narrowProductComplete _ => false
  | .slicedPassComplete _ => false
  | .bldComplete _ => false
  | .cblComplete _ => false
  | .drainResultDeliver _ => false
  | .mstatResultDeliver _ => false
  | .rqtJobComplete _ => false
  | .stagingRegisterWrite _ => false
  | .go _ => false
  | .jobStart _ => false
  | .jobRingClaim _ => false
  | .jobChunkComplete _ => false
  | .pageWalkComplete _ => false
  | .peerChunkAck _ => false
  | .jobComplete _ => false
  | .ladleChannelError _ _ => false
  | .rqtError _ => false
  | .ringStateError _ => false
  | .patrolScrub _ => false
  | .slipwayFlitRetry => false
  | .slipwayLinkFence => false
  | .towlineFlitRetry _ => false
  | .towlineLinkFence _ => false
  | .qtail _ _ => false
  | .registerBlockWrite _ _ _ => false
  | .launchRecord _ => false
  | .markerRecord _ => false
  | .patchActivation _ => false
  | .patchActivationComplete => false
  | .bindBlock _ => false
  | .bindRecord _ => false
  | .unbindNotice _ => false
  | .blockComplete _ => false
  | .windowOpenComplete _ _ => false
  | .engineStopAck _ _ _ => false
  | .preemptStallTimeout _ _ => false
  | .preemptQuantumExpiry _ => false
  | .queueHeadAging _ => false
  | .trapRecordPost _ => false
  | .serviceRequestPost _ => false
  | .serviceWarpRebind _ => false
  | .ringHeadRelease _ => false
  | .trapReplyResume _ => false
  | .trapReplyRedirect _ => false
  | .trapReplyAbort _ => false
  | .trapReplyChunkServiced _ => false
  | .trapReplyChunkFatal _ => false
  | .serviceReplyResume _ => false
  | .serviceReplyAbort _ => false
  | .windowOpen => false
  | .windowClose => false
  | .windowDescriptorRead => false
  | .ringDefine => false
  | .queueDefine => false
  | .translationRoot => false
  | .invalidate => false
  | .shadowPoolGrant => false
  | .contextSuspend => false
  | .contextResume => false
  | .slotReset => false
  | .statusRead => false
  | .firmwareLoad => false
  | .quote => false
  | .toluneDefine => false
  | .translationInstall => false
  | .traceSet => false
  | .comparatorSet => false
  | .warpStop => false
  | .peerBind => false
  | .contextDefine => false
  | .contextRelease => false
  | .stickyClear => false
  | .clockThrottle _ => false
  | .freezeN _ => false
  | .moduleReset => false
  | .powerOn => false
  | .powerLoss => false
  | .towlinePeerRequest _ _ _ _ => false
  | .peerFaultReturn _ _ => false
  | .towlineLinkTrained _ => false
  | .firmwareReady => false
  | .collectiveResultDeliver _ _ => false
  | .threadMoveComplete _ _ => false
  | .instructionCacheRefill _ _ => false

/-- A well-formed native word. -/
def Instr.wf (i : Instr) : Bool := i.fitsNative && i.fieldFault.isNone

/-- A well-formed Tolune instruction. -/
def Instr.wfTolune (i : Instr) : Bool := i.fitsTolune && i.fieldFault.isNone

end Sys2Proof
end

