-- ==== Sys2Proof/Decode.lean ====
section
/-!
DEFINITION. Decoding a native word or a Tolune instruction, total on any bits, and the encoder. The fields are those of
R26 (native) and R49 (Tolune); the opcode map is R43; the reason codes are R46.
-/

namespace Sys2Proof

/-- The fields of one instruction as its encoding holds them, with every reading of the immediates. -/
structure Fields where
  op : BitVec 8
  d : BitVec 8
  a : BitVec 8
  b : BitVec 8
  s : Stall
  /-- B as a signed number (R27). -/
  imm : Imm
  /-- The RW immediate, signed (R28). -/
  i14 : Imm14
  /-- The RW immediate, unsigned (R28). -/
  u14 : Imm14
  /-- The J21 immediate (R29). -/
  i21 : Imm21
  /-- The payload of an EXT (R32). -/
  p21 : BitVec 21
  isNative : Bool
  deriving DecidableEq, Repr

/-- The fields of a native word (R24, R26). -/
def Fields.ofNative (w : BitVec 32) : Fields where
  op := w.extractLsb' 24 8
  d := (w.extractLsb' 17 7).setWidth 8
  a := (w.extractLsb' 10 7).setWidth 8
  b := (w.extractLsb' 3 7).setWidth 8
  s := w.extractLsb' 0 3
  imm := (w.extractLsb' 3 7).signExtend 8
  i14 := (w.extractLsb' 3 14).signExtend 16
  u14 := (w.extractLsb' 3 14).setWidth 16
  i21 := (w.extractLsb' 3 21).signExtend 24
  p21 := w.extractLsb' 3 21
  isNative := true

/-- The fields of a Tolune instruction, given as its four bytes read little-endian (R49). -/
def Fields.ofTolune (w : BitVec 32) : Fields where
  op := w.extractLsb' 0 8
  d := w.extractLsb' 8 8
  a := w.extractLsb' 16 8
  b := w.extractLsb' 24 8
  s := 0
  imm := w.extractLsb' 24 8
  i14 := w.extractLsb' 16 16
  u14 := w.extractLsb' 16 16
  i21 := w.extractLsb' 8 24
  p21 := 0
  isNative := false

namespace Fields

/-- The instruction, when the bits it gives no use are 0 (R25). -/
def need (ok : Bool) (i : Instr) : Except Reason Instr := if ok then .ok i else .error .reservedField
/-- A word Tolune does not hold (R51). -/
def nativeOnly (f : Fields) (r : Except Reason Instr) : Except Reason Instr :=
  if f.isNative then r else .error .notInTolune
/-- A branch offset: in Tolune a multiple of 4 (R51). -/
def branch (f : Fields) (ok : Bool) (r : Except Reason Instr) : Except Reason Instr :=
  if f.isNative || ok then r else .error .notInTolune
/-- A slide code: 1 to 15 in a native word (R122), 0 in Tolune (R51). That reason 10 comes before a reserved value of the same
word is the model's reading (log entry 113). -/
def slide (f : Fields) (r : Except Reason Instr) : Except Reason Instr :=
  if f.isNative then (if f.d != 0 && Field.le f.d 15 then r else .error .reservedField)
  else if f.d == 0 then r else .error .notInTolune

/-- The opcodes 0x00 to 0x0F. -/
def op0 (f : Fields) (lo : Nat) : Except Reason Instr :=
  match lo with
  | 0 => need (f.d == 0 && f.a == 0 && f.b == 0) (.nop f.s)
  | 1 => nativeOnly f (.ok (.runt f.d f.a f.b f.s))
  | 2 => nativeOnly f (if f.s == 0 then .ok (.ext f.p21) else .error .extMisuse)
  | 3 => branch f (Field.offset24 f.i21) (.ok (.bra f.i21 f.s))
  | 4 => branch f (Field.offset16 f.i14) (.ok (.bnz f.d f.i14 f.s))
  | 5 => branch f (Field.offset16 f.i14) (.ok (.bz f.d f.i14 f.s))
  | 6 => branch f (Field.offset16 f.i14) (.ok (.bltz f.d f.i14 f.s))
  | 7 => branch f (Field.offset16 f.i14) (.ok (.bgez f.d f.i14 f.s))
  | 8 => branch f (Field.offset24 f.i21) (.ok (.jpt f.i21 f.s))
  | 9 => need (f.d == 0 && f.a == 0 && f.b == 0) (.rejoin f.s)
  | 10 => branch f (Field.offset16 f.i14) (slide f (.ok (.call f.d f.i14 f.s)))
  | 11 => slide f (need (f.b == 0) (.callr f.d f.a f.s))
  | 12 => need (f.d == 0 && f.a == 0 && f.b == 0) (.ret f.s)
  | 13 => need (f.d == 0 && f.b == 0) (.jmpr f.a f.s)
  | 14 => need (f.d == 0 && f.a == 0 && f.b == 0) (.land f.s)
  | 15 => need (f.d == 0 && f.a == 0 && f.b == 0) (.exit f.s)
  | _ => .error .reservedOpcode

/-- The opcodes 0x10 to 0x1F. -/
def op1 (f : Fields) (lo : Nat) : Except Reason Instr :=
  match lo with
  | 0 => need (f.d == 0) (.svc f.u14 f.s)
  | 1 => need (f.d == 0) (.trap f.u14 f.s)
  | 2 => need (f.d == 0) (.brk f.u14 f.s)
  | 3 => .ok (.spinw f.d f.a f.b f.s)
  | 4 => nativeOnly f (need (f.a == 0) (.wbase f.d f.b f.s))
  | 5 => need (f.b == 0) (.rget f.d f.a f.s)
  | 6 => need (f.b == 0) (.rput f.d f.a f.s)
  | 8 => .ok (.add f.d f.a f.b f.s)
  | 9 => .ok (.sub f.d f.a f.b f.s)
  | 10 => .ok (.mul f.d f.a f.b f.s)
  | 11 => .ok (.mulhs f.d f.a f.b f.s)
  | 12 => .ok (.mulhu f.d f.a f.b f.s)
  | 13 => .ok (.mad f.d f.a f.b f.s)
  | 14 => .ok (.divs f.d f.a f.b f.s)
  | 15 => .ok (.divu f.d f.a f.b f.s)
  | _ => .error .reservedOpcode

/-- The opcodes 0x20 to 0x2F. -/
def op2 (f : Fields) (lo : Nat) : Except Reason Instr :=
  match lo with
  | 0 => .ok (.rems f.d f.a f.b f.s)
  | 1 => .ok (.remu f.d f.a f.b f.s)
  | 2 => .ok (.and f.d f.a f.b f.s)
  | 3 => .ok (.or f.d f.a f.b f.s)
  | 4 => .ok (.xor f.d f.a f.b f.s)
  | 5 => .ok (.andn f.d f.a f.b f.s)
  | 6 => .ok (.shl f.d f.a f.b f.s)
  | 7 => .ok (.shr f.d f.a f.b f.s)
  | 8 => .ok (.sar f.d f.a f.b f.s)
  | 9 => .ok (.rol f.d f.a f.b f.s)
  | 10 => .ok (.mins f.d f.a f.b f.s)
  | 11 => .ok (.minu f.d f.a f.b f.s)
  | 12 => .ok (.maxs f.d f.a f.b f.s)
  | 13 => .ok (.maxu f.d f.a f.b f.s)
  | 14 => .ok (.seq f.d f.a f.b f.s)
  | 15 => .ok (.sne f.d f.a f.b f.s)
  | _ => .error .reservedOpcode

/-- The opcodes 0x30 to 0x3F. -/
def op3 (f : Fields) (lo : Nat) : Except Reason Instr :=
  match lo with
  | 0 => .ok (.slt f.d f.a f.b f.s)
  | 1 => .ok (.sltu f.d f.a f.b f.s)
  | 2 => .ok (.sle f.d f.a f.b f.s)
  | 3 => .ok (.sleu f.d f.a f.b f.s)
  | 4 => .ok (.csel f.d f.a f.b f.s)
  | 5 => need (f.b == 0) (.mov f.d f.a f.s)
  | 6 => need (f.b == 0) (.clz f.d f.a f.s)
  | 7 => need (f.b == 0) (.ctz f.d f.a f.s)
  | 8 => need (f.b == 0) (.popc f.d f.a f.s)
  | 9 => need (f.b == 0) (.brev f.d f.a f.s)
  | 10 => need (f.b == 0) (.abs f.d f.a f.s)
  | 11 => .ok (.bfxu f.d f.a f.b f.s)
  | 12 => .ok (.bfxs f.d f.a f.b f.s)
  | 13 => .ok (.bfi f.d f.a f.b f.s)
  | 14 => .ok (.addi f.d f.a f.imm f.s)
  | 15 => .ok (.andi f.d f.a f.imm f.s)
  | _ => .error .reservedOpcode

/-- The opcodes 0x40 to 0x4F. -/
def op4 (f : Fields) (lo : Nat) : Except Reason Instr :=
  match lo with
  | 0 => .ok (.ori f.d f.a f.imm f.s)
  | 1 => .ok (.xori f.d f.a f.imm f.s)
  | 2 => .ok (.shli f.d f.a f.imm f.s)
  | 3 => .ok (.shri f.d f.a f.imm f.s)
  | 4 => .ok (.sari f.d f.a f.imm f.s)
  | 5 => .ok (.movi f.d f.i14 f.s)
  | 6 => .ok (.slti f.d f.a f.imm f.s)
  | 7 => .ok (.seqi f.d f.a f.imm f.s)
  | 8 => .ok (.lea1 f.d f.a f.b f.s)
  | 9 => .ok (.lea2 f.d f.a f.b f.s)
  | 10 => .ok (.lea4 f.d f.a f.b f.s)
  | 11 => .ok (.lea8 f.d f.a f.b f.s)
  | 12 => .ok (.add64 f.d f.a f.b f.s)
  | 13 => .ok (.sub64 f.d f.a f.b f.s)
  | 14 => .ok (.mulw f.d f.a f.b f.s)
  | 15 => .ok (.sltu64 f.d f.a f.b f.s)
  | _ => .error .reservedOpcode

/-- The opcodes 0x50 to 0x5F. -/
def op5 (f : Fields) (lo : Nat) : Except Reason Instr :=
  match lo with
  | 0 => .ok (.fadd f.d f.a f.b f.s)
  | 1 => .ok (.fsub f.d f.a f.b f.s)
  | 2 => .ok (.fmul f.d f.a f.b f.s)
  | 3 => .ok (.ffma f.d f.a f.b f.s)
  | 4 => .ok (.ffms f.d f.a f.b f.s)
  | 5 => .ok (.fmin f.d f.a f.b f.s)
  | 6 => .ok (.fmax f.d f.a f.b f.s)
  | 7 => .ok (.fcps f.d f.a f.b f.s)
  | 8 => .ok (.feq f.d f.a f.b f.s)
  | 9 => .ok (.flt f.d f.a f.b f.s)
  | 10 => .ok (.fle f.d f.a f.b f.s)
  | 11 => .ok (.funo f.d f.a f.b f.s)
  | 12 => need (f.b == 0) (.frcp f.d f.a f.s)
  | 13 => need (f.b == 0) (.frsq f.d f.a f.s)
  | 14 => need (f.b == 0) (.fsqrt f.d f.a f.s)
  | 15 => .ok (.fdiv f.d f.a f.b f.s)
  | _ => .error .reservedOpcode

/-- The opcodes 0x60 to 0x6F. -/
def op6 (f : Fields) (lo : Nat) : Except Reason Instr :=
  match lo with
  | 0 => need (f.b == 0) (.fexp2 f.d f.a f.s)
  | 1 => need (f.b == 0) (.flog2 f.d f.a f.s)
  | 2 => need (f.b == 0) (.fsin f.d f.a f.s)
  | 3 => need (f.b == 0) (.fcos f.d f.a f.s)
  | 4 => .ok (.dadd f.d f.a f.b f.s)
  | 5 => .ok (.dsub f.d f.a f.b f.s)
  | 6 => .ok (.dmul f.d f.a f.b f.s)
  | 7 => .ok (.dfma f.d f.a f.b f.s)
  | 8 => .ok (.dmin f.d f.a f.b f.s)
  | 9 => .ok (.dmax f.d f.a f.b f.s)
  | 10 => .ok (.deq f.d f.a f.b f.s)
  | 11 => .ok (.dlt f.d f.a f.b f.s)
  | 12 => .ok (.dle f.d f.a f.b f.s)
  | 13 => .ok (.ddiv f.d f.a f.b f.s)
  | 14 => need (f.b == 0) (.dsqrt f.d f.a f.s)
  | 15 => need (f.b == 0) (.drcp f.d f.a f.s)
  | _ => .error .reservedOpcode

/-- The opcodes 0x70 to 0x7F. -/
def op7 (f : Fields) (lo : Nat) : Except Reason Instr :=
  match lo with
  | 0 => .ok (.hadd2 f.d f.a f.b f.s)
  | 1 => .ok (.hmul2 f.d f.a f.b f.s)
  | 2 => .ok (.hfma2 f.d f.a f.b f.s)
  | 3 => .ok (.badd2 f.d f.a f.b f.s)
  | 4 => .ok (.bmul2 f.d f.a f.b f.s)
  | 5 => .ok (.bfma2 f.d f.a f.b f.s)
  | 6 => .ok (.cvt f.d f.a f.b f.s)
  | 7 => .ok (.cvtz f.d f.a f.b f.s)
  | 8 => need (f.b == 0) (.fclass f.d f.a f.s)
  | 9 => .ok (.fldx f.d f.a f.b f.s)
  | 10 => .ok (.frnd f.d f.a f.b f.s)
  | 11 => .ok (.drnd f.d f.a f.b f.s)
  | 12 => .ok (.fdot2 f.d f.a f.b f.s)
  | 13 => .ok (.hdot2 f.d f.a f.b f.s)
  | 14 => .ok (.packb f.d f.a f.b f.s)
  | 15 => .ok (.packh f.d f.a f.b f.s)
  | _ => .error .reservedOpcode

/-- The opcodes 0x80 to 0x8F. -/
def op8 (f : Fields) (lo : Nat) : Except Reason Instr :=
  match lo with
  | 0 => .ok (.ldb f.d f.a f.imm f.s)
  | 1 => .ok (.ldbs f.d f.a f.imm f.s)
  | 2 => .ok (.ldh f.d f.a f.imm f.s)
  | 3 => .ok (.ldhs f.d f.a f.imm f.s)
  | 4 => .ok (.ldw f.d f.a f.imm f.s)
  | 5 => .ok (.ldd f.d f.a f.imm f.s)
  | 6 => .ok (.ldq f.d f.a f.imm f.s)
  | 7 => .ok (.stb f.d f.a f.imm f.s)
  | 8 => .ok (.sth f.d f.a f.imm f.s)
  | 9 => .ok (.stw f.d f.a f.imm f.s)
  | 10 => .ok (.std f.d f.a f.imm f.s)
  | 11 => .ok (.stq f.d f.a f.imm f.s)
  | 12 => need (f.b &&& 128 == 0) (.ldo f.d f.a (f.b.extractLsb' 3 4) (f.b.extractLsb' 1 2) (f.b.extractLsb' 0 1) f.s)
  | 13 => need (f.b &&& 128 == 0) (.sto f.d f.a (f.b.extractLsb' 3 4) (f.b.extractLsb' 1 2) (f.b.extractLsb' 0 1) f.s)
  | 14 => need (f.b &&& 128 == 0) (.aadd f.d f.a (f.b.extractLsb' 3 4) (f.b.extractLsb' 1 2) (f.b.extractLsb' 0 1) f.s)
  | 15 => need (f.b &&& 128 == 0) (.aand f.d f.a (f.b.extractLsb' 3 4) (f.b.extractLsb' 1 2) (f.b.extractLsb' 0 1) f.s)
  | _ => .error .reservedOpcode

/-- The opcodes 0x90 to 0x9F. -/
def op9 (f : Fields) (lo : Nat) : Except Reason Instr :=
  match lo with
  | 0 => need (f.b &&& 128 == 0) (.aor f.d f.a (f.b.extractLsb' 3 4) (f.b.extractLsb' 1 2) (f.b.extractLsb' 0 1) f.s)
  | 1 => need (f.b &&& 128 == 0) (.axor f.d f.a (f.b.extractLsb' 3 4) (f.b.extractLsb' 1 2) (f.b.extractLsb' 0 1) f.s)
  | 2 => need (f.b &&& 128 == 0) (.amins f.d f.a (f.b.extractLsb' 3 4) (f.b.extractLsb' 1 2) (f.b.extractLsb' 0 1) f.s)
  | 3 => need (f.b &&& 128 == 0) (.aminu f.d f.a (f.b.extractLsb' 3 4) (f.b.extractLsb' 1 2) (f.b.extractLsb' 0 1) f.s)
  | 4 => need (f.b &&& 128 == 0) (.amaxs f.d f.a (f.b.extractLsb' 3 4) (f.b.extractLsb' 1 2) (f.b.extractLsb' 0 1) f.s)
  | 5 => need (f.b &&& 128 == 0) (.amaxu f.d f.a (f.b.extractLsb' 3 4) (f.b.extractLsb' 1 2) (f.b.extractLsb' 0 1) f.s)
  | 6 => need (f.b &&& 128 == 0) (.axch f.d f.a (f.b.extractLsb' 3 4) (f.b.extractLsb' 1 2) (f.b.extractLsb' 0 1) f.s)
  | 7 => need (f.b &&& 128 == 0) (.acas f.d f.a (f.b.extractLsb' 3 4) (f.b.extractLsb' 1 2) (f.b.extractLsb' 0 1) f.s)
  | 8 => need (f.b &&& 128 == 0) (.afxa f.d f.a (f.b.extractLsb' 3 4) (f.b.extractLsb' 1 2) (f.b.extractLsb' 0 1) f.s)
  | 9 => need (f.b &&& 128 == 0) (.afxr f.d f.a (f.b.extractLsb' 3 4) (f.b.extractLsb' 1 2) (f.b.extractLsb' 0 1) f.s)
  | 10 => need (f.b &&& 129 == 0) (.afxz f.d f.a (f.b.extractLsb' 3 4) (f.b.extractLsb' 1 2) f.s)
  | 11 => need (f.d == 0 && f.a == 0 && f.b &&& 129 == 0) (.fence (f.b.extractLsb' 3 4) (f.b.extractLsb' 1 2) f.s)
  | 12 => need (f.b == 0) (.tgrab f.d f.a f.s)
  | 13 => need (f.d == 0) (.tinit f.a f.b f.s)
  | _ => .error .reservedOpcode

/-- The opcodes 0xA0 to 0xAF. -/
def opA (f : Fields) (lo : Nat) : Except Reason Instr :=
  match lo with
  | 0 => .ok (.vote f.d f.a f.b f.s)
  | 1 => .ok (.shfi f.d f.a f.b f.s)
  | 2 => .ok (.shfu f.d f.a f.b f.s)
  | 3 => .ok (.shfd f.d f.a f.b f.s)
  | 4 => .ok (.shfx f.d f.a f.b f.s)
  | 5 => .ok (.redf f.d f.a f.b f.s)
  | 6 => .ok (.redi f.d f.a f.b f.s)
  | 7 => need (f.b &&& 240 == 0) (.scni f.d f.a (f.b.extractLsb' 3 1) (f.b.extractLsb' 0 3) f.s)
  | 8 => need (f.b == 0) (.matchw f.d f.a f.s)
  | 9 => need (f.a == 0 && f.b == 0) (.elect f.d f.s)
  | 10 => .ok (.qswz f.d f.a f.b f.s)
  | 11 => .ok (.sbind f.d f.a f.b f.s)
  | 12 => need (f.b &&& 240 == 0) (.spos f.d f.a (f.b.extractLsb' 3 1) (f.b.extractLsb' 0 3) f.s)
  | 13 => need (f.a == 0) (.qbind f.d f.b f.s)
  | 14 => nativeOnly f (need (f.d == 0 && f.a == 0) (.wspl f.b f.s))
  | 15 => nativeOnly f (need (f.d == 0 && f.a == 0) (.wfil f.b f.s))
  | _ => .error .reservedOpcode

/-- The opcodes 0xB0 to 0xBF. -/
def opB (f : Fields) (lo : Nat) : Except Reason Instr :=
  match lo with
  | 0 => need (f.a == 0 && f.b == 0) (.dsp f.d f.s)
  | 1 => need (f.a == 0) (.gldb f.d f.imm f.s)
  | 2 => need (f.a == 0) (.gldbs f.d f.imm f.s)
  | 3 => need (f.a == 0) (.gldh f.d f.imm f.s)
  | 4 => need (f.a == 0) (.gldhs f.d f.imm f.s)
  | 5 => need (f.a == 0) (.gldw f.d f.imm f.s)
  | 6 => need (f.d == 0 && f.a == 0) (.gadv f.b f.s)
  | 7 => need (f.d == 0 && f.b == 0) (.gjmp f.a f.s)
  | 8 => need (f.d == 0 && f.b == 0) (.gjrel f.a f.s)
  | 9 => need (f.d == 0) (.gtrap f.u14 f.s)
  | _ => .error .reservedOpcode

/-- The opcodes 0xC0 to 0xCF. -/
def opC (f : Fields) (lo : Nat) : Except Reason Instr :=
  match lo with
  | 0 => .ok (.bld f.d f.a f.b f.s)
  | 1 => need (f.b == 0) (.cbl f.d f.a f.s)
  | 2 => .ok (.mma f.d f.a f.b f.s)
  | 3 => .ok (.mmab f.d f.a f.b f.s)
  | 4 => .ok (.mmas f.d f.a f.b f.s)
  | 5 => need (f.b &&& 248 == 0) (.drn f.d f.a (f.b.extractLsb' 2 1) (f.b.extractLsb' 0 2) f.s)
  | 6 => need (f.a == 0 && f.b &&& 254 == 0) (.acz f.d (f.b.extractLsb' 0 1) f.s)
  | 7 => need (f.b &&& 248 == 0) (.acl f.d f.a (f.b.extractLsb' 2 1) (f.b.extractLsb' 0 2) f.s)
  | 8 => .ok (.rqt f.d f.a f.b f.s)
  | 9 => need (f.a == 0) (.mstat f.d f.b f.s)
  | _ => .error .reservedOpcode

/-- The opcodes 0xD0 to 0xDF. -/
def opD (f : Fields) (lo : Nat) : Except Reason Instr :=
  match lo with
  | 0 => need (f.b == 0) (.dwait f.d f.a f.s)
  | 1 => need (f.b == 0) (.dpoll f.d f.a f.s)
  | 2 => need (f.a == 0 && f.b == 0) (.drst f.d f.s)
  | 3 => need (f.b == 0) (.rwait f.d f.a f.s)
  | 4 => need (f.a == 0 && f.b == 0) (.rrel f.d f.s)
  | 5 => need (f.b == 0) (.rclm f.d f.a f.s)
  | 6 => need (f.b == 0) (.rcmt f.d f.a f.s)
  | 7 => need (f.d == 0 && f.a == 0) (.bar f.b f.s)
  | 8 => need (f.d == 0) (.bara f.a f.b f.s)
  | 9 => need (f.d == 0) (.barw f.a f.b f.s)
  | _ => .error .reservedOpcode

/-- The opcodes 0xE0 to 0xEF. -/
def opE (f : Fields) (lo : Nat) : Except Reason Instr :=
  match lo with
  | 0 => need (f.a == 0) (.srd f.d f.b f.s)
  | 1 => need (f.d == 0) (.swr f.a f.b f.s)
  | 2 => need (f.b == 0) (.pcrd f.d f.a f.s)
  | 3 => need (f.d == 0) (.tmrk f.u14 f.s)
  | 4 => need (f.a == 0 && f.b == 0) (.time f.d f.s)
  | _ => .error .reservedOpcode

/-- The opcode map (R43): the instruction the fields spell, before the checks on their values. -/
def instr (f : Fields) : Except Reason Instr :=
  let lo := f.op.toNat % 16
  match f.op.toNat / 16 with
  | 0 => op0 f lo
  | 1 => op1 f lo
  | 2 => op2 f lo
  | 3 => op3 f lo
  | 4 => op4 f lo
  | 5 => op5 f lo
  | 6 => op6 f lo
  | 7 => op7 f lo
  | 8 => op8 f lo
  | 9 => op9 f lo
  | 10 => opA f lo
  | 11 => opB f lo
  | 12 => opC f lo
  | 13 => opD f lo
  | 14 => opE f lo
  | _ => if f.op.toNat < 0xF8 then .error .reservedOpcode else .error .patchOpcode

/-- The instruction of the fields, with steps 3 to 5 of R45 checked. -/
def decode (f : Fields) : Except Reason Instr :=
  match f.instr with
  | .error r => .error r
  | .ok i =>
    match i.fieldFault with
    | some r => .error r
    | none => .ok i

end Fields

/-- The decoding of a native word (R45 steps 3 and 4). -/
def decodeNative (w : BitVec 32) : Except Reason Instr := (Fields.ofNative w).decode

/-- The decoding of a Tolune instruction from its four bytes, first byte in bits 7 to 0 (R49 to R51). -/
def decodeTolune (w : BitVec 32) : Except Reason Instr := (Fields.ofTolune w).decode

/-- The little-endian word of the first four bytes of a list (R24), and the rest. -/
def wordOfBytes : List (BitVec 8) → Option (BitVec 32 × List (BitVec 8))
  | b0 :: b1 :: b2 :: b3 :: rest => some (b3 ++ b2 ++ b1 ++ b0, rest)
  | _ => none

/-- The native instruction at the head of a list of bytes and the bytes after it; fewer than four bytes refuse as a
reserved opcode. -/
def decodeBytes (bs : List (BitVec 8)) : Except Reason (Instr × List (BitVec 8)) :=
  match wordOfBytes bs with
  | none => .error .reservedOpcode
  | some (w, rest) =>
    match decodeNative w with
    | .ok i => .ok (i, rest)
    | .error r => .error r

/-- The instruction the decoder reads from a table word: the word is laid out in memory little-endian and its bytes
given to the decoder. -/
def decodeTableWord (nbits w : Nat) : Option Instr :=
  if nbits = 0 ∨ 32 < nbits then none
  else
    let v := BitVec.ofNat 32 (w % 2 ^ nbits)
    match decodeBytes [v.extractLsb' 0 8, v.extractLsb' 8 8, v.extractLsb' 16 8, v.extractLsb' 24 8] with
    | .ok (i, _) => some i
    | .error _ => none

/-- The parts of an encoding, by format (R26). -/
inductive Parts where
  /-- RRR, RI, M and T: three operand fields. -/
  | three (op d a b : BitVec 8) (s : Stall)
  /-- RW: one operand field and an imm14. -/
  | wide (op d : BitVec 8) (i : Imm14) (s : Stall)
  /-- J21. -/
  | jump (op : BitVec 8) (i : Imm21) (s : Stall)
  /-- X. -/
  | ext (op : BitVec 8) (p : BitVec 21)
  deriving DecidableEq, Repr

/-- The native word of the parts (R26). -/
def Parts.native : Parts → BitVec 32
  | .three op d a b s => op ++ d.setWidth 7 ++ a.setWidth 7 ++ b.setWidth 7 ++ s
  | .wide op d i s => op ++ d.setWidth 7 ++ i.setWidth 14 ++ s
  | .jump op i s => op ++ i.setWidth 21 ++ s
  | .ext op p => op ++ p ++ (0 : BitVec 3)

/-- The Tolune bytes of the parts, first byte in bits 7 to 0 (R49). -/
def Parts.tolune : Parts → BitVec 32
  | .three op d a b _ => b ++ a ++ d ++ op
  | .wide op d i _ => i ++ d ++ op
  | .jump op i _ => i ++ op
  | .ext op p => p.setWidth 24 ++ op

/-- The parts that spell an instruction; the steps of engines have no encoding. -/
def Instr.parts : Instr → Option Parts
  | .nop s => some (.three 0x00 0 0 0 s)
  | .runt d a b f => some (.three 0x01 d a b f)
  | .ext p => some (.ext 0x02 p)
  | .bra i s => some (.jump 0x03 i s)
  | .bnz d i s => some (.wide 0x04 d i s)
  | .bz d i s => some (.wide 0x05 d i s)
  | .bltz d i s => some (.wide 0x06 d i s)
  | .bgez d i s => some (.wide 0x07 d i s)
  | .jpt i s => some (.jump 0x08 i s)
  | .rejoin s => some (.three 0x09 0 0 0 s)
  | .call k i s => some (.wide 0x0A k i s)
  | .callr k a s => some (.three 0x0B k a 0 s)
  | .ret s => some (.three 0x0C 0 0 0 s)
  | .jmpr a s => some (.three 0x0D 0 a 0 s)
  | .land s => some (.three 0x0E 0 0 0 s)
  | .exit s => some (.three 0x0F 0 0 0 s)
  | .svc i s => some (.wide 0x10 0 i s)
  | .trap i s => some (.wide 0x11 0 i s)
  | .brk i s => some (.wide 0x12 0 i s)
  | .spinw d a b s => some (.three 0x13 d a b s)
  | .wbase d k s => some (.three 0x14 d 0 k s)
  | .rget d a s => some (.three 0x15 d a 0 s)
  | .rput d a s => some (.three 0x16 d a 0 s)
  | .add d a b s => some (.three 0x18 d a b s)
  | .sub d a b s => some (.three 0x19 d a b s)
  | .mul d a b s => some (.three 0x1A d a b s)
  | .mulhs d a b s => some (.three 0x1B d a b s)
  | .mulhu d a b s => some (.three 0x1C d a b s)
  | .mad d a b s => some (.three 0x1D d a b s)
  | .divs d a b s => some (.three 0x1E d a b s)
  | .divu d a b s => some (.three 0x1F d a b s)
  | .rems d a b s => some (.three 0x20 d a b s)
  | .remu d a b s => some (.three 0x21 d a b s)
  | .and d a b s => some (.three 0x22 d a b s)
  | .or d a b s => some (.three 0x23 d a b s)
  | .xor d a b s => some (.three 0x24 d a b s)
  | .andn d a b s => some (.three 0x25 d a b s)
  | .shl d a b s => some (.three 0x26 d a b s)
  | .shr d a b s => some (.three 0x27 d a b s)
  | .sar d a b s => some (.three 0x28 d a b s)
  | .rol d a b s => some (.three 0x29 d a b s)
  | .mins d a b s => some (.three 0x2A d a b s)
  | .minu d a b s => some (.three 0x2B d a b s)
  | .maxs d a b s => some (.three 0x2C d a b s)
  | .maxu d a b s => some (.three 0x2D d a b s)
  | .seq d a b s => some (.three 0x2E d a b s)
  | .sne d a b s => some (.three 0x2F d a b s)
  | .slt d a b s => some (.three 0x30 d a b s)
  | .sltu d a b s => some (.three 0x31 d a b s)
  | .sle d a b s => some (.three 0x32 d a b s)
  | .sleu d a b s => some (.three 0x33 d a b s)
  | .csel d a b s => some (.three 0x34 d a b s)
  | .mov d a s => some (.three 0x35 d a 0 s)
  | .clz d a s => some (.three 0x36 d a 0 s)
  | .ctz d a s => some (.three 0x37 d a 0 s)
  | .popc d a s => some (.three 0x38 d a 0 s)
  | .brev d a s => some (.three 0x39 d a 0 s)
  | .abs d a s => some (.three 0x3A d a 0 s)
  | .bfxu d a b s => some (.three 0x3B d a b s)
  | .bfxs d a b s => some (.three 0x3C d a b s)
  | .bfi d a b s => some (.three 0x3D d a b s)
  | .addi d a i s => some (.three 0x3E d a i s)
  | .andi d a i s => some (.three 0x3F d a i s)
  | .ori d a i s => some (.three 0x40 d a i s)
  | .xori d a i s => some (.three 0x41 d a i s)
  | .shli d a i s => some (.three 0x42 d a i s)
  | .shri d a i s => some (.three 0x43 d a i s)
  | .sari d a i s => some (.three 0x44 d a i s)
  | .movi d i s => some (.wide 0x45 d i s)
  | .slti d a i s => some (.three 0x46 d a i s)
  | .seqi d a i s => some (.three 0x47 d a i s)
  | .lea1 d a b s => some (.three 0x48 d a b s)
  | .lea2 d a b s => some (.three 0x49 d a b s)
  | .lea4 d a b s => some (.three 0x4A d a b s)
  | .lea8 d a b s => some (.three 0x4B d a b s)
  | .add64 d a b s => some (.three 0x4C d a b s)
  | .sub64 d a b s => some (.three 0x4D d a b s)
  | .mulw d a b s => some (.three 0x4E d a b s)
  | .sltu64 d a b s => some (.three 0x4F d a b s)
  | .fadd d a b s => some (.three 0x50 d a b s)
  | .fsub d a b s => some (.three 0x51 d a b s)
  | .fmul d a b s => some (.three 0x52 d a b s)
  | .ffma d a b s => some (.three 0x53 d a b s)
  | .ffms d a b s => some (.three 0x54 d a b s)
  | .fmin d a b s => some (.three 0x55 d a b s)
  | .fmax d a b s => some (.three 0x56 d a b s)
  | .fcps d a b s => some (.three 0x57 d a b s)
  | .feq d a b s => some (.three 0x58 d a b s)
  | .flt d a b s => some (.three 0x59 d a b s)
  | .fle d a b s => some (.three 0x5A d a b s)
  | .funo d a b s => some (.three 0x5B d a b s)
  | .frcp d a s => some (.three 0x5C d a 0 s)
  | .frsq d a s => some (.three 0x5D d a 0 s)
  | .fsqrt d a s => some (.three 0x5E d a 0 s)
  | .fdiv d a b s => some (.three 0x5F d a b s)
  | .fexp2 d a s => some (.three 0x60 d a 0 s)
  | .flog2 d a s => some (.three 0x61 d a 0 s)
  | .fsin d a s => some (.three 0x62 d a 0 s)
  | .fcos d a s => some (.three 0x63 d a 0 s)
  | .dadd d a b s => some (.three 0x64 d a b s)
  | .dsub d a b s => some (.three 0x65 d a b s)
  | .dmul d a b s => some (.three 0x66 d a b s)
  | .dfma d a b s => some (.three 0x67 d a b s)
  | .dmin d a b s => some (.three 0x68 d a b s)
  | .dmax d a b s => some (.three 0x69 d a b s)
  | .deq d a b s => some (.three 0x6A d a b s)
  | .dlt d a b s => some (.three 0x6B d a b s)
  | .dle d a b s => some (.three 0x6C d a b s)
  | .ddiv d a b s => some (.three 0x6D d a b s)
  | .dsqrt d a s => some (.three 0x6E d a 0 s)
  | .drcp d a s => some (.three 0x6F d a 0 s)
  | .hadd2 d a b s => some (.three 0x70 d a b s)
  | .hmul2 d a b s => some (.three 0x71 d a b s)
  | .hfma2 d a b s => some (.three 0x72 d a b s)
  | .badd2 d a b s => some (.three 0x73 d a b s)
  | .bmul2 d a b s => some (.three 0x74 d a b s)
  | .bfma2 d a b s => some (.three 0x75 d a b s)
  | .cvt d a c s => some (.three 0x76 d a c s)
  | .cvtz d a c s => some (.three 0x77 d a c s)
  | .fclass d a s => some (.three 0x78 d a 0 s)
  | .fldx d a b s => some (.three 0x79 d a b s)
  | .frnd d a m s => some (.three 0x7A d a m s)
  | .drnd d a m s => some (.three 0x7B d a m s)
  | .fdot2 d a b s => some (.three 0x7C d a b s)
  | .hdot2 d a b s => some (.three 0x7D d a b s)
  | .packb d a b s => some (.three 0x7E d a b s)
  | .packh d a b s => some (.three 0x7F d a b s)
  | .ldb d a i s => some (.three 0x80 d a i s)
  | .ldbs d a i s => some (.three 0x81 d a i s)
  | .ldh d a i s => some (.three 0x82 d a i s)
  | .ldhs d a i s => some (.three 0x83 d a i s)
  | .ldw d a i s => some (.three 0x84 d a i s)
  | .ldd d a i s => some (.three 0x85 d a i s)
  | .ldq d a i s => some (.three 0x86 d a i s)
  | .stb d a i s => some (.three 0x87 d a i s)
  | .sth d a i s => some (.three 0x88 d a i s)
  | .stw d a i s => some (.three 0x89 d a i s)
  | .std d a i s => some (.three 0x8A d a i s)
  | .stq d a i s => some (.three 0x8B d a i s)
  | .ldo d a c o z s => some (.three 0x8C d a ((0 : BitVec 1) ++ c ++ o ++ z) s)
  | .sto d a c o z s => some (.three 0x8D d a ((0 : BitVec 1) ++ c ++ o ++ z) s)
  | .aadd d a c o z s => some (.three 0x8E d a ((0 : BitVec 1) ++ c ++ o ++ z) s)
  | .aand d a c o z s => some (.three 0x8F d a ((0 : BitVec 1) ++ c ++ o ++ z) s)
  | .aor d a c o z s => some (.three 0x90 d a ((0 : BitVec 1) ++ c ++ o ++ z) s)
  | .axor d a c o z s => some (.three 0x91 d a ((0 : BitVec 1) ++ c ++ o ++ z) s)
  | .amins d a c o z s => some (.three 0x92 d a ((0 : BitVec 1) ++ c ++ o ++ z) s)
  | .aminu d a c o z s => some (.three 0x93 d a ((0 : BitVec 1) ++ c ++ o ++ z) s)
  | .amaxs d a c o z s => some (.three 0x94 d a ((0 : BitVec 1) ++ c ++ o ++ z) s)
  | .amaxu d a c o z s => some (.three 0x95 d a ((0 : BitVec 1) ++ c ++ o ++ z) s)
  | .axch d a c o z s => some (.three 0x96 d a ((0 : BitVec 1) ++ c ++ o ++ z) s)
  | .acas d a c o z s => some (.three 0x97 d a ((0 : BitVec 1) ++ c ++ o ++ z) s)
  | .afxa d a c o z s => some (.three 0x98 d a ((0 : BitVec 1) ++ c ++ o ++ z) s)
  | .afxr d a c o z s => some (.three 0x99 d a ((0 : BitVec 1) ++ c ++ o ++ z) s)
  | .afxz d a c o s => some (.three 0x9A d a ((0 : BitVec 1) ++ c ++ o ++ (0 : BitVec 1)) s)
  | .fence c o s => some (.three 0x9B 0 0 ((0 : BitVec 1) ++ c ++ o ++ (0 : BitVec 1)) s)
  | .tgrab d a s => some (.three 0x9C d a 0 s)
  | .tinit a b s => some (.three 0x9D 0 a b s)
  | .vote d a m s => some (.three 0xA0 d a m s)
  | .shfi d a b s => some (.three 0xA1 d a b s)
  | .shfu d a n s => some (.three 0xA2 d a n s)
  | .shfd d a n s => some (.three 0xA3 d a n s)
  | .shfx d a n s => some (.three 0xA4 d a n s)
  | .redf d a m s => some (.three 0xA5 d a m s)
  | .redi d a m s => some (.three 0xA6 d a m s)
  | .scni d a x o s => some (.three 0xA7 d a ((0 : BitVec 4) ++ x ++ o) s)
  | .matchw d a s => some (.three 0xA8 d a 0 s)
  | .elect d s => some (.three 0xA9 d 0 0 s)
  | .qswz d a b s => some (.three 0xAA d a b s)
  | .sbind n a b s => some (.three 0xAB n a b s)
  | .spos d a t n s => some (.three 0xAC d a ((0 : BitVec 4) ++ t ++ n) s)
  | .qbind q b s => some (.three 0xAD q 0 b s)
  | .wspl k s => some (.three 0xAE 0 0 k s)
  | .wfil k s => some (.three 0xAF 0 0 k s)
  | .dsp c s => some (.three 0xB0 c 0 0 s)
  | .gldb d i s => some (.three 0xB1 d 0 i s)
  | .gldbs d i s => some (.three 0xB2 d 0 i s)
  | .gldh d i s => some (.three 0xB3 d 0 i s)
  | .gldhs d i s => some (.three 0xB4 d 0 i s)
  | .gldw d i s => some (.three 0xB5 d 0 i s)
  | .gadv i s => some (.three 0xB6 0 0 i s)
  | .gjmp a s => some (.three 0xB7 0 a 0 s)
  | .gjrel a s => some (.three 0xB8 0 a 0 s)
  | .gtrap i s => some (.wide 0xB9 0 i s)
  | .bld k a b s => some (.three 0xC0 k a b s)
  | .cbl t a s => some (.three 0xC1 t a 0 s)
  | .mma d a b s => some (.three 0xC2 d a b s)
  | .mmab d a b s => some (.three 0xC3 d a b s)
  | .mmas d a b s => some (.three 0xC4 d a b s)
  | .drn d a w g s => some (.three 0xC5 d a ((0 : BitVec 5) ++ w ++ g) s)
  | .acz d p s => some (.three 0xC6 d 0 ((0 : BitVec 7) ++ p) s)
  | .acl d a w g s => some (.three 0xC7 d a ((0 : BitVec 5) ++ w ++ g) s)
  | .rqt d a b s => some (.three 0xC8 d a b s)
  | .mstat d b s => some (.three 0xC9 d 0 b s)
  | .dwait d a s => some (.three 0xD0 d a 0 s)
  | .dpoll d a s => some (.three 0xD1 d a 0 s)
  | .drst d s => some (.three 0xD2 d 0 0 s)
  | .rwait d a s => some (.three 0xD3 d a 0 s)
  | .rrel d s => some (.three 0xD4 d 0 0 s)
  | .rclm d a s => some (.three 0xD5 d a 0 s)
  | .rcmt d a s => some (.three 0xD6 d a 0 s)
  | .bar b s => some (.three 0xD7 0 0 b s)
  | .bara a b s => some (.three 0xD8 0 a b s)
  | .barw a b s => some (.three 0xD9 0 a b s)
  | .srd d b s => some (.three 0xE0 d 0 b s)
  | .swr a b s => some (.three 0xE1 0 a b s)
  | .pcrd d a s => some (.three 0xE2 d a 0 s)
  | .tmrk i s => some (.wide 0xE3 0 i s)
  | .time d s => some (.three 0xE4 d 0 0 s)
  | .toluneInstruction _ _ => none
  | .portRunChoice _ _ => none
  | .strayIssue _ _ => none
  | .strayPromotion _ _ => none
  | .gangAgingPromotion _ _ => none
  | .regroupHoldExpiry _ _ => none
  | .loopBufferRefill _ _ => none
  | .loadResultDeliver _ _ _ => none
  | .storePerformed _ => none
  | .atomicResultDeliver _ _ _ => none
  | .divideResultDeliver _ _ _ => none
  | .fdivResultDeliver _ _ _ => none
  | .guestLoadDeliver _ _ _ => none
  | .rputWriteDeliver _ _ _ => none
  | .dspReadsComplete _ _ => none
  | .spinwReread _ _ => none
  | .dpollResultDeliver _ _ _ => none
  | .tgrabResultDeliver _ _ _ => none
  | .ringSlotDeliver _ _ _ => none
  | .streamElementArrive _ _ _ => none
  | .matrixProductStart _ => none
  | .narrowProductComplete _ => none
  | .slicedPassComplete _ => none
  | .bldComplete _ => none
  | .cblComplete _ => none
  | .drainResultDeliver _ => none
  | .mstatResultDeliver _ => none
  | .rqtJobComplete _ => none
  | .stagingRegisterWrite _ => none
  | .go _ => none
  | .jobStart _ => none
  | .jobRingClaim _ => none
  | .jobChunkComplete _ => none
  | .pageWalkComplete _ => none
  | .peerChunkAck _ => none
  | .jobComplete _ => none
  | .ladleChannelError _ _ => none
  | .rqtError _ => none
  | .ringStateError _ => none
  | .patrolScrub _ => none
  | .slipwayFlitRetry => none
  | .slipwayLinkFence => none
  | .towlineFlitRetry _ => none
  | .towlineLinkFence _ => none
  | .qtail _ _ => none
  | .registerBlockWrite _ _ _ => none
  | .launchRecord _ => none
  | .markerRecord _ => none
  | .patchActivation _ => none
  | .patchActivationComplete => none
  | .bindBlock _ => none
  | .bindRecord _ => none
  | .unbindNotice _ => none
  | .blockComplete _ => none
  | .windowOpenComplete _ _ => none
  | .engineStopAck _ _ _ => none
  | .preemptStallTimeout _ _ => none
  | .preemptQuantumExpiry _ => none
  | .queueHeadAging _ => none
  | .trapRecordPost _ => none
  | .serviceRequestPost _ => none
  | .serviceWarpRebind _ => none
  | .ringHeadRelease _ => none
  | .trapReplyResume _ => none
  | .trapReplyRedirect _ => none
  | .trapReplyAbort _ => none
  | .trapReplyChunkServiced _ => none
  | .trapReplyChunkFatal _ => none
  | .serviceReplyResume _ => none
  | .serviceReplyAbort _ => none
  | .windowOpen => none
  | .windowClose => none
  | .windowDescriptorRead => none
  | .ringDefine => none
  | .queueDefine => none
  | .translationRoot => none
  | .invalidate => none
  | .shadowPoolGrant => none
  | .contextSuspend => none
  | .contextResume => none
  | .slotReset => none
  | .statusRead => none
  | .firmwareLoad => none
  | .quote => none
  | .toluneDefine => none
  | .translationInstall => none
  | .traceSet => none
  | .comparatorSet => none
  | .warpStop => none
  | .peerBind => none
  | .contextDefine => none
  | .contextRelease => none
  | .stickyClear => none
  | .clockThrottle _ => none
  | .freezeN _ => none
  | .moduleReset => none
  | .powerOn => none
  | .powerLoss => none
  | .towlinePeerRequest _ _ _ _ => none
  | .peerFaultReturn _ _ => none
  | .towlineLinkTrained _ => none
  | .firmwareReady => none
  | .collectiveResultDeliver _ _ => none
  | .threadMoveComplete _ _ => none
  | .instructionCacheRefill _ _ => none

/-- The native word of an instruction (R26, R43). -/
def encode (i : Instr) : Option (BitVec 32) := i.parts.map Parts.native

/-- The Tolune bytes of an instruction, first byte in bits 7 to 0 (R49). -/
def encodeTolune (i : Instr) : Option (BitVec 32) := i.parts.map Parts.tolune

end Sys2Proof
end

