-- ==== Sys2Proof/Machine/State.lean ====
section
/-!
DEFINITION. The state of the machine as plain data, the reasons a step can stop, and the state after reset.

The parts follow the levels of the spec: thread, warp, run, block, Crucible, launch, context, then the die and the
package. A map from numbers is a list of (key, value) pairs with rising keys (`Sparse`).
-/

namespace Sys2Proof.Machine

/-- A register value with its poison bit (R65). -/
structure Val where
  v : Word
  p : Bool
  deriving DecidableEq, Repr

/-- A map from numbers, as pairs with rising keys. -/
abbrev Sparse (α : Type) := List (Nat × α)

/-- Memory: (address, byte) pairs with rising addresses and no entry equal to what an unlisted address reads as. -/
abbrev Memory := List Host.Cell

/-- Memory with the poison marks of its 8-byte ECC words (R65): the marked word numbers, rising. -/
structure Ram where
  bytes : Memory
  marks : List Nat
  deriving DecidableEq, Repr

/-! ## Threads -/

/-- What became of the thread of a lane slot (R66). -/
inductive ThreadStatus where
  /-- The lane slot holds no thread. -/
  | vacant
  | live
  /-- Cause 0. -/
  | exited
  /-- Switched off, causes 1 to 4. -/
  | off (cause : Nat)
  /-- Killed, causes 5 to 10. -/
  | killed (cause : Nat)
  deriving DecidableEq, Repr

/-- The word a pending variable-latency result comes from (R153). -/
inductive PendKind where
  | load | atomic | divide | fdiv | guest | rput | dpoll | tgrab | drain | mstat
  /-- `time` and `pcrd` (R376). -/
  | clock
  /-- `rwait` or `rclm` of a ring, with whether its slot is known and the group's token (R236). -/
  | ring (claim known : Bool) (r token : Nat)
  deriving DecidableEq, Repr

/-- A pending result: the registers it will write, with the values once known, and the flags it raises. -/
structure Pend where
  kind : PendKind
  cells : Sparse Val
  flags : BitVec 5
  deriving DecidableEq, Repr

/-- A fixed-latency result not yet ready (R144, R154). -/
structure Fixed where
  cell : Nat
  /-- The cycle from which a reader may issue. -/
  ready : Nat
  /-- The native PC of the producer and its class value. -/
  npc : Word
  cls : Nat
  deriving DecidableEq, Repr

/-- What a thread's next run waits for. -/
inductive Wait where
  /-- Registers named by a trailer (R41), as lane · 1024 + cell for every lane of the group. -/
  | cells (cs : List Nat)
  /-- `dwait`: the counter and the target, for a lane of the group (R234). -/
  | counter (lane dc : Nat) (target : Word)
  /-- `bar` or `barw`: a barrier and the generation it waits for (R237). -/
  | barrier (id gen : Nat)
  /-- A collective instance, by its number (R164). -/
  | collective (n : Nat)
  /-- A join-stack entry, by its number (R117). -/
  | rejoin (n : Nat)
  /-- A parked `spinw`: address, value and destination cell (R129), with the word's PC and bits. -/
  | spin (addr : Word) (value : Word) (cell : Nat) (npc raw : Word)
  /-- Parked on a trap record, by its number, with the address to resume at (R295). -/
  | trap (rec : Nat) (resume : Word)
  /-- Parked on a service call, by its request number (R351). -/
  | service (req : Nat)
  /-- The reads of a `dsp` (R131), with the carry count and whether the lane is a candidate of R132. -/
  | dispatch (c : Nat) (cand : Bool)
  /-- Held to gather partners (R132), with the carry count. -/
  | hold (c : Nat)
  /-- A thread being moved (R157). -/
  | move
  deriving DecidableEq, Repr

/-- One lane slot's thread (R53) and what the core holds for the lane. -/
structure Thread where
  status : ThreadStatus
  /-- Native PC (R54). -/
  pc : Word
  /-- Work identifier (R55). -/
  wid : Dword
  /-- Logical base L and resident floor F (R59, R60). -/
  base : Nat
  floor : Nat
  /-- Registers by cell: 0 to 255 the allotment, 256 to 263 the temporaries, 768 to 775 temporaries kept aside by the
  Mould (R324). An unlisted cell is 0, not poisoned. -/
  regs : Sparse Val
  gpc : Word
  gcb : Word
  htb : Word
  gop : BitVec 8
  glen : BitVec 4
  gmode : BitVec 2
  frm : BitVec 2
  fflags : BitVec 5
  absent : BitVec 2
  /-- Staging registers and their written bits (R238). -/
  jc0 : Dword
  jc1 : Dword
  jc2 : Dword
  jc3 : Dword
  jcw : BitVec 4
  /-- Position in each bound stream (R178). -/
  spos : Sparse Nat
  /-- Load-stream elements arrived and not yet consumed: stream number, elements in order (R160). -/
  selem : Sparse (List Val)
  /-- Pointer into each bound queue (R180). -/
  qptr : Sparse Nat
  /-- Region entry address and the package time at which it was set (R297). -/
  rentry : Word
  rtime : Nat
  /-- The previous trailer's entry flag and yield flag (R41). -/
  entryNext : Bool
  /-- The first word of the region that the group entered last has not issued: `rec` is still to count it (R41). -/
  recDue : Bool
  yielded : Bool
  /-- The lane is a stray (R145). -/
  stray : Bool
  /-- The lane's group is promoted: as a stray (true, R149) or as a gang (false, R151). -/
  promoted : Option Bool
  /-- The cycle from which the group has been eligible (R149, R151). -/
  since : Nat
  waits : List Wait
  pend : List Pend
  fix : List Fixed
  /-- The cycle from which the flags of the lane's fixed-latency words stand (R375). -/
  flagsAt : Nat
  /-- The earliest cycle at which the next run's first word may issue (R36). -/
  nextAt : Nat
  /-- The runs the loop buffer holds, newest first: start address and words (R148). -/
  loopBuf : List (Word × List Word)
  /-- Tolune mode and its call depth (R368, R369). -/
  tolune : Bool
  depth : Nat
  /-- The thread stands at a safe point of Tolune code (R369). -/
  safe : Bool
  /-- Pipeline-error attempts in the present region (R306). -/
  retry : Nat
  /-- The comparator from which the next issue at an address is exempt (R384). -/
  exempt : Option (Word × Nat)
  deriving DecidableEq, Repr

/-! ## Warps -/

/-- A join-stack entry (R115 to R117). -/
structure Join where
  num : Nat
  target : Word
  mask : Mask
  arrived : Mask
  deriving DecidableEq, Repr

/-- A lane's contribution to a collective: the source register and, for `shfi`, the index register. -/
structure Contribution where
  a : Val
  b : Val
  deriving DecidableEq, Repr

/-- A collective instance that has not delivered (R163 to R165). -/
structure Coll where
  num : Nat
  pc : Word
  raw : Word
  word : Instr
  members : Mask
  issued : Mask
  given : Sparse Contribution
  /-- The destination cells of each issuing lane. -/
  dest : Sparse (List Nat)
  deriving DecidableEq, Repr

/-- A bound stream (R176 to R178). -/
structure Stream where
  slot : Nat
  base : Word
  stride : Word
  count : Nat
  ctl : Word
  /-- The binding's number: elements of an earlier binding never arrive. -/
  num : Nat
  deriving DecidableEq, Repr

/-- A queue register: its bound slot and its 16-entry FIFO of one value per lane (R160, R180). -/
structure Queue where
  slot : Option Nat
  /-- Entries in order; each holds a value per lane slot. -/
  fifo : List (Sparse Val)
  /-- Values still to come from results of words that have issued: lane, slot and entry (R153, R180). -/
  due : List (Nat × Nat × Nat)
  /-- The index of the first entry, so that lane pointers are absolute. -/
  first : Nat
  deriving DecidableEq, Repr

/-- What a store in a warp's queue does when it is performed (R285). -/
inductive StoreKind where
  | plain
  /-- An element of a bound store stream (R178), which takes no request (R155). -/
  | element
  | staging | go
  deriving DecidableEq, Repr

/-- A store issued and not yet performed. -/
structure Store where
  lane : Nat
  kind : StoreKind
  addr : Word
  bytes : List Byte
  poison : Bool
  npc : Word
  word : Word
  /-- The thread that issued it, its guest PC at the word (R4, R380) and its region entry (R299). -/
  wid : Dword
  gpc : Word
  rentry : Word
  /-- An element whose value is a result still to come: the bound slot (R153, R178). -/
  due : Option Nat
  deriving DecidableEq, Repr

/-- The Mould's claim that a run is working through (R323, R324, R326). -/
structure Emul where
  /-- The claimed word, its PC, its EXT and its stall count. -/
  word : Word
  npc : Word
  ext : Option (BitVec 21)
  stall : Stall
  /-- The temporaries written and the body count of the claimed run. -/
  tw : BitVec 8
  body : Nat
  /-- The address at which the claimed run goes on. -/
  next : Word
  /-- The claimed word stands directly before its trailer. -/
  last : Bool
  /-- A routine that replaces a fault's fate (R326). -/
  redirect : Bool
  deriving DecidableEq, Repr

/-- A run in progress (R35 to R42). -/
structure Run where
  lanes : Mask
  stray : Bool
  /-- The group issues Tolune instructions, one to a run (R52). -/
  tolune : Bool
  entry : Word
  pc : Word
  /-- The run is a region entry whose first word has not issued (R41). -/
  entering : Bool
  /-- Body words issued. -/
  body : Nat
  /-- The payload of an EXT just issued. -/
  ext : Option (BitVec 21)
  /-- Temporaries written (R38). -/
  tw : BitVec 8
  /-- The last body word was run-ending (R37). -/
  ended : Bool
  /-- The words fetched so far, newest first (R148), and those a stray's loop buffer holds for the run. -/
  words : List Word
  buffer : List Word
  /-- What the group's next run waits for, beyond the trailer. -/
  waits : List Wait
  /-- Cells of collective results of this run (R165). -/
  collCells : List Nat
  /-- The Mould bank of the run (R42), words still to substitute and the word they replace. -/
  bank : Nat
  gen : Nat
  subst : List Word
  substFor : Option (Word × Word)
  emul : Option Emul
  /-- The earliest cycle at which the next word may issue. -/
  nextAt : Nat
  /-- The cycle from which a stray's next word has been eligible (R149). -/
  since : Nat
  icWait : Bool
  deriving DecidableEq, Repr

/-- A bound warp (R143, R268). -/
structure Warp where
  block : Nat
  launch : Nat
  context : Nat
  role : Nat
  /-- Core 0 to 191 and warp slot 0 to 15. -/
  core : Nat
  slot : Nat
  lanes : Nat
  /-- Registers per thread, A of R59. -/
  alloc : Nat
  draw : Nat
  tbase : Nat
  rbase : Nat
  memb : Mask
  fmask : Mask
  /-- `rec` (R63). -/
  entries : Word
  mthr : Nat
  stallchk : Bool
  /-- Patch bank and generation (R63, R327). -/
  pbank : Nat
  pgen : Nat
  /-- Draw units held until a cycle, or by products in progress (R161). -/
  drawHeld : List (Nat × Nat)
  drawProduct : Nat
  threads : Sparse Thread
  runs : Sparse Run
  joins : List Join
  colls : List Coll
  /-- Collectives that have delivered while a lane was still in the run that issued them, with their lanes: these go on
  together when none is (R164). -/
  delivered : List (Nat × Mask)
  streams : Sparse Stream
  queues : Sparse Queue
  storeQ : List Store
  /-- Quads whose anchor is cleared (R146). -/
  reanchor : List Nat
  /-- Base of the spill stack in the spill window (R61), and of the join-stack spill area (R116). -/
  spillBase : Nat
  joinBase : Nat
  /-- A `dsp` or a `rejoin` has completed and a merge may follow (R156). -/
  mergeDue : Bool
  /-- Off the core: parked on a service call or pre-empted (R128, R309). -/
  offCore : Bool
  /-- Every group halts at its next run boundary (R385 command 19). -/
  stopAll : Bool
  deriving DecidableEq, Repr

/-! ## Blocks and Crucibles -/

/-- A claimant waiting for a ring slot, in order (R235). -/
inductive Claimant where
  /-- A group by its token, with the cycle it began to wait and its warp slot and lane. -/
  | group (w token at' order : Nat)
  | job (j at' : Nat)
  deriving DecidableEq, Repr

/-- A ring of a block (R235). -/
structure Ring where
  off : Nat
  size : Nat
  count : Nat
  free : Nat
  filled : Nat
  head : Nat
  tail : Nat
  /-- Claimed slots that are committed and not yet filled in order. -/
  committed : List Nat
  waiters : List Claimant
  deriving DecidableEq, Repr

/-- How an open generation of a barrier completes (R237). -/
inductive BarKind where
  | all
  | counted (n : Nat)
  deriving DecidableEq, Repr

/-- A barrier of a block (R237). Threads are named by their index in the block. -/
structure Barrier where
  gen : Nat
  opener : Option BarKind
  arrived : List Nat
  participants : List Nat
  deriving DecidableEq, Repr

/-- A stopped thread's entry of the block completion record (R307). -/
structure StopEntry where
  wid : Dword
  cause : Nat
  detail : Nat
  npc : Word
  deriving DecidableEq, Repr

/-- Where a block stands. -/
inductive BlockStatus where
  /-- Bind records written, not all obeyed. -/
  | binding
  | running
  /-- A pre-emption is under way (R309). -/
  | stopping
  | preempted
  | complete
  deriving DecidableEq, Repr

/-- A matrix format code with what a bank tag holds (R185). -/
structure Tag where
  fmt : Nat
  s : Nat
  scl : Bool
  vk : Nat
  vn : Nat
  deriving DecidableEq, Repr

/-- A bank: its tag and its stored bytes' values by element k · 32 + n, with scales by column, and poison. -/
structure Bank where
  tag : Tag
  elems : Sparse Nat
  poison : List Nat
  scales : Sparse Nat
  scalePoison : List Nat
  deriving DecidableEq, Repr

/-- What a queued `bld` or `cbl` has read (R200, R201). -/
inductive TileLoad where
  | nothing
  /-- A read violated its window: the tag becomes empty. -/
  | failed
  | bank (b : Bank)
  | table (xs : List Val)
  deriving DecidableEq, Repr

/-- A word in the matrix queue, with what it captured at issue (R187). -/
structure MatrixEntry where
  word : Instr
  warp : Nat
  lanes : Mask
  npc : Word
  raw : Word
  /-- The voted values: the format word, an address, a third value. -/
  fmt : Word
  addr : Word
  addr2 : Word
  /-- The captured fragment or moved registers: lane · 128 + index. -/
  frag : Sparse Val
  /-- The destination cells of each lane. -/
  dest : Sparse (List Nat)
  load : TileLoad
  /-- The local bytes a `bld` reads: first address and count. -/
  rows : List (Nat × Nat)
  /-- `mstat` selector 0 bits sampled at acceptance. -/
  sample : Word
  /-- The region entry of its group at issue and the attempts it had counted (R222, R297, R306). -/
  rentry : Word
  retry : Nat
  num : Nat
  deriving DecidableEq, Repr

/-- The product in progress: its entry and the passes completed, and sums by element (R219). -/
structure Product where
  entry : MatrixEntry
  pass : Nat
  /-- A stop holds it at the end of its last pass (R220). -/
  held : Bool
  /-- Exact partial sums by pass state: (lane · 32 + n, sum). -/
  sums : Sparse Int
  deriving DecidableEq, Repr

/-- The Crucible of a core, as one block's state (R185). -/
structure Crucible where
  banks : Sparse Bank
  /-- Accumulator elements by (slot · 64 + row) · 32 + column. -/
  acc : Sparse Val
  /-- Codebook entries by table · 16 + index. -/
  tables : Sparse Val
  queue : List MatrixEntry
  cur : Option Product
  /-- Words of a context-switch image, accepted again once its product has committed (R221). -/
  saved : List MatrixEntry
  deriving DecidableEq, Repr

/-- A block (R255, R262). -/
structure Block where
  launch : Nat
  context : Nat
  ordinal : Nat
  bwid : Dword
  die : Nat
  /-- Cluster 0 to 5 of the die. -/
  cluster : Nat
  status : BlockStatus
  warps : List Nat
  shared : Ram
  sharedBase : Nat
  sharedSize : Nat
  counters : Sparse Word
  ndc : Nat
  rings : Sparse Ring
  bars : Sparse Barrier
  exited : Nat
  soff : Nat
  killed : Nat
  stops : List StopEntry
  threads : Nat
  nonReplayable : Bool
  /-- Stop acknowledgements still owed: engine kind and number (R309). -/
  owed : List (Nat × Nat)
  /-- The nanosecond of the stop request, and of the last restore (R310, R271). -/
  stopAt : Nat
  restoredAt : Option Nat
  aborting : Bool
  /-- Crucible parts of the context-switch image, by the core they were saved from (R312), and the bytes of the resume
  state of a stopped product (R220). -/
  parts : Sparse Crucible
  resume : Sparse (List Byte)
  /-- An uncorrectable ring or counter fenced the block (R245). -/
  fenced : Bool
  deriving DecidableEq, Repr

/-! ## Launches and contexts -/

/-- A role of a launch header (R258). -/
structure Role where
  entry : Word
  draw : Nat
  lanes : Nat
  warps : Nat
  regs : Nat
  deriving DecidableEq, Repr

/-- A launch header, read (R257 to R260). -/
structure Header where
  regroup : Nat
  stallchk : Bool
  replay : Bool
  shared : Nat
  params : Word
  gtrap : Word
  wmask : BitVec 14
  /-- Field widths and extents. -/
  fields : List (Nat × Nat)
  roles : List Role
  ndc : Nat
  /-- Ring offset, slot size and slot count. -/
  rings : List (Nat × Nat × Nat)
  cmask : BitVec 24
  first : List Nat
  deriving DecidableEq, Repr

/-- Where a launch stands. -/
inductive LaunchStatus where
  | accepted | running | replaying | aborting | complete
  deriving DecidableEq, Repr

/-- A launch (R255, R261, R342). -/
structure Launch where
  ident : Word
  context : Nat
  queue : Nat
  seq : Nat
  header : Header
  /-- The record's serial bit and its waits: queue and sequence number (R263, R265). -/
  serial : Bool
  waits : List (Nat × Nat)
  status : LaunchStatus
  nextOrdinal : Nat
  blocks : Nat
  done : Nat
  discarded : Nat
  stopped : Nat
  /-- Class of the code object (R320). -/
  cls : Nat
  pbank : Nat
  pgen : Nat
  bankBound : Bool
  /-- The launch still replays (R251, R342). -/
  replayable : Bool
  replays : Nat
  /-- Shadow copies of scratchpad lines, by line number of the package scratchpad (R251). -/
  shadowLines : Sparse Ram
  /-- Shadow versions of main-memory regions: region number and the pool page that holds the version, in units of 64 KiB
  (R341). -/
  shadowMain : Sparse Nat
  /-- The saved parameter block (R342): local address and bytes. -/
  saved : Option (Word × List Byte)
  /-- Completion entries held until the launch completes (R342). -/
  held : List (List Byte)
  /-- Every usable cluster of the next block's die is fenced (R272). -/
  stuck : Bool
  deriving DecidableEq, Repr

/-- The state of a context window (R252). -/
inductive WindowState where
  | closed | opening | opened | closing
  deriving DecidableEq, Repr

/-- A context window (R248 to R252). -/
structure Window where
  state : WindowState
  shadow : Bool
  track : Bool
  priv : Bool
  pa : Bool
  pg : Bool
  px : Bool
  pw : Bool
  pr : Bool
  size : Nat
  base : Nat
  /-- 64-byte lines written since the window opened (R250). -/
  written : List Nat
  /-- The launch a launch-private window serves (R251). -/
  owner : Option Nat
  deriving DecidableEq, Repr

/-- A host or device ring of a context (R346). -/
structure HostRing where
  base : Nat
  size : Nat
  index : Nat
  /-- Producer and consumer positions in units, modulo 2^32. -/
  tail : Nat
  head : Nat
  deriving DecidableEq, Repr

/-- A context (R349). -/
structure Context where
  defined : Bool
  /-- A system context (R349 command 21). -/
  system : Bool
  windows : Sparse Window
  quota : Nat
  asid : Nat
  root : Nat
  /-- Rings by kind 0 to 5 (R346). -/
  rings : Sparse HostRing
  /-- Command 6 has completed for the context (R349). -/
  rooted : Bool
  stickyIe : Bool
  stickyPe : Bool
  /-- Shadow pool pages granted (R341). -/
  pool : List (Nat × Nat)
  /-- Tolune base, size and map address (R368). -/
  tolune : Option (Word × Nat × Word)
  /-- Trace enables: markers, data values, copies; records dropped (R380). -/
  trace : BitVec 3
  dropped : Nat
  suspended : Bool
  releasing : Bool
  deriving DecidableEq, Repr

/-! ## Records of the Ferryman -/

/-- A trap record (R299 to R301), before and after it is posted. -/
structure TrapRec where
  num : Nat
  event : Nat
  reason : Nat
  context : Nat
  launch : Word
  warp : Nat
  die : Nat
  core : Nat
  wslot : Nat
  npc : Word
  word : Word
  rentry : Word
  entries : Word
  lmask : Mask
  wids : List Dword
  info0 : Dword
  info1 : Dword
  info2 : Dword
  /-- The job of event 9. -/
  job : Option Nat
  /-- The unit index once posted. -/
  seq : Option Nat
  deriving DecidableEq, Repr

/-- A service request (R351). -/
structure Service where
  num : Nat
  context : Nat
  launch : Nat
  warp : Nat
  /-- The core and the warp slot at the call. -/
  core : Nat
  wslot : Nat
  code : Nat
  npc : Word
  lanes : Mask
  /-- The unit index once posted, whether the warp is off its core for it, and whether the reply has come. -/
  seq : Option Nat
  unbound : Bool
  replied : Bool
  /-- Register writes of the reply: lane, cell, value. -/
  writes : List (Nat × Nat × Word)
  /-- The nanosecond of the request. -/
  at' : Nat
  deriving DecidableEq, Repr

/-- Where a job stands (R241 to R244). -/
inductive JobStatus where
  /-- In the hazard unit, not yet started. -/
  | waiting
  /-- Waiting for a ring slot. -/
  | claiming
  | running
  /-- Parked on a page fault. -/
  | parked
  /-- Waiting for a peer's acknowledgement. -/
  | peer
  /-- Stopped for pre-emption. -/
  | saved
  deriving DecidableEq, Repr

/-- The kind of work a job does. -/
inductive JobKind where
  | ladle
  /-- A requantising transpose with its captured operands (R207), and the tables once its turn in the matrix queue has
  come. -/
  | rqt (ctl : Word) (src dst : Word) (tables : Option (Sparse Val))
  deriving DecidableEq, Repr

/-- A job in flight (R238 to R244). -/
structure Job where
  kind : JobKind
  status : JobStatus
  context : Nat
  block : Nat
  warp : Nat
  lane : Nat
  lanes : Mask
  wid : Dword
  launch : Nat
  npc : Word
  /-- The word, of an `rqt` (R299). -/
  word : Word
  gpc : Word
  /-- The region entry of the submitting group. -/
  rentry : Word
  die : Nat
  cluster : Nat
  jc0 : Dword
  jc1 : Dword
  jc2 : Dword
  jc3 : Dword
  /-- Destination bytes written so far. -/
  cursor : Nat
  /-- The claimed ring slot, by slot index. -/
  claim : Option Nat
  /-- Bytes of the present chunk on the way to a peer. -/
  chunk : List Byte
  /-- The trap record that parks it. -/
  fault : Option Nat
  traced : Bool
  deriving DecidableEq, Repr

/-- A launch queue (R263 to R265, R346). -/
structure LaunchQueue where
  defined : Bool
  owner : Nat
  prio : Nat
  base : Nat
  size : Nat
  index : Nat
  head : Nat
  tail : Nat
  /-- Records completed: every sequence number below, and those above it. -/
  completedBelow : Nat
  completed : List Nat
  /-- The nanosecond from which the head has been kept ready, and whether it is treated as priority 3 for one choice
  (R264). -/
  readyAt : Option Nat
  aged : Bool
  /-- A patch activation holds the queue. -/
  heldBy : Option Nat
  asid : Nat
  deriving DecidableEq, Repr

/-- An entry of a translation cache (R339): the cache, 0 to 23 for a Ladle's own by cluster of the package and 24 to 27 for
the one that a die's Ladles share; context, virtual and physical page of 64 KiB, and what every entry of its walk grants. -/
structure TlbEntry where
  cache : Nat
  context : Nat
  page : Nat
  phys : Nat
  read : Bool
  write : Bool
  deriving DecidableEq, Repr

/-- What follows once an entry stands in its ring: a record is complete (R263), a done counter rises (R392), or a patch
activation ends (R328). -/
inductive Due where
  | record (queue seq : Nat)
  | counter (block dc : Nat)
  | activation
  deriving DecidableEq, Repr

/-- An entry on its way to a completion ring, and what follows once it is posted. -/
structure OutEntry where
  context : Nat
  bytes : List Byte
  due : Option Due
  deriving DecidableEq, Repr

/-- A trap reply (R303), with its context, its index in the reply ring and the block of its record, which it waits for while
that is pre-empted (R305). -/
structure Reply where
  context : Nat
  index : Nat
  block : Nat
  record : Nat
  action : Nat
  nochk : Bool
  sgpc : Bool
  mask : Mask
  pc : Word
  gpc : Word
  deriving DecidableEq, Repr

/-- A bind record in a core's slot table (R268). -/
structure BindRecord where
  core : Nat
  wslot : Nat
  context : Nat
  launch : Nat
  block : Nat
  role : Nat
  lanes : Nat
  tbase : Nat
  rbase : Nat
  regs : Nat
  draw : Nat
  warp : Nat
  deriving DecidableEq, Repr

/-- A core (R162, R269, R379, R383). -/
structure Core where
  fenced : Bool
  fencedSlots : List Nat
  /-- Comparators by kind · 8 + number: context, value, mask, lane mask, access bits. -/
  comps : Sparse (Nat × Word × Word × Mask × BitVec 2)
  /-- Top-down leaves by port · 16 + leaf (R379). -/
  leaves : Sparse Nat
  /-- The place, 4 · cycle + port, of the matrix word accepted last (R187). -/
  matrixAt : Nat
  deriving DecidableEq, Repr

/-- A Mould slot as eight words (R319). -/
abbrev MouldSlot := List Word

/-- A Mould bank with the image it holds (R327, R331). -/
structure MouldBank where
  slots : List MouldSlot
  code : List Word
  serial : Nat
  digest : Option (List Byte)
  deriving DecidableEq, Repr

/-- A patch activation under way (R328). -/
structure Activation where
  queue : Nat
  seq : Nat
  live : Bool
  bank : Nat
  /-- The nanosecond at which the sweep began. -/
  at' : Nat
  /-- Its completion record is on its way to the ring. -/
  ended : Bool
  deriving DecidableEq, Repr

/-- A Towline link (R386, R391). -/
structure Towline where
  trained : Bool
  fenced : Bool
  /-- The peer device at the other end. -/
  peer : Nat
  /-- The contexts bound at this end, each with its peer context. -/
  bound : Sparse Nat
  retries : Nat
  deriving DecidableEq, Repr

/-- A watched region (R381). -/
structure Watch where
  context : Nat
  base : Word
  length : Nat
  deriving DecidableEq, Repr

/-- The host register block (R345). -/
structure RegBlock where
  qtail : Sparse Nat
  ctail : Nat
  rdoor : Dword
  cbase : Nat
  csize : Nat
  cidx : Nat
  casid : Nat
  /-- CBASE, CSIZE, CIDX and CASID written since the module reset. -/
  written : BitVec 4
  ready : Bool
  deriving DecidableEq, Repr

/-! ## The machine -/

/-- What the words of threads act on: the compute dies with their scratchpad. -/
structure Chip where
  /-- Port cycles since reset, and the package time in picoseconds (R143, R376). -/
  cycle : Nat
  ps : Nat
  mhz : Nat
  warps : Sparse Warp
  blocks : Sparse Block
  launches : Sparse Launch
  contexts : Sparse Context
  crucibles : Sparse Crucible
  cores : Sparse Core
  jobs : Sparse Job
  banks : Sparse MouldBank
  bank : Nat
  gen : Nat
  /-- Package scratchpad by 30-bit address, and the spill store. -/
  scratch : Ram
  spill : Ram
  watches : Sparse Watch
  /-- Trace records to write: context and bytes (R380). -/
  traceOut : List (Nat × List Byte)
  /-- Trap records and service requests, open or not yet posted. -/
  recs : List TrapRec
  services : List Service
  /-- Cores to fence, launches to replay or abort, as R306 and R342 ask. -/
  failures : List (Nat × Nat)
  fencedChannels : List Nat
  fencedRqt : List Nat
  /-- Towline links by port 0 to 7 (R386). -/
  towlines : Sparse Towline
  /-- The model's own: numbers handed out, choices the machine may make freely, a check to fail, and the number of
  free values drawn. -/
  next : Nat
  choices : List Nat
  inject : Option Nat
  freeCount : Nat
  deriving DecidableEq, Repr

/-- An entry of the Ferryman's error log (R269, R302): a refused bind record with its core, slot and both launches, or a
fence notice with its reason, unit and die. -/
inductive LogEntry where
  | bind (core slot was new : Nat)
  | fence (reason unit die : Nat)
  deriving DecidableEq, Repr

/-- An event, a word of a run, or an act of the world outside: what the next step does. -/
inductive Turn where
  | event (i : Instr)
  /-- The next word of a run of a warp. -/
  | word (w rid : Nat)
  /-- The host writes its own memory, or main memory over the Slipway. -/
  | hostWrite (asid addr : Nat) (bytes : List Byte)
  | mainWrite (addr : Nat) (bytes : List Byte)
  /-- The loader gives the Ferryman the class of a launch header's code object. -/
  | classGiven (ctx hdr cls : Nat)
  /-- The loader places bytes in a window of a context (R250, R365). -/
  | placed (ctx : Nat) (addr : Word) (bytes : List Byte)
  /-- An uncorrectable error in the Mould slots or the Crucible of a core (R314, R330). -/
  | coreError (core : Nat)
  /-- A pending result of `time` or `pcrd` reaches its registers (R376). -/
  | clock (w l n : Nat)
  /-- An uncorrectable error in a register, by warp, lane and cell (R65). -/
  | registerError (w l cell : Nat)
  /-- An uncorrectable error in a scratchpad word, or in the shared memory of a block (R65). -/
  | scratchError (word : Nat)
  | sharedError (b word : Nat)
  /-- An uncorrectable error in an 8-byte word of main memory (R336). -/
  | mainError (word : Nat)
  /-- An uncorrectable error in an 8-byte word of the spill cache (R159). -/
  | spillError (word : Nat)
  /-- Another party writes bytes at a peer's main memory, or an 8-byte word there is poisoned (R388). -/
  | peerWrite (peer ctx addr : Nat) (bytes : List Byte)
  | peerError (peer ctx word : Nat)
  /-- An uncorrectable error in a macro of a core's Crucible: element `place` of a bank (0 to 7), an accumulator slot (8 to 15)
  or a table (16, 17) (R198). -/
  | macroError (core array place : Nat)
  /-- An error that is corrected and counted (R158, R336). -/
  | corrected
  /-- The next check of a pipeline fails, in this unit (R162, R301). -/
  | mismatch (unit : Nat)
  /-- Port cycles in which nothing issues. -/
  | idle (n : Nat)
  deriving DecidableEq, Repr

/-- The machine. -/
structure State where
  /-- What the next steps do; with it empty a fixed order is used (the model's own). -/
  agenda : List Turn
  /-- The warp and run whose word is being issued (the model's own). -/
  focus : Option (Nat × Nat)
  chip : Chip
  queues : Sparse LaunchQueue
  binds : List BindRecord
  activation : Option Activation
  /-- Bind round robin: the queue served last (R264). -/
  lastServed : Option Nat
  /-- The Ferryman's error log (R269, R302). -/
  errorLog : List LogEntry
  /-- Completion entries on their way to a ring, and trap replies held for pre-empted warps. -/
  outbox : List OutEntry
  replies : List Reply
  tlb : List TlbEntry
  /-- Code-object classes given by the loader: context, header address, class (R320, R365). -/
  classes : List (Nat × Nat × Nat)
  regBlock : RegBlock
  chead : Nat
  slipwayFenced : Bool
  slipwayRetries : Nat
  frozen : Bool
  powered : Bool
  /-- Fuses: revoked keys, leaf blocks begun (R333, R335), the serial number. -/
  revoked : List Nat
  leafBlocks : Nat
  serial : Nat
  /-- Correctable errors of main memory, corrected and counted (R336), and of the dies' other arrays (R158). -/
  corrected : Nat
  /-- Board flash: next leaf in the block, the firmware image (R335, R348). -/
  leaf : Nat
  firmware : List Byte
  flashed : List Byte
  main : Ram
  /-- Host memory by address space, and main memory of peers by device · 2^32 + context. -/
  host : Sparse Memory
  peers : Sparse Ram
  deriving DecidableEq, Repr

/-! ## Why a step stops -/

/-- The reasons a step stops with a fault. None of them is a fate of the hardware: each names a turn that the
hardware cannot take in that state, so stopping there is safe. -/
inductive Fault where
  /-- Raised by a word's meaning when no run of a warp is in focus: a word issues only from a run (safe). -/
  | noIssuer
  /-- Raised by an event's meaning when its condition does not hold: the event cannot happen now (safe). -/
  | eventNotEnabled
  /-- Raised by any step while the clocks are stopped or the power is off, but for the events that end that (safe). -/
  | stopped
  deriving DecidableEq, Repr

/-- The reasons a step is refused. -/
inductive Refusal where
  /-- Raised only by an arm of `exec` whose instruction has no meaning yet (safe). -/
  | notModelled (mnemonic : String)
  deriving DecidableEq, Repr

/-! ## Reset -/

/-- A lane slot with no thread. -/
def Thread.vacant : Thread where
  status := .vacant
  pc := 0
  wid := 0
  base := 0
  floor := 0
  regs := []
  gpc := 0
  gcb := 0
  htb := 0
  gop := 0
  glen := 0
  gmode := 0
  frm := 0
  fflags := 0
  absent := 0
  jc0 := 0
  jc1 := 0
  jc2 := 0
  jc3 := 0
  jcw := 0
  spos := []
  selem := []
  qptr := []
  rentry := 0
  rtime := 0
  entryNext := false
  recDue := false
  yielded := false
  stray := false
  promoted := none
  since := 0
  waits := []
  pend := []
  fix := []
  flagsAt := 0
  nextAt := 0
  loopBuf := []
  tolune := false
  depth := 0
  safe := false
  retry := 0
  exempt := none

/-- A context before command 21 (R349). -/
def Context.blank : Context where
  defined := false
  system := false
  windows := []
  quota := 0
  asid := 0
  root := 0
  rings := []
  rooted := false
  stickyIe := false
  stickyPe := false
  pool := []
  tolune := none
  trace := 0
  dropped := 0
  suspended := false
  releasing := false

/-- Context 0, which exists from module reset (R349). Its quota is the whole of the scratchpad outside the Ferryman's
system area; the field holds no number of its own. -/
def Context.zero : Context := { Context.blank with defined := true, system := true }

/-- A launch queue before command 5 (R349). -/
def LaunchQueue.blank : LaunchQueue where
  defined := false
  owner := 0
  prio := 0
  base := 0
  size := 0
  index := 0
  head := 0
  tail := 0
  completedBelow := 0
  completed := []
  readyAt := none
  aged := false
  heldBy := none
  asid := 0

/-- A core after reset. -/
def Core.fresh : Core where
  fenced := false
  fencedSlots := []
  comps := []
  leaves := []
  matrixAt := 0

/-- A Crucible when a block is bound (R185). -/
def Crucible.fresh : Crucible where
  banks := []
  acc := []
  tables := []
  queue := []
  cur := none
  saved := []

/-- A Mould bank with no valid slot (R327). -/
def MouldBank.empty : MouldBank where
  slots := []
  code := []
  serial := 0
  digest := none

/-- The register block after reset (R345). -/
def RegBlock.reset : RegBlock where
  qtail := []
  ctail := 0
  rdoor := 0
  cbase := 0
  csize := 0
  cidx := 0
  casid := 0
  written := 0
  ready := false

/-- A link before it is trained (R386). -/
def Towline.untrained : Towline where
  trained := false
  fenced := false
  peer := 0
  bound := []
  retries := 0

/-- The chip after reset. -/
def Chip.reset : Chip where
  cycle := 0
  ps := 0
  mhz := 4000
  warps := []
  blocks := []
  launches := []
  contexts := [(0, Context.zero)]
  crucibles := []
  cores := []
  jobs := []
  banks := []
  bank := 0
  gen := 0
  scratch := ⟨[], []⟩
  spill := ⟨[], []⟩
  watches := []
  traceOut := []
  recs := []
  services := []
  failures := []
  fencedChannels := []
  fencedRqt := []
  towlines := []
  next := 1
  choices := []
  inject := none
  freeCount := 0

/-- The machine right after reset: nothing bound, no queue defined, no memory listed. -/
def State.reset : State where
  agenda := []
  focus := none
  chip := Chip.reset
  queues := []
  binds := []
  activation := none
  lastServed := none
  errorLog := []
  outbox := []
  replies := []
  tlb := []
  classes := []
  regBlock := RegBlock.reset
  chead := 0
  slipwayFenced := false
  slipwayRetries := 0
  frozen := false
  powered := true
  revoked := []
  leafBlocks := 1
  serial := 0
  corrected := 0
  leaf := 0
  firmware := []
  flashed := []
  main := ⟨[], []⟩
  host := []
  peers := []

end Sys2Proof.Machine
end

