-- ==== Sys2Proof/Machine/Mem.lean ====
section
/-!
DEFINITION. Maps from numbers, and memory: reading and writing bytes, poison marks by 8-byte word (R65), little-endian
values (R24, R88).
-/

namespace Sys2Proof.Machine

/-! ## Maps -/

/-- The value at a key, or the default. -/
def Sparse.get {α : Type} (d : α) : Sparse α → Nat → α
  | [], _ => d
  | (k, v) :: r, n => if k = n then v else Sparse.get d r n

/-- The value at a key, if the key is listed. -/
def Sparse.find {α : Type} : Sparse α → Nat → Option α
  | [], _ => none
  | (k, v) :: r, n => if k = n then some v else Sparse.find r n

/-- Lists a value at a key, in key order. -/
def Sparse.put {α : Type} : Sparse α → Nat → α → Sparse α
  | [], n, v => [(n, v)]
  | (k, w) :: r, n, v =>
    if n = k then (n, v) :: r
    else if n < k then (n, v) :: (k, w) :: r
    else (k, w) :: Sparse.put r n v

/-- Unlists a key. -/
def Sparse.erase {α : Type} (m : Sparse α) (n : Nat) : Sparse α := m.filter fun e => e.1 ≠ n

/-- Sets a key so that a default value is not listed. -/
def Sparse.set {α : Type} [DecidableEq α] (d : α) (m : Sparse α) (n : Nat) (v : α) : Sparse α :=
  if v = d then Sparse.erase m n else Sparse.put m n v

/-- The keys listed. -/
def Sparse.keys {α : Type} (m : Sparse α) : List Nat := m.map (·.1)

/-- Changes the value at a key that is listed. -/
def Sparse.modify {α : Type} (m : Sparse α) (n : Nat) (f : α → α) : Sparse α :=
  match Sparse.find m n with
  | some v => Sparse.put m n (f v)
  | none => m

/-- A canonical map: keys strictly rising, no default listed. -/
def Sparse.Canonical {α : Type} (d : α) (m : Sparse α) : Prop :=
  m.Pairwise (fun x y => x.1 < y.1) ∧ ∀ e ∈ m, e.2 ≠ d

/-! ## Bytes -/

/-- What a byte that nothing has written reads as (log entry 1). -/
def unwritten : Byte := 0

/-- The canonical form of a memory. -/
abbrev Memory.wf (m : Memory) : Prop :=
  m.Pairwise (fun x y => x.1 < y.1) ∧ ∀ e ∈ m, e.2 ≠ unwritten

/-- One byte. -/
def Memory.read (m : Memory) (a : Nat) : Byte := Sparse.get unwritten m a

/-- One byte written. -/
def Memory.write (m : Memory) (a : Nat) (v : Byte) : Memory := Sparse.set unwritten m a v

/-- Bytes from an address upwards. -/
def Memory.readBytes (m : Memory) (a n : Nat) : List Byte := (List.range n).map fun i => m.read (a + i)

/-- Bytes written from an address upwards. -/
def Memory.writeBytes : Memory → Nat → List Byte → Memory
  | m, _, [] => m
  | m, a, b :: bs => Memory.writeBytes (m.write a b) (a + 1) bs

/-- The bytes of a range cleared to what unwritten memory reads as. -/
def Memory.clear (m : Memory) (a n : Nat) : Memory := m.filter fun e => e.1 < a ∨ a + n ≤ e.1

/-- A number from bytes, the first the lowest. -/
def numOfBytes : List Byte → Nat
  | [] => 0
  | b :: bs => b.toNat + 256 * numOfBytes bs

/-- The n bytes of a number, the lowest first. -/
def bytesOfNum : Nat → Nat → List Byte
  | 0, _ => []
  | n + 1, v => BitVec.ofNat 8 v :: bytesOfNum n (v / 256)

/-- The 32-bit words of bytes, four to a word. -/
def wordsOfBytes : List Byte → List Word
  | b0 :: b1 :: b2 :: b3 :: r => BitVec.ofNat 32 (numOfBytes [b0, b1, b2, b3]) :: wordsOfBytes r
  | _ => []

/-- A little-endian number in memory. -/
def Memory.num (m : Memory) (a n : Nat) : Nat := numOfBytes (m.readBytes a n)

/-! ## Poison marks -/

/-- A number inserted in a rising list. -/
def insertNum (n : Nat) : List Nat → List Nat
  | [] => [n]
  | k :: r => if n = k then k :: r else if n < k then n :: k :: r else k :: insertNum n r

/-- The memory with nothing written. -/
def Ram.empty : Ram := ⟨[], []⟩

/-- The 8-byte words a range touches. -/
def touched (a n : Nat) : List Nat := if n = 0 then [] else (List.range ((a + n - 1) / 8 + 1 - a / 8)).map (a / 8 + ·)

/-- The 8-byte words a range covers whole. -/
def covered (a n : Nat) : List Nat := (touched a n).filter fun k => a ≤ 8 * k ∧ 8 * k + 8 ≤ a + n

/-- A byte carries a poison mark. -/
def Ram.poisoned (r : Ram) (a : Nat) : Bool := r.marks.contains (a / 8)

/-- Bytes written; poisoned data marks every word it touches, clean data clears the marks of the words it covers
(R65). -/
def Ram.store (r : Ram) (a : Nat) (bs : List Byte) (p : Bool) : Ram where
  bytes := r.bytes.writeBytes a bs
  marks :=
    if p then (touched a bs.length).foldl (fun m k => insertNum k m) r.marks
    else r.marks.filter fun k => !(covered a bs.length).contains k

/-- A range returned to its unwritten state. -/
def Ram.clear (r : Ram) (a n : Nat) : Ram where
  bytes := r.bytes.clear a n
  marks := r.marks.filter fun k => 8 * k + 8 ≤ a ∨ a + n ≤ 8 * k

end Sys2Proof.Machine
end

