-- ==== Sys2Proof/Machine/Ops.lean ====
section
/-!
DEFINITION. The named operations over the chip: its parts by number, registers through the window (R59), stopping a
lane or a warp (R46, R66), join entries (R117, R118), barriers (R237), and taking an event (R295, R296).
-/

namespace Sys2Proof.Machine

/-! ## Parts by number -/

/-- A warp slot with nothing bound. -/
def Warp.blank : Warp where
  block := 0
  launch := 0
  context := 0
  role := 0
  core := 0
  slot := 0
  lanes := 0
  alloc := 0
  draw := 0
  tbase := 0
  rbase := 0
  memb := 0
  fmask := 0
  entries := 0
  mthr := 0
  stallchk := false
  pbank := 0
  pgen := 0
  drawHeld := []
  drawProduct := 0
  threads := []
  runs := []
  joins := []
  colls := []
  delivered := []
  streams := []
  queues := []
  storeQ := []
  reanchor := []
  spillBase := 0
  joinBase := 0
  mergeDue := false
  offCore := false
  stopAll := false

/-- A run of no lanes. -/
def Run.blank : Run where
  lanes := 0
  stray := false
  tolune := false
  entry := 0
  pc := 0
  entering := false
  body := 0
  ext := none
  tw := 0
  ended := false
  words := []
  buffer := []
  waits := []
  collCells := []
  bank := 0
  gen := 0
  subst := []
  substFor := none
  emul := none
  nextAt := 0
  since := 0
  icWait := false

/-- No block. -/
def Block.blank : Block where
  launch := 0
  context := 0
  ordinal := 0
  bwid := 0
  die := 0
  cluster := 0
  status := .complete
  warps := []
  shared := Ram.empty
  sharedBase := 0
  sharedSize := 0
  counters := []
  ndc := 0
  rings := []
  bars := []
  exited := 0
  soff := 0
  killed := 0
  stops := []
  threads := 0
  nonReplayable := false
  owed := []
  stopAt := 0
  restoredAt := none
  aborting := false
  parts := []
  resume := []
  fenced := false

/-- A header with nothing in it. -/
def Header.blank : Header where
  regroup := 0
  stallchk := false
  replay := false
  shared := 0
  params := 0
  gtrap := 0
  wmask := 0
  fields := []
  roles := []
  ndc := 0
  rings := []
  cmask := 0
  first := []

/-- No launch. -/
def Launch.blank : Launch where
  ident := 0
  context := 0
  queue := 0
  seq := 0
  header := Header.blank
  serial := false
  waits := []
  status := .complete
  nextOrdinal := 0
  blocks := 0
  done := 0
  discarded := 0
  stopped := 0
  cls := 0
  pbank := 0
  pgen := 0
  bankBound := false
  replayable := false
  replays := 0
  shadowLines := []
  shadowMain := []
  saved := none
  held := []
  stuck := false

/-- A window before it is opened (R248). -/
def Window.blank : Window where
  state := .closed
  shadow := false
  track := false
  priv := false
  pa := false
  pg := false
  px := false
  pw := false
  pr := false
  size := 0
  base := 0
  written := []
  owner := none

/-- A barrier before its first arrival (R237). -/
def Barrier.fresh : Barrier where
  gen := 0
  opener := none
  arrived := []
  participants := []

/-- A ring with no slots. -/
def Ring.blank : Ring where
  off := 0
  size := 0
  count := 0
  free := 0
  filled := 0
  head := 0
  tail := 0
  committed := []
  waiters := []

/-- A queue register before it is bound (R180). -/
def Queue.blank : Queue where
  slot := none
  fifo := []
  due := []
  first := 0

def Chip.warp (c : Chip) (w : Nat) : Warp := Sparse.get Warp.blank c.warps w
def Chip.block (c : Chip) (b : Nat) : Block := Sparse.get Block.blank c.blocks b
def Chip.launch (c : Chip) (n : Nat) : Launch := Sparse.get Launch.blank c.launches n
def Chip.context (c : Chip) (x : Nat) : Context := Sparse.get Context.blank c.contexts x
def Chip.core (c : Chip) (k : Nat) : Core := Sparse.get Core.fresh c.cores k
def Chip.crucible (c : Chip) (k : Nat) : Crucible := Sparse.get Crucible.fresh c.crucibles k
def Warp.thread (wp : Warp) (l : Nat) : Thread := Sparse.get Thread.vacant wp.threads l
def Warp.run (wp : Warp) (r : Nat) : Run := Sparse.get Run.blank wp.runs r
def Context.window (x : Context) (n : Nat) : Window := Sparse.get Window.blank x.windows n

def Chip.modWarp (c : Chip) (w : Nat) (f : Warp → Warp) : Chip := { c with warps := Sparse.modify c.warps w f }
def Chip.modBlock (c : Chip) (b : Nat) (f : Block → Block) : Chip :=
  { c with blocks := Sparse.modify c.blocks b f }
def Chip.modLaunch (c : Chip) (n : Nat) (f : Launch → Launch) : Chip :=
  { c with launches := Sparse.modify c.launches n f }
def Chip.modContext (c : Chip) (x : Nat) (f : Context → Context) : Chip :=
  { c with contexts := Sparse.put c.contexts x (f (c.context x)) }
def Chip.modCore (c : Chip) (k : Nat) (f : Core → Core) : Chip := { c with cores := Sparse.put c.cores k (f (c.core k)) }
def Chip.modCrucible (c : Chip) (k : Nat) (f : Crucible → Crucible) : Chip :=
  { c with crucibles := Sparse.put c.crucibles k (f (c.crucible k)) }
def Warp.modThread (wp : Warp) (l : Nat) (f : Thread → Thread) : Warp :=
  { wp with threads := Sparse.put wp.threads l (f (wp.thread l)) }
def Warp.modRun (wp : Warp) (r : Nat) (f : Run → Run) : Warp := { wp with runs := Sparse.modify wp.runs r f }
def Context.modWindow (x : Context) (n : Nat) (f : Window → Window) : Context :=
  { x with windows := Sparse.put x.windows n (f (x.window n)) }

/-- Changes the threads of several lane slots. -/
def Warp.mapLanes (wp : Warp) (ls : List Nat) (f : Nat → Thread → Thread) : Warp :=
  ls.foldl (fun wp l => wp.modThread l (f l)) wp

/-- A fresh number. -/
def Chip.fresh (c : Chip) : Nat × Chip := (c.next, { c with next := c.next + 1 })

/-- The next free choice below n, or the default 0 (log entry 3). -/
def Chip.choose (c : Chip) (n : Nat) : Nat × Chip :=
  match c.choices with
  | [] => (0, c)
  | k :: r => (if n = 0 then 0 else k % n, { c with choices := r })

/-- The die, the cluster of the die and the cluster of the package of a core 0 to 191 (R63). -/
def dieOf (core : Nat) : Nat := core / 48
def clusterOf (core : Nat) : Nat := core / 8 % 6
def packageCluster (core : Nat) : Nat := core / 8
/-- The port of a warp slot (R143). -/
def portOf (slot : Nat) : Nat := slot % 4

/-- Package time in nanoseconds (R376). -/
def Chip.ns (c : Chip) : Nat := c.ps / 1000

/-- Port cycles pass (R143; log entry 4). -/
def Chip.advance (c : Chip) (n : Nat) : Chip :=
  { c with cycle := c.cycle + n, ps := c.ps + (if c.mhz = 0 then 0 else n * 1000000 / c.mhz) }

/-! ## Lanes -/

/-- The thread of a lane slot is neither exited nor stopped. -/
def Thread.live (t : Thread) : Bool := t.status == .live

/-- The live lane slots of a warp. -/
def Warp.liveLanes (wp : Warp) : List Nat := (List.range 64).filter fun l => (wp.thread l).live
def Warp.liveMask (wp : Warp) : Mask := maskOf wp.liveLanes

/-- The lanes of an issue group's run that are live, ascending. -/
def Warp.active (wp : Warp) (r : Run) : List Nat := r.lanes.lanes.filter fun l => (wp.thread l).live

/-- The number of quads a set of lanes spans (R144). -/
def quads (m : Mask) : Nat := ((List.range 16).filter fun q => (m >>> (4 * q)) &&& 15#64 != 0).length

/-- The address of the guest opcode byte (R113, R131). -/
def Thread.guestAddr (t : Thread) : Word := t.gcb + t.gpc

/-! ## Registers -/

/-- The cell no register has. -/
def noCell : Nat := 1000

/-- The window's width W (R59). -/
def window (a : Nat) : Nat := min a 120

/-- The cell of allotment register n. -/
def allotCell (a base n : Nat) : Nat := if a = 0 then noCell else (base + n) % a

/-- The slots bound to streams and queues (R177, R180). -/
def Warp.boundSlots (wp : Warp) : List Nat :=
  wp.streams.map (fun e => e.2.slot) ++ wp.queues.filterMap (fun e => e.2.slot)

/-- The cell a register field names (R25, R59): the latch of a bound slot, a temporary, or a register of the
allotment. -/
def Warp.cell (wp : Warp) (tolune : Bool) (t : Thread) (r : Reg) : Nat :=
  if wp.boundSlots.contains r.toNat then 512 + r.toNat
  else if tolune then (if r.toNat < wp.alloc then allotCell wp.alloc t.base r.toNat else noCell)
  else if r.toNat < window wp.alloc then allotCell wp.alloc t.base r.toNat
  else if 120 ≤ r.toNat then 256 + (r.toNat - 120)
  else noCell

/-- The value of a cell. -/
def Thread.cellVal (t : Thread) (k : Nat) : Val := Sparse.get ⟨0, false⟩ t.regs k

/-- A cell written. -/
def Thread.setCell (t : Thread) (k : Nat) (v : Val) : Thread := { t with regs := Sparse.set ⟨0, false⟩ t.regs k v }

/-- Cells written. -/
def Thread.setCells : Thread → Sparse Val → Thread
  | t, [] => t
  | t, (k, v) :: r => (t.setCell k v).setCells r

/-- Cells whose latest writer has no fixed latency: no stall count covers them any more (R72, R144). -/
def Thread.unfix (t : Thread) (cells : List Nat) : Thread := { t with fix := t.fix.filter fun f => !cells.contains f.cell }

/-- The register r + n. -/
def Reg.plus (r : Reg) (n : Nat) : Reg := r + BitVec.ofNat 8 n

/-! ## Join entries -/

/-- The lanes of a warp that are in a run. -/
def Warp.inRun (wp : Warp) : Mask := wp.runs.foldl (fun m e => m ||| e.2.lanes) 0

/-- Lanes that go on together: none of them before the last may (R117, R164). -/
def Warp.level (wp : Warp) (ls : List Nat) : Warp :=
  let t := (ls.map fun l => (wp.thread l).nextAt).foldl max 0
  wp.mapLanes ls fun _ x => { x with nextAt := t }

/-- An entry whose lanes have all arrived and are past the trailer of their runs. -/
def Warp.joined (wp : Warp) (e : Join) : Bool := e.mask == e.arrived && (e.mask &&& wp.inRun) == 0

/-- Pops every entry whose mask has all arrived, and releases its lanes, which go on together (R117); a merge may follow
(R156). -/
def Warp.settleJoins (wp : Warp) : Warp :=
  let done := wp.joins.filter wp.joined
  let wp := { wp with joins := wp.joins.filter fun e => !wp.joined e, mergeDue := wp.mergeDue || !done.isEmpty }
  done.foldl
    (fun wp e => (wp.level e.arrived.lanes).mapLanes e.arrived.lanes fun _ t =>
      { t with waits := t.waits.filter fun x => x != .rejoin e.num }) wp

/-- The lanes of a collective that has delivered go on together once none of them is in its run (R164). -/
def Warp.settleColls (wp : Warp) : Warp :=
  let past := wp.delivered.filter fun x => (x.2 &&& wp.inRun) == 0
  let wp := { wp with delivered := wp.delivered.filter fun x => (x.2 &&& wp.inRun) != 0 }
  past.foldl
    (fun wp x =>
      let ls := x.2.lanes.filter fun l => (wp.thread l).waits.contains (.collective x.1)
      (wp.level ls).mapLanes ls fun _ t => { t with waits := t.waits.filter fun y => y != .collective x.1 }) wp

/-- What lanes at a run boundary have waited for and now have: join entries and collectives. -/
def Warp.settleRuns (wp : Warp) : Warp := wp.settleJoins.settleColls

/-- A run ends: its lanes are at a run boundary. -/
def Warp.dropRun (wp : Warp) (rid : Nat) : Warp := Warp.settleRuns { wp with runs := Sparse.erase wp.runs rid }

/-- Lanes leave the runs of their warp; a run of no lanes ends. -/
def dropMask (rs : Sparse Run) (m : Mask) : Sparse Run :=
  (rs.map fun (k, r) => (k, { r with lanes := r.lanes &&& ~~~m })).filter fun (_, r) => r.lanes != 0

/-- Lanes leave every rejoin mask of their warp (R118). -/
def Warp.leaveJoins (wp : Warp) (m : Mask) : Warp :=
  Warp.settleRuns { wp with
    joins := wp.joins.map fun e => { e with mask := e.mask &&& ~~~m, arrived := e.arrived &&& ~~~m } }

/-! ## Elements whose values are still to come -/

/-- The bound slot of a latch cell. -/
def latchSlot (cell : Nat) : Option Nat := if 512 ≤ cell ∧ cell < 640 then some (cell - 512) else none

/-- An element of a lane's bound slot is still to come, in the store queue or in a queue register (R153, R178, R180). -/
def Store.awaits (l slot : Nat) (x : Store) : Bool := x.lane == l && x.due == some slot

/-- Entries of a queue register still to come that a test picks are dropped. -/
def Queue.forget (f : Nat × Nat × Nat → Bool) (q : Queue) : Queue := { q with due := q.due.filter fun x => !f x }

/-- A lane's elements still to come will not come: it has stopped (R66). Its entries of a queue from there on count as not
pushed. -/
def Warp.dropDues (wp : Warp) (l : Nat) : Warp :=
  let back (n : Nat) (q : Queue) : Option (Nat × Nat) :=
    ((q.due.filter fun x => x.1 == l).map fun x => x.2.2).min?.map fun p => (n, p)
  let back := wp.queues.filterMap fun e => back e.1 e.2
  let wp : Warp := { wp with
    storeQ := wp.storeQ.filter fun x => !(x.lane == l && x.due.isSome)
    queues := wp.queues.map fun e => (e.1, e.2.forget fun x => x.1 == l) }
  wp.modThread l fun t => { t with qptr := back.foldl (fun m x => Sparse.put m x.1 x.2) t.qptr }

/-- A lane's word of a bound slot counts as not issued: its element still to come is taken back, and the lane stands before
it in its stream or queue. -/
def Warp.takeBack (wp : Warp) (l slot : Nat) : Warp :=
  let streams := if wp.storeQ.any (Store.awaits l slot) then (wp.streams.filter fun e => e.2.slot == slot).map (·.1) else []
  let queues := (wp.queues.filter fun e => e.2.due.any fun x => x.1 == l && x.2.1 == slot).map (·.1)
  let step (m : Sparse Nat) (ns : List Nat) : Sparse Nat := ns.foldl (fun m n => Sparse.put m n (Sparse.get 0 m n - 1)) m
  let wp : Warp := { wp with
    storeQ := wp.storeQ.filter fun x => !x.awaits l slot
    queues := wp.queues.map fun e => (e.1, e.2.forget fun x => x.1 == l && x.2.1 == slot) }
  wp.modThread l fun t => { t with spos := step t.spos streams, qptr := step t.qptr queues }

/-- The latches among some cells of a lane are taken back. -/
def Warp.takeBackCells (wp : Warp) (l : Nat) (cells : List Nat) : Warp :=
  (cells.filterMap latchSlot).foldl (fun wp r => wp.takeBack l r) wp

/-- The cell that a parked `spinw` still writes (R129). -/
def Wait.spinCell : Wait → Option Nat
  | .spin _ _ k _ _ => some k
  | _ => none

/-- Lanes take back what they gave to collectives that have not delivered (R296): they have not arrived there. -/
def Warp.withdraw (wp : Warp) (m : Mask) (ns : List Nat) : Warp :=
  let dests := (wp.colls.filter fun x => ns.contains x.num).flatMap fun x => x.dest.filter fun e => m.getLsbD e.1
  let wp := dests.foldl (fun wp e => wp.takeBackCells e.1 e.2) wp
  { wp with
    colls := (wp.colls.map fun x =>
      if ns.contains x.num then
        { x with
          issued := x.issued &&& ~~~m, given := x.given.filter fun e => !m.getLsbD e.1
          dest := x.dest.filter fun e => !m.getLsbD e.1 }
      else x).filter fun x => x.issued != 0
    delivered := wp.delivered.map fun x => if ns.contains x.1 then (x.1, x.2 &&& ~~~m) else x }

/-- The collectives that a run's lanes wait for. -/
def collectivesOf (ws : List Wait) : List Nat := ws.filterMap fun x => match x with | .collective n => some n | _ => none

/-! ## Barriers -/

/-- The index of a thread in its block: field 0 of its work identifier (R262). -/
def Header.threadIndex (h : Header) (wid : Dword) : Nat :=
  match h.fields with
  | [] => wid.toNat
  | (w, _) :: _ => wid.toNat % 2 ^ w

/-- The indexes of a block's live threads. -/
def Chip.liveThreads (c : Chip) (b : Nat) : List Nat :=
  let h := (c.launch (c.block b).launch).header
  (c.block b).warps.flatMap fun w =>
    (c.warp w).liveLanes.map fun l => h.threadIndex ((c.warp w).thread l).wid

/-- An open generation is complete (R237). -/
def Barrier.full (x : Barrier) (live : List Nat) : Bool :=
  match x.opener with
  | none => false
  | some .all => live.all x.arrived.contains
  | some (.counted n) =>
    n ≤ x.arrived.length + (x.participants.filter fun p => !live.contains p && !x.arrived.contains p).length

/-- The next generation of a barrier. -/
def Barrier.next (x : Barrier) : Barrier := { x with gen := x.gen + 1, opener := none, arrived := [] }

/-- The threads of a block with a wait that a test picks become eligible now, for their age (R151). -/
def Chip.ageWaiters (c : Chip) (b : Nat) (f : Wait → Bool) : Chip :=
  (c.block b).warps.foldl (fun d w => d.modWarp w fun wp => { wp with
    threads := wp.threads.map fun e => (e.1, if e.2.waits.any f then { e.2 with since := c.cycle } else e.2) }) c

/-- Completes one barrier of a block if its generation is full. -/
def Chip.checkBarrier (c : Chip) (b id : Nat) : Chip :=
  let x := Sparse.get Barrier.fresh (c.block b).bars id
  if x.full (c.liveThreads b) then
    (c.modBlock b fun k => { k with bars := Sparse.put k.bars id x.next }).ageWaiters b fun y =>
      y == .barrier id x.gen
  else c

/-- Completes every barrier of a block that is full. -/
def Chip.checkBarriers (c : Chip) (b : Nat) : Chip := (List.range 16).foldl (fun c id => c.checkBarrier b id) c

/-! ## Stops -/

/-- What a lane's stop reports (R301, R307). -/
structure Stop where
  cause : Nat
  detail : Nat
  addr : Word
  poison : Bool
  deriving DecidableEq, Repr

/-- A stop with nothing but its cause. -/
def Stop.of (cause : Nat) : Stop := ⟨cause, 0, 0, false⟩

/-- The status a cause leaves (R66). -/
def statusOf (cause : Nat) : ThreadStatus :=
  if cause = 0 then .exited else if cause ≤ 4 then .off cause else .killed cause

/-- The info0 field of a lane fault's record (R301). -/
def Stop.info (x : Stop) : Dword :=
  let a : Dword := if x.cause = 3 then 0 else x.addr.setWidth 64
  let d : Dword :=
    if x.cause = 1 ∨ x.cause = 2 then BitVec.ofNat 64 x.detail <<< 32
    else if x.cause = 3 then BitVec.ofNat 64 x.detail <<< 40 else 0
  a ||| d ||| (if x.poison then 1#64 <<< 48 else 0)

/-- The native PC and the word a record of a run's present word names: those of the claimed word while the Mould works
(R321, R323, R324). -/
def Run.npc (r : Run) : Word :=
  match r.emul, r.substFor with
  | some e, _ => e.npc
  | none, some (p, _) => p
  | none, none => r.pc
def Run.raw (r : Run) : Word :=
  match r.emul, r.substFor with
  | some e, _ => e.word
  | none, some (_, x) => x
  | none, none => r.words.headD 0

/-- A trap record for lanes of a warp (R299), not yet posted. -/
def Chip.record (c : Chip) (w : Nat) (lanes : List Nat) (npc word : Word) (event reason : Nat) (i0 i1 i2 : Dword) :
    TrapRec :=
  let wp := c.warp w
  { num := c.next, event := event, reason := reason, context := wp.context
    launch := (c.launch wp.launch).ident, warp := w, die := dieOf wp.core, core := wp.core, wslot := wp.slot
    npc := npc, word := word, rentry := (wp.thread (lanes.headD 0)).rentry, entries := wp.entries
    lmask := maskOf lanes, wids := lanes.map fun l => (wp.thread l).wid
    info0 := i0, info1 := i1, info2 := i2, job := none, seq := none }

/-- Queues a record with the Ferryman (R302). -/
def Chip.post (c : Chip) (r : TrapRec) : Chip := { c with recs := c.recs ++ [r], next := c.next + 1 }

/-- A thread stops (R66, R67): it leaves its run (but for `exit`, whose trailer is still checked, R41), every rejoin mask and barrier count, its pending results are
discarded, and the stop is counted and recorded. A thread that has stopped is left as it is. -/
def Chip.stopThread (c : Chip) (w l : Nat) (npc word : Word) (x : Stop) : Chip :=
  let wp := c.warp w
  let t := wp.thread l
  if !t.live then c
  else
    let off := 1 ≤ x.cause ∧ x.cause ≤ 4
    let r := c.record w [l] npc word 8 x.cause x.info 0 0
    let c := c.modWarp w fun wp =>
      let wp := (wp.dropDues l).modThread l fun t => { t with status := statusOf x.cause, waits := [], pend := [], fix := [] }
      let wp := { wp with
        fmask := if off then wp.fmask ||| bit l else wp.fmask
        runs := if x.cause = 0 then wp.runs else dropMask wp.runs (bit l) }
      wp.leaveJoins (bit l)
    let c := c.modBlock wp.block fun b => { b with
      exited := if x.cause = 0 then b.exited + 1 else b.exited
      soff := if off then b.soff + 1 else b.soff
      killed := if 5 ≤ x.cause then b.killed + 1 else b.killed
      stops := if x.cause = 0 then b.stops else b.stops ++ [⟨t.wid, x.cause, x.detail, npc⟩] }
    let c := if x.cause = 0 then c else c.modLaunch wp.launch fun n => { n with stopped := n.stopped + 1 }
    let c := if off then c.post r else c
    c.checkBarriers wp.block

/-- A violation of an access as a stop of cause 2 (R254). -/
def violation (f : Nat × Word) : Stop := ⟨2, f.1, f.2, false⟩

/-- Several lanes stop for one reason. -/
def Chip.stopLanes (c : Chip) (w : Nat) (ls : List Nat) (npc word : Word) (x : Stop) : Chip :=
  ls.foldl (fun c l => c.stopThread w l npc word x) c

/-- An illegal instruction kills every thread of the warp (R46), with one record of event 7, which gives the region entry
of the group that issued the word (R299). -/
def Chip.killWarp (c : Chip) (w : Nat) (npc word : Word) (rentry : Word) (reason : Reason) : Chip :=
  let wp := c.warp w
  let ls := wp.liveLanes
  let c := c.post { c.record w ls npc word 7 reason.code 0 0 0 with rentry := rentry }
  let c := c.stopLanes w ls npc word ⟨10, reason.code, 0, false⟩
  let c := c.modWarp w fun wp => { wp with runs := [], colls := [], delivered := [] }
  c.modContext wp.context fun x => { x with stickyIe := true }

/-! ## Taking an event -/

/-- Temporaries are dead and the lanes of a run that ends early go back to their threads (R42, R297). -/
def clearTemps (t : Thread) : Thread := { t with regs := t.regs.filter fun e => e.1 < 256 ∨ 1024 ≤ e.1 }

/-- Parks lanes on an event (R295, R296): one record names them, and each waits for a reply that resumes it at the
given address, and for what else the words before it hold its next run for. A lane that resumes where it stands still
stands at its safe point (R369). -/
def Chip.park (c : Chip) (w : Nat) (ls : List Nat) (npc word : Word) (event reason : Nat) (i0 i1 i2 : Dword)
    (held : Nat → List Wait) (resume : Nat → Word) : Chip :=
  let r := c.record w ls npc word event reason i0 i1 i2
  let c := c.post r
  c.modWarp w fun wp => wp.mapLanes ls fun l t =>
    clearTemps { t with waits := .trap r.num (resume l) :: held l, fix := [], safe := t.safe && resume l == t.pc }

/-- A lane's exemption from a comparator at an address is used up (R384). -/
def Thread.passHalt (t : Thread) (npc : Word) : Thread :=
  { t with exempt := if t.exempt.any (fun e => e.1 == npc) then none else t.exempt }

/-- Where a lane resumes that is stopped within its run: its region entry (R297), or the present instruction of Tolune
code (R52). -/
def Thread.restart (t : Thread) (run : Run) : Word := if t.tolune then run.npc else t.rentry

/-- Takes a precise event in the middle of a run (R296): the group parks, its run ends, and it resumes at its region
entry (R297), in Tolune code at the instruction (R52). It has arrived at no collective of the run, and a region entry
whose first word has not issued is still to be counted (R41). -/
def Chip.raise (c : Chip) (w rid : Nat) (event reason : Nat) (i0 i1 i2 : Dword) : Chip :=
  let wp := c.warp w
  let run := wp.run rid
  let ls := wp.active run
  let c := c.park w ls run.npc run.raw event reason i0 i1 i2 (fun _ => []) fun l => (wp.thread l).restart run
  c.modWarp w fun wp =>
    let wp := wp.mapLanes ls fun _ t => { t with recDue := run.entering }
    (wp.withdraw run.lanes (collectivesOf run.waits)).dropRun rid

/-- A wait that a reply to a record ends (R304): the one for the reply, and with a new PC every obligation at a join (R118). -/
def Wait.answered (num : Nat) (redirected : Bool) : Wait → Bool
  | .trap n _ => n == num
  | .rejoin _ => redirected
  | _ => false

/-- A wait for another record's reply, of a lane whose PC a reply has set. -/
def Wait.moved (pc : Word) : Wait → Wait
  | .trap n _ => .trap n pc
  | x => x

/-- Resumes lanes parked on a record: the return from an event (R304). The PC is set; what else the lane's next run waits
for stays. -/
def Chip.resume (c : Chip) (w num : Nat) (ls : List Nat) (pc : Nat → Word) (stray : Bool) : Chip :=
  c.modWarp w fun wp => wp.mapLanes ls fun l t =>
    { t with
      waits := (t.waits.filter fun x => !x.answered num stray).map (Wait.moved (pc l))
      pc := pc l, stray := stray || t.stray, exempt := if stray then none else t.exempt, safe := t.safe && !stray, since := c.cycle, nextAt := max c.cycle t.nextAt }

end Sys2Proof.Machine
end

