-- ==== Sys2Proof/Machine/Access.lean ====
section
/-!
DEFINITION. The local address map (R225, R247), the checks of an access (R249, R250, R254), and reading and writing
the bytes of a place, with shadow lines (R251), written bits (R250), poison marks (R65) and the warp's store queue
(R285).
-/

namespace Sys2Proof.Machine

/-- What an access needs of its window (R249). -/
inductive Need where
  | load | store | atomic | tundish | fetch | guest
  /-- A job's read, its write, or a reduce-add's destination (R241). -/
  | jobRead | jobWrite | jobBoth
  deriving DecidableEq, Repr

/-- The window number of a local address (R247). -/
def windowOf (a : Word) : Nat := a.toNat / 2 ^ 28
/-- The offset in its window. -/
def offsetOf (a : Word) : Nat := a.toNat % 2 ^ 28

/-- The base of block shared memory, and of the staging registers (R225). -/
def sharedStart : Nat := 0xF0000000
def stagingStart : Nat := 0xFF000000
/-- The address of GO (R238). -/
def goAddr : Nat := 0xFF000020

/-- The address names a staging register or GO. -/
def isStaging (a : Word) : Bool := stagingStart ≤ a.toNat && a.toNat < stagingStart + 0x28

/-- A store touches a staging register or GO. -/
def touchesStaging (x : Word) (n : Nat) : Bool := (List.range n).any fun i => isStaging (x + BitVec.ofNat 32 i)

/-- The permission a window grants (R249). -/
def Window.grants (v : Window) : Need → Bool
  | .load | .jobRead => v.pr
  | .store | .jobWrite => v.pw
  | .jobBoth => v.pr && v.pw
  | .atomic | .tundish => v.pa
  | .fetch => v.px
  | .guest => v.pg

/-- The permission of block shared memory (R249). -/
def sharedGrants : Need → Bool
  | .load | .store | .atomic | .jobRead | .jobWrite | .jobBoth => true
  | .tundish | .fetch | .guest => false

/-- The access reads, as the initialisation tracking counts it (R250). -/
def Need.reads : Need → Bool
  | .load | .atomic | .tundish | .fetch | .guest | .jobRead | .jobBoth => true
  | .store | .jobWrite => false

/-- The request mask of a warp's launch names the window, and the window is open or closing (R252). -/
def Chip.windowUsable (c : Chip) (ctx launch n : Nat) : Bool :=
  (c.launch launch).header.wmask.getLsbD n &&
    (((c.context ctx).window n).state == .opened || ((c.context ctx).window n).state == .closing)

/-- The first check of R254 that one byte fails, as its order in the table and its violation code; 0 for a byte that
passes. Misalignment is the access's own check. A job's access to the staging registers fails the permission check (log
entry 107), and a line that only a store still in the queue covers counts as unwritten (log entry 122). -/
def Chip.byteFault (c : Chip) (ctx launch blk : Nat) (need : Need) (tracked : Bool) (a : Word) : Nat × Nat :=
  let n := windowOf a
  if n = 14 then (1, 5)
  else if n = 15 then
    if a.toNat < sharedStart + (c.block blk).sharedSize then (if sharedGrants need then (0, 0) else (4, 4))
    else if isStaging a then (if need = .store then (0, 0) else (4, 4))
    else (1, 5)
  else
    let v := (c.context ctx).window n
    if !c.windowUsable ctx launch n then (2, 2)
    else if v.size ≤ offsetOf a then (3, 0)
    else if !v.grants need then (4, 4)
    else if tracked && v.track && !v.written.contains (offsetOf a / 64) then (6, 1)
    else (0, 0)

/-- The first failing check of an access of n bytes and the first byte that fails it (R254). -/
def Chip.fault (c : Chip) (ctx launch blk : Nat) (need : Need) (tracked aligned : Bool) (a : Word) (n : Nat) :
    Option (Nat × Word) :=
  let fs := (List.range n).map fun i =>
    let x := a + BitVec.ofNat 32 i
    (c.byteFault ctx launch blk need tracked x, x)
  let first (k : Nat) : Option (Nat × Word) := (fs.find? fun f => f.1.1 == k).map fun f => (f.1.2, f.2)
  (first 1).or ((first 2).or ((first 3).or ((first 4).or (if aligned then first 6 else some (3, a)))))

/-- The checks of a lane's access (R254). -/
def Chip.check (c : Chip) (w : Nat) (need : Need) (tracked aligned : Bool) (a : Word) (n : Nat) : Option (Nat × Word) :=
  let wp := c.warp w
  c.fault wp.context wp.launch wp.block need tracked aligned a n

/-- Where a byte lives. -/
inductive Place where
  | shared (off : Nat)
  /-- The package scratchpad, through a shadow line of the launch or not (R251). -/
  | scratch (addr : Nat) (shadow : Bool)
  | none
  deriving DecidableEq, Repr

/-- The place of a local byte that passed its checks. -/
def Chip.place (c : Chip) (ctx launch : Nat) (a : Word) : Place :=
  let n := windowOf a
  if n = 15 then .shared (a.toNat - sharedStart)
  else if n = 14 then .none
  else
    let v := (c.context ctx).window n
    let n := c.launch launch
    .scratch (v.base + offsetOf a)
      (v.shadow && (n.replayable || (Sparse.find n.shadowLines ((v.base + offsetOf a) / 64)).isSome))

/-- The contents a launch sees of a scratchpad byte: its shadow line when it has one (R251). -/
def Chip.scratchSeen (c : Chip) (launch addr : Nat) (shadow : Bool) : Byte × Bool :=
  match (if shadow then Sparse.find (c.launch launch).shadowLines (addr / 64) else none) with
  | some r => (r.bytes.read addr, r.poisoned addr)
  | none => (c.scratch.bytes.read addr, c.scratch.poisoned addr)

/-- A byte of a place and its poison mark. -/
def Chip.seen (c : Chip) (launch blk : Nat) : Place → Byte × Bool
  | .shared off => ((c.block blk).shared.bytes.read off, (c.block blk).shared.poisoned off)
  | .scratch a s => c.scratchSeen launch a s
  | .none => (unwritten, false)

/-- A byte as memory holds it for a context, launch and block. -/
def Chip.readByte (c : Chip) (ctx launch blk : Nat) (a : Word) : Byte × Bool := c.seen launch blk (c.place ctx launch a)

/-- The store writes memory when it is performed. -/
def StoreKind.writes : StoreKind → Bool
  | .plain | .element => true
  | .staging | .go => false

/-- The latest store of the warp's own queue that covers a byte (R285). -/
def forwarded (q : List Store) (a : Word) : Option Byte :=
  q.foldl
    (fun r x =>
      let i := (a - x.addr).toNat
      if x.kind.writes ∧ i < x.bytes.length then some (x.bytes.getD i 0) else r) none

/-- The poison mark of a byte's 8-byte word once the queued stores are performed (R65). -/
def markAfter (q : List Store) (a : Word) (m : Bool) : Bool :=
  q.foldl
    (fun m x =>
      let k := a.toNat / 8
      if x.kind.writes then
        if x.poison then m || (touched x.addr.toNat x.bytes.length).contains k
        else m && !(covered x.addr.toNat x.bytes.length).contains k
      else m) m

/-- A store of the queue whose value is still to come. -/
def Warp.owesStore (wp : Warp) : Bool := wp.storeQ.any fun x => x.due.isSome

/-- A queued element whose value is still to come lies in the 8-byte words of a range (R285). -/
def Warp.owesIn (wp : Warp) (a : Word) (n : Nat) : Bool :=
  wp.storeQ.any fun x => x.due.isSome && (touched x.addr.toNat x.bytes.length).any (touched a.toNat n).contains

/-- A byte as a warp's load sees it: its own queued stores first (R285). -/
def Chip.loadByte (c : Chip) (w : Nat) (a : Word) : Byte × Bool :=
  let wp := c.warp w
  let (b, p) := c.readByte wp.context wp.launch wp.block a
  ((forwarded wp.storeQ a).getD b, markAfter wp.storeQ a p)

/-- Bytes as a warp's load sees them, with whether any is poisoned. -/
def Chip.loadBytes (c : Chip) (w : Nat) (a : Word) (n : Nat) : List Byte × Bool :=
  let bs := (List.range n).map fun i => c.loadByte w (a + BitVec.ofNat 32 i)
  (bs.map (·.1), bs.any (·.2))

/-- A shadow line of a launch, created from the original when it has none (R251). -/
def Chip.withShadowLine (c : Chip) (launch line : Nat) : Chip :=
  match Sparse.find (c.launch launch).shadowLines line with
  | some _ => c
  | none =>
    let bs := c.scratch.bytes.filter fun e => e.1 / 64 = line
    let ms := c.scratch.marks.filter fun k => k / 8 = line
    c.modLaunch launch fun n => { n with shadowLines := Sparse.put n.shadowLines line ⟨bs, ms⟩ }

/-- A run of bytes written to one place: within one 64-byte line of scratchpad, or in shared memory. -/
def Chip.storePlace (c : Chip) (launch blk : Nat) (p : Place) (bs : List Byte) (poison : Bool) : Chip :=
  match p with
  | .shared off => c.modBlock blk fun b => { b with shared := b.shared.store off bs poison }
  | .scratch a true =>
    let c := c.withShadowLine launch (a / 64)
    c.modLaunch launch fun n =>
      { n with shadowLines := Sparse.modify n.shadowLines (a / 64) fun r => r.store a bs poison }
  | .scratch a false => { c with scratch := c.scratch.store a bs poison }
  | .none => c

/-- Sets the written bit of a line of a tracked window (R250), and notes a first write that ends replay (R251). -/
def Chip.noteWrite (c : Chip) (ctx launch blk : Nat) (a : Word) : Chip :=
  let n := windowOf a
  if n < 14 then
    let v := (c.context ctx).window n
    let c := if v.track then
        c.modContext ctx fun x => x.modWindow n fun v => { v with written := insertNum (offsetOf a / 64) v.written }
      else c
    if (c.launch launch).replayable && !v.shadow && !v.priv then
      (c.modLaunch launch fun n => { n with replayable := false }).modBlock blk fun b => { b with nonReplayable := true }
    else c
  else c

/-- The pieces of a range that lie within one 64-byte line each: address and bytes. -/
def linePieces : Nat → Word → List Byte → List (Word × List Byte)
  | 0, _, _ => []
  | _ + 1, _, [] => []
  | k + 1, a, bs =>
    let n := 64 - a.toNat % 64
    (a, bs.take n) :: linePieces k (a + BitVec.ofNat 32 n) (bs.drop n)

/-- Bytes written to local memory for a context, launch and block. -/
def Chip.writeLocal (c : Chip) (ctx launch blk : Nat) (a : Word) (bs : List Byte) (poison : Bool) : Chip :=
  (linePieces (bs.length / 64 + 2) a bs).foldl
    (fun c (x : Word × List Byte) =>
      let c := c.noteWrite ctx launch blk x.1
      c.storePlace launch blk (c.place ctx launch x.1) x.2 poison) c

/-- The aligned 8-byte words of the context's watched regions that a range touches (R381; log entry 13). -/
def Chip.watched (c : Chip) (ctx : Nat) (a : Word) (n : Nat) : List Word :=
  let ws := (List.range ((a.toNat % 8 + n + 7) / 8)).map fun i => (a &&& ~~~(7#32)) + BitVec.ofNat 32 (8 * i)
  ws.filter fun x => c.watches.any fun (_, r) =>
    r.context == ctx && decide (r.base.toNat ≤ x.toNat ∧ x.toNat + 8 ≤ r.base.toNat + r.length)

/-- A trace record of 64 bytes (R380). -/
def Chip.traceRecord (c : Chip) (ctx info type launch : Nat) (wid : Dword) (npc gpc : Word) (a0 a1 a2 : Dword) : List Byte :=
  bytesOfNum 1 type ++ bytesOfNum 1 info ++ bytesOfNum 2 ctx ++ bytesOfNum 4 launch ++ bytesOfNum 8 wid.toNat ++
    bytesOfNum 8 c.ns ++ bytesOfNum 4 npc.toNat ++ bytesOfNum 4 gpc.toNat ++ bytesOfNum 8 a0.toNat ++
    bytesOfNum 8 a1.toNat ++ bytesOfNum 8 a2.toNat ++ bytesOfNum 8 0

/-- The value of an aligned 8-byte word as memory holds it. -/
def Chip.dwordAt (c : Chip) (ctx launch blk : Nat) (a : Word) : Dword :=
  BitVec.ofNat 64 (numOfBytes ((List.range 8).map fun i => (c.readByte ctx launch blk (a + BitVec.ofNat 32 i)).1))

/-- The records of an access of a thread to watched words, with each word's value before and after it (R381). The byte
mask names the bytes written; an access that only reads names none. -/
def Chip.watchRecords (c c' : Chip) (w : Nat) (wid : Dword) (npc gpc : Word) (a : Word) (n : Nat) (writes : Bool) :
    List (Nat × List Byte) :=
  let wp := c.warp w
  if (c.context wp.context).trace.getLsbD 1 then
    (c.watched wp.context a n).map fun x =>
      let mask := (List.range 8).foldl (fun m i => if (x + BitVec.ofNat 32 i - a).toNat < n then m + 2 ^ i else m) 0
      (wp.context, c.traceRecord wp.context (if writes then mask else 0) 2 (c.launch wp.launch).ident.toNat wid npc gpc
        (c.dwordAt wp.context wp.launch wp.block x) (c'.dwordAt wp.context wp.launch wp.block x) (x.setWidth 64))
  else []

/-- A write of a thread, named with its guest PC at the word, is performed: the bytes land, and each watched word it
touches gives a record (R381). -/
def Chip.performAs (c : Chip) (w : Nat) (wid : Dword) (npc gpc : Word) (a : Word) (bs : List Byte) (poison : Bool) : Chip :=
  let wp := c.warp w
  let c' := c.writeLocal wp.context wp.launch wp.block a bs poison
  { c' with traceOut := c'.traceOut ++ c.watchRecords c' w wid npc gpc a bs.length true }

/-- A write that a lane performs as it issues its word. -/
def Chip.performWrite (c : Chip) (w l : Nat) (npc : Word) (a : Word) (bs : List Byte) (poison : Bool) : Chip :=
  c.performAs w ((c.warp w).thread l).wid npc ((c.warp w).thread l).gpc a bs poison

/-- A lane reads a range whose words are watched for every access: an FX cell (R381). -/
def Chip.watchRead (c : Chip) (w l : Nat) (npc : Word) (a : Word) (n : Nat) : Chip :=
  { c with traceOut := c.traceOut ++
      c.watchRecords c w ((c.warp w).thread l).wid npc ((c.warp w).thread l).gpc a n false }

end Sys2Proof.Machine
end

