-- ==== Sys2Proof/Machine/Operands.lean ====
section
/-!
DEFINITION. The operand forms: which registers a word reads and writes (pairs and quads included, R25), its latency
class (R72, R97, R139, R183), the words that end a run (R37), take an EXT (R34), draw (R98, R161), exchange values
between lanes (R164) or enter the matrix queue (R187).
-/

namespace Sys2Proof

/-- n registers from r up. -/
def regs (r : Reg) (n : Nat) : List Reg := (List.range n).map fun i => r + BitVec.ofNat 8 i

/-- The registers a word names as sources. -/
def Instr.reads : Instr → List Reg
  | .nop _ => []
  | .runt _ _ _ _ => []
  | .ext _ => []
  | .bra _ _ => []
  | .bnz d _ _ => regs d 1
  | .bz d _ _ => regs d 1
  | .bltz d _ _ => regs d 1
  | .bgez d _ _ => regs d 1
  | .jpt _ _ => []
  | .rejoin _ => []
  | .call _ _ _ => []
  | .callr _ a _ => regs a 1
  | .ret _ => regs 0 2
  | .jmpr a _ => regs a 1
  | .land _ => []
  | .exit _ => []
  | .svc _ _ => []
  | .trap _ _ => []
  | .brk _ _ => []
  | .spinw _ a b _ => regs a 1 ++ regs b 1
  | .wbase _ _ _ => []
  | .rget _ a _ => regs a 1
  | .rput d a _ => regs a 1 ++ regs d 1
  | .add _ a b _ => regs a 1 ++ regs b 1
  | .sub _ a b _ => regs a 1 ++ regs b 1
  | .mul _ a b _ => regs a 1 ++ regs b 1
  | .mulhs _ a b _ => regs a 1 ++ regs b 1
  | .mulhu _ a b _ => regs a 1 ++ regs b 1
  | .mad d a b _ => regs d 1 ++ regs a 1 ++ regs b 1
  | .divs _ a b _ => regs a 1 ++ regs b 1
  | .divu _ a b _ => regs a 1 ++ regs b 1
  | .rems _ a b _ => regs a 1 ++ regs b 1
  | .remu _ a b _ => regs a 1 ++ regs b 1
  | .and _ a b _ => regs a 1 ++ regs b 1
  | .or _ a b _ => regs a 1 ++ regs b 1
  | .xor _ a b _ => regs a 1 ++ regs b 1
  | .andn _ a b _ => regs a 1 ++ regs b 1
  | .shl _ a b _ => regs a 1 ++ regs b 1
  | .shr _ a b _ => regs a 1 ++ regs b 1
  | .sar _ a b _ => regs a 1 ++ regs b 1
  | .rol _ a b _ => regs a 1 ++ regs b 1
  | .mins _ a b _ => regs a 1 ++ regs b 1
  | .minu _ a b _ => regs a 1 ++ regs b 1
  | .maxs _ a b _ => regs a 1 ++ regs b 1
  | .maxu _ a b _ => regs a 1 ++ regs b 1
  | .seq _ a b _ => regs a 1 ++ regs b 1
  | .sne _ a b _ => regs a 1 ++ regs b 1
  | .slt _ a b _ => regs a 1 ++ regs b 1
  | .sltu _ a b _ => regs a 1 ++ regs b 1
  | .sle _ a b _ => regs a 1 ++ regs b 1
  | .sleu _ a b _ => regs a 1 ++ regs b 1
  | .csel d a b _ => regs d 1 ++ regs a 1 ++ regs b 1
  | .mov _ a _ => regs a 1
  | .clz _ a _ => regs a 1
  | .ctz _ a _ => regs a 1
  | .popc _ a _ => regs a 1
  | .brev _ a _ => regs a 1
  | .abs _ a _ => regs a 1
  | .bfxu _ a b _ => regs a 1 ++ regs b 1
  | .bfxs _ a b _ => regs a 1 ++ regs b 1
  | .bfi d a b _ => regs d 1 ++ regs a 1 ++ regs b 1
  | .addi _ a _ _ => regs a 1
  | .andi _ a _ _ => regs a 1
  | .ori _ a _ _ => regs a 1
  | .xori _ a _ _ => regs a 1
  | .shli _ a _ _ => regs a 1
  | .shri _ a _ _ => regs a 1
  | .sari _ a _ _ => regs a 1
  | .movi _ _ _ => []
  | .slti _ a _ _ => regs a 1
  | .seqi _ a _ _ => regs a 1
  | .lea1 _ a b _ => regs a 1 ++ regs b 1
  | .lea2 _ a b _ => regs a 1 ++ regs b 1
  | .lea4 _ a b _ => regs a 1 ++ regs b 1
  | .lea8 _ a b _ => regs a 1 ++ regs b 1
  | .add64 _ a b _ => regs a 2 ++ regs b 2
  | .sub64 _ a b _ => regs a 2 ++ regs b 2
  | .mulw _ a b _ => regs a 1 ++ regs b 1
  | .sltu64 _ a b _ => regs a 2 ++ regs b 2
  | .fadd _ a b _ => regs a 1 ++ regs b 1
  | .fsub _ a b _ => regs a 1 ++ regs b 1
  | .fmul _ a b _ => regs a 1 ++ regs b 1
  | .ffma d a b _ => regs d 1 ++ regs a 1 ++ regs b 1
  | .ffms d a b _ => regs d 1 ++ regs a 1 ++ regs b 1
  | .fmin _ a b _ => regs a 1 ++ regs b 1
  | .fmax _ a b _ => regs a 1 ++ regs b 1
  | .fcps _ a b _ => regs a 1 ++ regs b 1
  | .feq _ a b _ => regs a 1 ++ regs b 1
  | .flt _ a b _ => regs a 1 ++ regs b 1
  | .fle _ a b _ => regs a 1 ++ regs b 1
  | .funo _ a b _ => regs a 1 ++ regs b 1
  | .frcp _ a _ => regs a 1
  | .frsq _ a _ => regs a 1
  | .fsqrt _ a _ => regs a 1
  | .fdiv _ a b _ => regs a 1 ++ regs b 1
  | .fexp2 _ a _ => regs a 1
  | .flog2 _ a _ => regs a 1
  | .fsin _ a _ => regs a 1
  | .fcos _ a _ => regs a 1
  | .dadd _ a b _ => regs a 2 ++ regs b 2
  | .dsub _ a b _ => regs a 2 ++ regs b 2
  | .dmul _ a b _ => regs a 2 ++ regs b 2
  | .dfma d a b _ => regs d 2 ++ regs a 2 ++ regs b 2
  | .dmin _ a b _ => regs a 2 ++ regs b 2
  | .dmax _ a b _ => regs a 2 ++ regs b 2
  | .deq _ a b _ => regs a 2 ++ regs b 2
  | .dlt _ a b _ => regs a 2 ++ regs b 2
  | .dle _ a b _ => regs a 2 ++ regs b 2
  | .ddiv _ a b _ => regs a 2 ++ regs b 2
  | .dsqrt _ a _ => regs a 2
  | .drcp _ a _ => regs a 2
  | .hadd2 _ a b _ => regs a 1 ++ regs b 1
  | .hmul2 _ a b _ => regs a 1 ++ regs b 1
  | .hfma2 d a b _ => regs d 1 ++ regs a 1 ++ regs b 1
  | .badd2 _ a b _ => regs a 1 ++ regs b 1
  | .bmul2 _ a b _ => regs a 1 ++ regs b 1
  | .bfma2 d a b _ => regs d 1 ++ regs a 1 ++ regs b 1
  | .cvt _ a c _ => regs a (if Field.cvtPairA c then 2 else 1)
  | .cvtz _ a c _ => regs a (if Field.cvtPairA c then 2 else 1)
  | .fclass _ a _ => regs a 1
  | .fldx _ a b _ => regs a 1 ++ regs b 1
  | .frnd _ a _ _ => regs a 1
  | .drnd _ a _ _ => regs a 2
  | .fdot2 d a b _ => regs d 1 ++ regs a 1 ++ regs b 1
  | .hdot2 d a b _ => regs d 1 ++ regs a 1 ++ regs b 1
  | .packb _ a b _ => regs a 1 ++ regs b 1
  | .packh _ a b _ => regs a 1 ++ regs b 1
  | .ldb _ a _ _ => regs a 1
  | .ldbs _ a _ _ => regs a 1
  | .ldh _ a _ _ => regs a 1
  | .ldhs _ a _ _ => regs a 1
  | .ldw _ a _ _ => regs a 1
  | .ldd _ a _ _ => regs a 1
  | .ldq _ a _ _ => regs a 1
  | .stb d a _ _ => regs a 1 ++ regs d 1
  | .sth d a _ _ => regs a 1 ++ regs d 1
  | .stw d a _ _ => regs a 1 ++ regs d 1
  | .std d a _ _ => regs a 1 ++ regs d 2
  | .stq d a _ _ => regs a 1 ++ regs d 4
  | .ldo _ a _ _ _ _ => regs a 1
  | .sto d a _ _ z _ => regs a 1 ++ regs d (if z == 0 then 1 else 2)
  | .aadd d a _ _ z _ => regs a 1 ++ regs d (if z == 0 then 1 else 2)
  | .aand d a _ _ z _ => regs a 1 ++ regs d (if z == 0 then 1 else 2)
  | .aor d a _ _ z _ => regs a 1 ++ regs d (if z == 0 then 1 else 2)
  | .axor d a _ _ z _ => regs a 1 ++ regs d (if z == 0 then 1 else 2)
  | .amins d a _ _ z _ => regs a 1 ++ regs d (if z == 0 then 1 else 2)
  | .aminu d a _ _ z _ => regs a 1 ++ regs d (if z == 0 then 1 else 2)
  | .amaxs d a _ _ z _ => regs a 1 ++ regs d (if z == 0 then 1 else 2)
  | .amaxu d a _ _ z _ => regs a 1 ++ regs d (if z == 0 then 1 else 2)
  | .axch d a _ _ z _ => regs a 1 ++ regs d (if z == 0 then 1 else 2)
  | .acas d a _ _ z _ => regs a 1 ++ regs d (if z == 0 then 2 else 4)
  | .afxa d a _ _ z _ => regs a 1 ++ regs d (if z == 0 then 1 else 2)
  | .afxr _ a _ _ _ _ => regs a 1
  | .afxz d a _ _ _ => regs a 1 ++ regs d 1
  | .fence _ _ _ => []
  | .tgrab _ a _ => regs a 1
  | .tinit a b _ => regs a 1 ++ regs b 4
  | .vote _ a _ _ => regs a 1
  | .shfi _ a b _ => regs a 1 ++ regs b 1
  | .shfu _ a _ _ => regs a 1
  | .shfd _ a _ _ => regs a 1
  | .shfx _ a _ _ => regs a 1
  | .redf _ a _ _ => regs a 1
  | .redi _ a _ _ => regs a 1
  | .scni _ a _ _ _ => regs a 1
  | .matchw _ a _ => regs a 1
  | .elect _ _ => []
  | .qswz _ a b _ => regs a 1 ++ regs b 1
  | .sbind _ a b _ => (if b == 127 then [] else regs a 4)
  | .spos _ a t _ _ => (if t == 1 then regs a 1 else [])
  | .qbind _ _ _ => []
  | .wspl _ _ => []
  | .wfil _ _ => []
  | .dsp _ _ => []
  | .gldb _ _ _ => []
  | .gldbs _ _ _ => []
  | .gldh _ _ _ => []
  | .gldhs _ _ _ => []
  | .gldw _ _ _ => []
  | .gadv _ _ => []
  | .gjmp a _ => regs a 1
  | .gjrel a _ => regs a 1
  | .gtrap _ _ => []
  | .bld _ a b _ => regs a 1 ++ regs b 1
  | .cbl _ a _ => regs a 1
  | .mma _ _ b _ => regs b 1
  | .mmab _ _ b _ => regs b 1
  | .mmas _ _ b _ => regs b 1
  | .drn _ _ _ _ _ => []
  | .acz _ _ _ => []
  | .acl _ a w _ _ => regs a (if w == 1 then 16 else 8)
  | .rqt d a b _ => regs d 1 ++ regs a 1 ++ regs b 1
  | .mstat _ _ _ => []
  | .dwait _ a _ => regs a 1
  | .dpoll _ _ _ => []
  | .drst _ _ => []
  | .rwait _ _ _ => []
  | .rrel _ _ => []
  | .rclm _ _ _ => []
  | .rcmt _ a _ => regs a 1
  | .bar _ _ => []
  | .bara a _ _ => regs a 1
  | .barw a _ _ => regs a 1
  | .srd _ _ _ => []
  | .swr a _ _ => regs a 1
  | .pcrd _ a _ => regs a 1
  | .tmrk _ _ => []
  | .time _ _ => []
  | .toluneInstruction _ _ => []
  | .portRunChoice _ _ => []
  | .strayIssue _ _ => []
  | .strayPromotion _ _ => []
  | .gangAgingPromotion _ _ => []
  | .regroupHoldExpiry _ _ => []
  | .loopBufferRefill _ _ => []
  | .loadResultDeliver _ _ _ => []
  | .storePerformed _ => []
  | .atomicResultDeliver _ _ _ => []
  | .divideResultDeliver _ _ _ => []
  | .fdivResultDeliver _ _ _ => []
  | .guestLoadDeliver _ _ _ => []
  | .rputWriteDeliver _ _ _ => []
  | .dspReadsComplete _ _ => []
  | .spinwReread _ _ => []
  | .dpollResultDeliver _ _ _ => []
  | .tgrabResultDeliver _ _ _ => []
  | .ringSlotDeliver _ _ _ => []
  | .streamElementArrive _ _ _ => []
  | .matrixProductStart _ => []
  | .narrowProductComplete _ => []
  | .slicedPassComplete _ => []
  | .bldComplete _ => []
  | .cblComplete _ => []
  | .drainResultDeliver _ => []
  | .mstatResultDeliver _ => []
  | .rqtJobComplete _ => []
  | .stagingRegisterWrite _ => []
  | .go _ => []
  | .jobStart _ => []
  | .jobRingClaim _ => []
  | .jobChunkComplete _ => []
  | .pageWalkComplete _ => []
  | .peerChunkAck _ => []
  | .jobComplete _ => []
  | .ladleChannelError _ _ => []
  | .rqtError _ => []
  | .ringStateError _ => []
  | .patrolScrub _ => []
  | .slipwayFlitRetry => []
  | .slipwayLinkFence => []
  | .towlineFlitRetry _ => []
  | .towlineLinkFence _ => []
  | .qtail _ _ => []
  | .registerBlockWrite _ _ _ => []
  | .launchRecord _ => []
  | .markerRecord _ => []
  | .patchActivation _ => []
  | .patchActivationComplete => []
  | .bindBlock _ => []
  | .bindRecord _ => []
  | .unbindNotice _ => []
  | .blockComplete _ => []
  | .windowOpenComplete _ _ => []
  | .engineStopAck _ _ _ => []
  | .preemptStallTimeout _ _ => []
  | .preemptQuantumExpiry _ => []
  | .queueHeadAging _ => []
  | .trapRecordPost _ => []
  | .serviceRequestPost _ => []
  | .serviceWarpRebind _ => []
  | .ringHeadRelease _ => []
  | .trapReplyResume _ => []
  | .trapReplyRedirect _ => []
  | .trapReplyAbort _ => []
  | .trapReplyChunkServiced _ => []
  | .trapReplyChunkFatal _ => []
  | .serviceReplyResume _ => []
  | .serviceReplyAbort _ => []
  | .windowOpen => []
  | .windowClose => []
  | .windowDescriptorRead => []
  | .ringDefine => []
  | .queueDefine => []
  | .translationRoot => []
  | .invalidate => []
  | .shadowPoolGrant => []
  | .contextSuspend => []
  | .contextResume => []
  | .slotReset => []
  | .statusRead => []
  | .firmwareLoad => []
  | .quote => []
  | .toluneDefine => []
  | .translationInstall => []
  | .traceSet => []
  | .comparatorSet => []
  | .warpStop => []
  | .peerBind => []
  | .contextDefine => []
  | .contextRelease => []
  | .stickyClear => []
  | .clockThrottle _ => []
  | .freezeN _ => []
  | .moduleReset => []
  | .powerOn => []
  | .powerLoss => []
  | .towlinePeerRequest _ _ _ _ => []
  | .peerFaultReturn _ _ => []
  | .towlineLinkTrained _ => []
  | .firmwareReady => []
  | .collectiveResultDeliver _ _ => []
  | .threadMoveComplete _ _ => []
  | .instructionCacheRefill _ _ => []

/-- The registers a word names as destinations. -/
def Instr.writes : Instr → List Reg
  | .nop _ => []
  | .runt _ _ _ _ => []
  | .ext _ => []
  | .bra _ _ => []
  | .bnz _ _ _ => []
  | .bz _ _ _ => []
  | .bltz _ _ _ => []
  | .bgez _ _ _ => []
  | .jpt _ _ => []
  | .rejoin _ => []
  | .call _ _ _ => []
  | .callr _ _ _ => []
  | .ret _ => []
  | .jmpr _ _ => []
  | .land _ => []
  | .exit _ => []
  | .svc _ _ => []
  | .trap _ _ => []
  | .brk _ _ => []
  | .spinw d _ _ _ => regs d 1
  | .wbase _ _ _ => []
  | .rget d _ _ => regs d 1
  | .rput _ _ _ => []
  | .add d _ _ _ => regs d 1
  | .sub d _ _ _ => regs d 1
  | .mul d _ _ _ => regs d 1
  | .mulhs d _ _ _ => regs d 1
  | .mulhu d _ _ _ => regs d 1
  | .mad d _ _ _ => regs d 1
  | .divs d _ _ _ => regs d 1
  | .divu d _ _ _ => regs d 1
  | .rems d _ _ _ => regs d 1
  | .remu d _ _ _ => regs d 1
  | .and d _ _ _ => regs d 1
  | .or d _ _ _ => regs d 1
  | .xor d _ _ _ => regs d 1
  | .andn d _ _ _ => regs d 1
  | .shl d _ _ _ => regs d 1
  | .shr d _ _ _ => regs d 1
  | .sar d _ _ _ => regs d 1
  | .rol d _ _ _ => regs d 1
  | .mins d _ _ _ => regs d 1
  | .minu d _ _ _ => regs d 1
  | .maxs d _ _ _ => regs d 1
  | .maxu d _ _ _ => regs d 1
  | .seq d _ _ _ => regs d 1
  | .sne d _ _ _ => regs d 1
  | .slt d _ _ _ => regs d 1
  | .sltu d _ _ _ => regs d 1
  | .sle d _ _ _ => regs d 1
  | .sleu d _ _ _ => regs d 1
  | .csel d _ _ _ => regs d 1
  | .mov d _ _ => regs d 1
  | .clz d _ _ => regs d 1
  | .ctz d _ _ => regs d 1
  | .popc d _ _ => regs d 1
  | .brev d _ _ => regs d 1
  | .abs d _ _ => regs d 1
  | .bfxu d _ _ _ => regs d 1
  | .bfxs d _ _ _ => regs d 1
  | .bfi d _ _ _ => regs d 1
  | .addi d _ _ _ => regs d 1
  | .andi d _ _ _ => regs d 1
  | .ori d _ _ _ => regs d 1
  | .xori d _ _ _ => regs d 1
  | .shli d _ _ _ => regs d 1
  | .shri d _ _ _ => regs d 1
  | .sari d _ _ _ => regs d 1
  | .movi d _ _ => regs d 1
  | .slti d _ _ _ => regs d 1
  | .seqi d _ _ _ => regs d 1
  | .lea1 d _ _ _ => regs d 1
  | .lea2 d _ _ _ => regs d 1
  | .lea4 d _ _ _ => regs d 1
  | .lea8 d _ _ _ => regs d 1
  | .add64 d _ _ _ => regs d 2
  | .sub64 d _ _ _ => regs d 2
  | .mulw d _ _ _ => regs d 2
  | .sltu64 d _ _ _ => regs d 1
  | .fadd d _ _ _ => regs d 1
  | .fsub d _ _ _ => regs d 1
  | .fmul d _ _ _ => regs d 1
  | .ffma d _ _ _ => regs d 1
  | .ffms d _ _ _ => regs d 1
  | .fmin d _ _ _ => regs d 1
  | .fmax d _ _ _ => regs d 1
  | .fcps d _ _ _ => regs d 1
  | .feq d _ _ _ => regs d 1
  | .flt d _ _ _ => regs d 1
  | .fle d _ _ _ => regs d 1
  | .funo d _ _ _ => regs d 1
  | .frcp d _ _ => regs d 1
  | .frsq d _ _ => regs d 1
  | .fsqrt d _ _ => regs d 1
  | .fdiv d _ _ _ => regs d 1
  | .fexp2 d _ _ => regs d 1
  | .flog2 d _ _ => regs d 1
  | .fsin d _ _ => regs d 1
  | .fcos d _ _ => regs d 1
  | .dadd d _ _ _ => regs d 2
  | .dsub d _ _ _ => regs d 2
  | .dmul d _ _ _ => regs d 2
  | .dfma d _ _ _ => regs d 2
  | .dmin d _ _ _ => regs d 2
  | .dmax d _ _ _ => regs d 2
  | .deq d _ _ _ => regs d 1
  | .dlt d _ _ _ => regs d 1
  | .dle d _ _ _ => regs d 1
  | .ddiv d _ _ _ => regs d 2
  | .dsqrt d _ _ => regs d 2
  | .drcp d _ _ => regs d 2
  | .hadd2 d _ _ _ => regs d 1
  | .hmul2 d _ _ _ => regs d 1
  | .hfma2 d _ _ _ => regs d 1
  | .badd2 d _ _ _ => regs d 1
  | .bmul2 d _ _ _ => regs d 1
  | .bfma2 d _ _ _ => regs d 1
  | .cvt d _ c _ => regs d (if Field.cvtPairD c then 2 else 1)
  | .cvtz d _ c _ => regs d (if Field.cvtPairD c then 2 else 1)
  | .fclass d _ _ => regs d 1
  | .fldx d _ _ _ => regs d 1
  | .frnd d _ _ _ => regs d 1
  | .drnd d _ _ _ => regs d 2
  | .fdot2 d _ _ _ => regs d 1
  | .hdot2 d _ _ _ => regs d 1
  | .packb d _ _ _ => regs d 1
  | .packh d _ _ _ => regs d 1
  | .ldb d _ _ _ => regs d 1
  | .ldbs d _ _ _ => regs d 1
  | .ldh d _ _ _ => regs d 1
  | .ldhs d _ _ _ => regs d 1
  | .ldw d _ _ _ => regs d 1
  | .ldd d _ _ _ => regs d 2
  | .ldq d _ _ _ => regs d 4
  | .stb _ _ _ _ => []
  | .sth _ _ _ _ => []
  | .stw _ _ _ _ => []
  | .std _ _ _ _ => []
  | .stq _ _ _ _ => []
  | .ldo d _ _ _ z _ => regs d (if z == 0 then 1 else 2)
  | .sto _ _ _ _ _ _ => []
  | .aadd d _ _ _ z _ => regs d (if z == 0 then 1 else 2)
  | .aand d _ _ _ z _ => regs d (if z == 0 then 1 else 2)
  | .aor d _ _ _ z _ => regs d (if z == 0 then 1 else 2)
  | .axor d _ _ _ z _ => regs d (if z == 0 then 1 else 2)
  | .amins d _ _ _ z _ => regs d (if z == 0 then 1 else 2)
  | .aminu d _ _ _ z _ => regs d (if z == 0 then 1 else 2)
  | .amaxs d _ _ _ z _ => regs d (if z == 0 then 1 else 2)
  | .amaxu d _ _ _ z _ => regs d (if z == 0 then 1 else 2)
  | .axch d _ _ _ z _ => regs d (if z == 0 then 1 else 2)
  | .acas d _ _ _ z _ => regs d (if z == 0 then 1 else 2)
  | .afxa _ _ _ _ _ _ => []
  | .afxr d _ _ _ z _ => regs d (if z == 0 then 1 else 2)
  | .afxz _ _ _ _ _ => []
  | .fence _ _ _ => []
  | .tgrab d _ _ => regs d 2
  | .tinit _ _ _ => []
  | .vote d _ m _ => regs d (if m == 2 then 2 else 1)
  | .shfi d _ _ _ => regs d 1
  | .shfu d _ _ _ => regs d 1
  | .shfd d _ _ _ => regs d 1
  | .shfx d _ _ _ => regs d 1
  | .redf d _ _ _ => regs d 1
  | .redi d _ _ _ => regs d 1
  | .scni d _ _ _ _ => regs d 1
  | .matchw d _ _ => regs d 2
  | .elect d _ => regs d 1
  | .qswz d _ _ _ => regs d 1
  | .sbind _ _ _ _ => []
  | .spos d _ _ _ _ => regs d 1
  | .qbind _ _ _ => []
  | .wspl _ _ => []
  | .wfil _ _ => []
  | .dsp _ _ => []
  | .gldb d _ _ => regs d 1
  | .gldbs d _ _ => regs d 1
  | .gldh d _ _ => regs d 1
  | .gldhs d _ _ => regs d 1
  | .gldw d _ _ => regs d 1
  | .gadv _ _ => []
  | .gjmp _ _ => []
  | .gjrel _ _ => []
  | .gtrap _ _ => []
  | .bld _ _ _ _ => []
  | .cbl _ _ _ => []
  | .mma _ _ _ _ => []
  | .mmab _ _ _ _ => []
  | .mmas _ _ _ _ => []
  | .drn d _ w _ _ => regs d (if w == 1 then 16 else 8)
  | .acz _ _ _ => []
  | .acl _ _ _ _ _ => []
  | .rqt _ _ _ _ => []
  | .mstat d _ _ => regs d 1
  | .dwait _ _ _ => []
  | .dpoll d _ _ => regs d 1
  | .drst _ _ => []
  | .rwait d _ _ => regs d 1
  | .rrel _ _ => []
  | .rclm d _ _ => regs d 1
  | .rcmt _ _ _ => []
  | .bar _ _ => []
  | .bara _ _ _ => []
  | .barw _ _ _ => []
  | .srd d _ _ => regs d 1
  | .swr _ _ _ => []
  | .pcrd d _ _ => regs d 2
  | .tmrk _ _ => []
  | .time d _ => regs d 2
  | .toluneInstruction _ _ => []
  | .portRunChoice _ _ => []
  | .strayIssue _ _ => []
  | .strayPromotion _ _ => []
  | .gangAgingPromotion _ _ => []
  | .regroupHoldExpiry _ _ => []
  | .loopBufferRefill _ _ => []
  | .loadResultDeliver _ _ _ => []
  | .storePerformed _ => []
  | .atomicResultDeliver _ _ _ => []
  | .divideResultDeliver _ _ _ => []
  | .fdivResultDeliver _ _ _ => []
  | .guestLoadDeliver _ _ _ => []
  | .rputWriteDeliver _ _ _ => []
  | .dspReadsComplete _ _ => []
  | .spinwReread _ _ => []
  | .dpollResultDeliver _ _ _ => []
  | .tgrabResultDeliver _ _ _ => []
  | .ringSlotDeliver _ _ _ => []
  | .streamElementArrive _ _ _ => []
  | .matrixProductStart _ => []
  | .narrowProductComplete _ => []
  | .slicedPassComplete _ => []
  | .bldComplete _ => []
  | .cblComplete _ => []
  | .drainResultDeliver _ => []
  | .mstatResultDeliver _ => []
  | .rqtJobComplete _ => []
  | .stagingRegisterWrite _ => []
  | .go _ => []
  | .jobStart _ => []
  | .jobRingClaim _ => []
  | .jobChunkComplete _ => []
  | .pageWalkComplete _ => []
  | .peerChunkAck _ => []
  | .jobComplete _ => []
  | .ladleChannelError _ _ => []
  | .rqtError _ => []
  | .ringStateError _ => []
  | .patrolScrub _ => []
  | .slipwayFlitRetry => []
  | .slipwayLinkFence => []
  | .towlineFlitRetry _ => []
  | .towlineLinkFence _ => []
  | .qtail _ _ => []
  | .registerBlockWrite _ _ _ => []
  | .launchRecord _ => []
  | .markerRecord _ => []
  | .patchActivation _ => []
  | .patchActivationComplete => []
  | .bindBlock _ => []
  | .bindRecord _ => []
  | .unbindNotice _ => []
  | .blockComplete _ => []
  | .windowOpenComplete _ _ => []
  | .engineStopAck _ _ _ => []
  | .preemptStallTimeout _ _ => []
  | .preemptQuantumExpiry _ => []
  | .queueHeadAging _ => []
  | .trapRecordPost _ => []
  | .serviceRequestPost _ => []
  | .serviceWarpRebind _ => []
  | .ringHeadRelease _ => []
  | .trapReplyResume _ => []
  | .trapReplyRedirect _ => []
  | .trapReplyAbort _ => []
  | .trapReplyChunkServiced _ => []
  | .trapReplyChunkFatal _ => []
  | .serviceReplyResume _ => []
  | .serviceReplyAbort _ => []
  | .windowOpen => []
  | .windowClose => []
  | .windowDescriptorRead => []
  | .ringDefine => []
  | .queueDefine => []
  | .translationRoot => []
  | .invalidate => []
  | .shadowPoolGrant => []
  | .contextSuspend => []
  | .contextResume => []
  | .slotReset => []
  | .statusRead => []
  | .firmwareLoad => []
  | .quote => []
  | .toluneDefine => []
  | .translationInstall => []
  | .traceSet => []
  | .comparatorSet => []
  | .warpStop => []
  | .peerBind => []
  | .contextDefine => []
  | .contextRelease => []
  | .stickyClear => []
  | .clockThrottle _ => []
  | .freezeN _ => []
  | .moduleReset => []
  | .powerOn => []
  | .powerLoss => []
  | .towlinePeerRequest _ _ _ _ => []
  | .peerFaultReturn _ _ => []
  | .towlineLinkTrained _ => []
  | .firmwareReady => []
  | .collectiveResultDeliver _ _ => []
  | .threadMoveComplete _ _ => []
  | .instructionCacheRefill _ _ => []

/-- The operands of a word, each with all its registers. -/
def Instr.groups : Instr → List (List Reg)
  | .nop _ => []
  | .runt _ _ _ _ => []
  | .ext _ => []
  | .bra _ _ => []
  | .bnz d _ _ => [regs d 1]
  | .bz d _ _ => [regs d 1]
  | .bltz d _ _ => [regs d 1]
  | .bgez d _ _ => [regs d 1]
  | .jpt _ _ => []
  | .rejoin _ => []
  | .call _ _ _ => []
  | .callr _ a _ => [regs a 1]
  | .ret _ => [regs 0 1, regs 1 1]
  | .jmpr a _ => [regs a 1]
  | .land _ => []
  | .exit _ => []
  | .svc _ _ => []
  | .trap _ _ => []
  | .brk _ _ => []
  | .spinw d a b _ => [regs a 1, regs b 1, regs d 1]
  | .wbase _ _ _ => []
  | .rget d a _ => [regs a 1, regs d 1]
  | .rput d a _ => [regs a 1, regs d 1]
  | .add d a b _ => [regs a 1, regs b 1, regs d 1]
  | .sub d a b _ => [regs a 1, regs b 1, regs d 1]
  | .mul d a b _ => [regs a 1, regs b 1, regs d 1]
  | .mulhs d a b _ => [regs a 1, regs b 1, regs d 1]
  | .mulhu d a b _ => [regs a 1, regs b 1, regs d 1]
  | .mad d a b _ => [regs d 1, regs a 1, regs b 1, regs d 1]
  | .divs d a b _ => [regs a 1, regs b 1, regs d 1]
  | .divu d a b _ => [regs a 1, regs b 1, regs d 1]
  | .rems d a b _ => [regs a 1, regs b 1, regs d 1]
  | .remu d a b _ => [regs a 1, regs b 1, regs d 1]
  | .and d a b _ => [regs a 1, regs b 1, regs d 1]
  | .or d a b _ => [regs a 1, regs b 1, regs d 1]
  | .xor d a b _ => [regs a 1, regs b 1, regs d 1]
  | .andn d a b _ => [regs a 1, regs b 1, regs d 1]
  | .shl d a b _ => [regs a 1, regs b 1, regs d 1]
  | .shr d a b _ => [regs a 1, regs b 1, regs d 1]
  | .sar d a b _ => [regs a 1, regs b 1, regs d 1]
  | .rol d a b _ => [regs a 1, regs b 1, regs d 1]
  | .mins d a b _ => [regs a 1, regs b 1, regs d 1]
  | .minu d a b _ => [regs a 1, regs b 1, regs d 1]
  | .maxs d a b _ => [regs a 1, regs b 1, regs d 1]
  | .maxu d a b _ => [regs a 1, regs b 1, regs d 1]
  | .seq d a b _ => [regs a 1, regs b 1, regs d 1]
  | .sne d a b _ => [regs a 1, regs b 1, regs d 1]
  | .slt d a b _ => [regs a 1, regs b 1, regs d 1]
  | .sltu d a b _ => [regs a 1, regs b 1, regs d 1]
  | .sle d a b _ => [regs a 1, regs b 1, regs d 1]
  | .sleu d a b _ => [regs a 1, regs b 1, regs d 1]
  | .csel d a b _ => [regs d 1, regs a 1, regs b 1, regs d 1]
  | .mov d a _ => [regs a 1, regs d 1]
  | .clz d a _ => [regs a 1, regs d 1]
  | .ctz d a _ => [regs a 1, regs d 1]
  | .popc d a _ => [regs a 1, regs d 1]
  | .brev d a _ => [regs a 1, regs d 1]
  | .abs d a _ => [regs a 1, regs d 1]
  | .bfxu d a b _ => [regs a 1, regs b 1, regs d 1]
  | .bfxs d a b _ => [regs a 1, regs b 1, regs d 1]
  | .bfi d a b _ => [regs d 1, regs a 1, regs b 1, regs d 1]
  | .addi d a _ _ => [regs a 1, regs d 1]
  | .andi d a _ _ => [regs a 1, regs d 1]
  | .ori d a _ _ => [regs a 1, regs d 1]
  | .xori d a _ _ => [regs a 1, regs d 1]
  | .shli d a _ _ => [regs a 1, regs d 1]
  | .shri d a _ _ => [regs a 1, regs d 1]
  | .sari d a _ _ => [regs a 1, regs d 1]
  | .movi d _ _ => [regs d 1]
  | .slti d a _ _ => [regs a 1, regs d 1]
  | .seqi d a _ _ => [regs a 1, regs d 1]
  | .lea1 d a b _ => [regs a 1, regs b 1, regs d 1]
  | .lea2 d a b _ => [regs a 1, regs b 1, regs d 1]
  | .lea4 d a b _ => [regs a 1, regs b 1, regs d 1]
  | .lea8 d a b _ => [regs a 1, regs b 1, regs d 1]
  | .add64 d a b _ => [regs a 2, regs b 2, regs d 2]
  | .sub64 d a b _ => [regs a 2, regs b 2, regs d 2]
  | .mulw d a b _ => [regs a 1, regs b 1, regs d 2]
  | .sltu64 d a b _ => [regs a 2, regs b 2, regs d 1]
  | .fadd d a b _ => [regs a 1, regs b 1, regs d 1]
  | .fsub d a b _ => [regs a 1, regs b 1, regs d 1]
  | .fmul d a b _ => [regs a 1, regs b 1, regs d 1]
  | .ffma d a b _ => [regs d 1, regs a 1, regs b 1, regs d 1]
  | .ffms d a b _ => [regs d 1, regs a 1, regs b 1, regs d 1]
  | .fmin d a b _ => [regs a 1, regs b 1, regs d 1]
  | .fmax d a b _ => [regs a 1, regs b 1, regs d 1]
  | .fcps d a b _ => [regs a 1, regs b 1, regs d 1]
  | .feq d a b _ => [regs a 1, regs b 1, regs d 1]
  | .flt d a b _ => [regs a 1, regs b 1, regs d 1]
  | .fle d a b _ => [regs a 1, regs b 1, regs d 1]
  | .funo d a b _ => [regs a 1, regs b 1, regs d 1]
  | .frcp d a _ => [regs a 1, regs d 1]
  | .frsq d a _ => [regs a 1, regs d 1]
  | .fsqrt d a _ => [regs a 1, regs d 1]
  | .fdiv d a b _ => [regs a 1, regs b 1, regs d 1]
  | .fexp2 d a _ => [regs a 1, regs d 1]
  | .flog2 d a _ => [regs a 1, regs d 1]
  | .fsin d a _ => [regs a 1, regs d 1]
  | .fcos d a _ => [regs a 1, regs d 1]
  | .dadd d a b _ => [regs a 2, regs b 2, regs d 2]
  | .dsub d a b _ => [regs a 2, regs b 2, regs d 2]
  | .dmul d a b _ => [regs a 2, regs b 2, regs d 2]
  | .dfma d a b _ => [regs d 2, regs a 2, regs b 2, regs d 2]
  | .dmin d a b _ => [regs a 2, regs b 2, regs d 2]
  | .dmax d a b _ => [regs a 2, regs b 2, regs d 2]
  | .deq d a b _ => [regs a 2, regs b 2, regs d 1]
  | .dlt d a b _ => [regs a 2, regs b 2, regs d 1]
  | .dle d a b _ => [regs a 2, regs b 2, regs d 1]
  | .ddiv d a b _ => [regs a 2, regs b 2, regs d 2]
  | .dsqrt d a _ => [regs a 2, regs d 2]
  | .drcp d a _ => [regs a 2, regs d 2]
  | .hadd2 d a b _ => [regs a 1, regs b 1, regs d 1]
  | .hmul2 d a b _ => [regs a 1, regs b 1, regs d 1]
  | .hfma2 d a b _ => [regs d 1, regs a 1, regs b 1, regs d 1]
  | .badd2 d a b _ => [regs a 1, regs b 1, regs d 1]
  | .bmul2 d a b _ => [regs a 1, regs b 1, regs d 1]
  | .bfma2 d a b _ => [regs d 1, regs a 1, regs b 1, regs d 1]
  | .cvt d a c _ => [regs a (if Field.cvtPairA c then 2 else 1), regs d (if Field.cvtPairD c then 2 else 1)]
  | .cvtz d a c _ => [regs a (if Field.cvtPairA c then 2 else 1), regs d (if Field.cvtPairD c then 2 else 1)]
  | .fclass d a _ => [regs a 1, regs d 1]
  | .fldx d a b _ => [regs a 1, regs b 1, regs d 1]
  | .frnd d a _ _ => [regs a 1, regs d 1]
  | .drnd d a _ _ => [regs a 2, regs d 2]
  | .fdot2 d a b _ => [regs d 1, regs a 1, regs b 1, regs d 1]
  | .hdot2 d a b _ => [regs d 1, regs a 1, regs b 1, regs d 1]
  | .packb d a b _ => [regs a 1, regs b 1, regs d 1]
  | .packh d a b _ => [regs a 1, regs b 1, regs d 1]
  | .ldb d a _ _ => [regs a 1, regs d 1]
  | .ldbs d a _ _ => [regs a 1, regs d 1]
  | .ldh d a _ _ => [regs a 1, regs d 1]
  | .ldhs d a _ _ => [regs a 1, regs d 1]
  | .ldw d a _ _ => [regs a 1, regs d 1]
  | .ldd d a _ _ => [regs a 1, regs d 2]
  | .ldq d a _ _ => [regs a 1, regs d 4]
  | .stb d a _ _ => [regs a 1, regs d 1]
  | .sth d a _ _ => [regs a 1, regs d 1]
  | .stw d a _ _ => [regs a 1, regs d 1]
  | .std d a _ _ => [regs a 1, regs d 2]
  | .stq d a _ _ => [regs a 1, regs d 4]
  | .ldo d a _ _ z _ => [regs a 1, regs d (if z == 0 then 1 else 2)]
  | .sto d a _ _ z _ => [regs a 1, regs d (if z == 0 then 1 else 2)]
  | .aadd d a _ _ z _ => [regs a 1, regs d (if z == 0 then 1 else 2), regs d (if z == 0 then 1 else 2)]
  | .aand d a _ _ z _ => [regs a 1, regs d (if z == 0 then 1 else 2), regs d (if z == 0 then 1 else 2)]
  | .aor d a _ _ z _ => [regs a 1, regs d (if z == 0 then 1 else 2), regs d (if z == 0 then 1 else 2)]
  | .axor d a _ _ z _ => [regs a 1, regs d (if z == 0 then 1 else 2), regs d (if z == 0 then 1 else 2)]
  | .amins d a _ _ z _ => [regs a 1, regs d (if z == 0 then 1 else 2), regs d (if z == 0 then 1 else 2)]
  | .aminu d a _ _ z _ => [regs a 1, regs d (if z == 0 then 1 else 2), regs d (if z == 0 then 1 else 2)]
  | .amaxs d a _ _ z _ => [regs a 1, regs d (if z == 0 then 1 else 2), regs d (if z == 0 then 1 else 2)]
  | .amaxu d a _ _ z _ => [regs a 1, regs d (if z == 0 then 1 else 2), regs d (if z == 0 then 1 else 2)]
  | .axch d a _ _ z _ => [regs a 1, regs d (if z == 0 then 1 else 2), regs d (if z == 0 then 1 else 2)]
  | .acas d a _ _ z _ => [regs a 1, regs d (if z == 0 then 2 else 4), regs d (if z == 0 then 1 else 2)]
  | .afxa d a _ _ z _ => [regs a 1, regs d (if z == 0 then 1 else 2)]
  | .afxr d a _ _ z _ => [regs a 1, regs d (if z == 0 then 1 else 2)]
  | .afxz d a _ _ _ => [regs a 1, regs d 1]
  | .fence _ _ _ => []
  | .tgrab d a _ => [regs a 1, regs d 2]
  | .tinit a b _ => [regs a 1, regs b 4]
  | .vote d a m _ => [regs a 1, regs d (if m == 2 then 2 else 1)]
  | .shfi d a b _ => [regs a 1, regs b 1, regs d 1]
  | .shfu d a _ _ => [regs a 1, regs d 1]
  | .shfd d a _ _ => [regs a 1, regs d 1]
  | .shfx d a _ _ => [regs a 1, regs d 1]
  | .redf d a _ _ => [regs a 1, regs d 1]
  | .redi d a _ _ => [regs a 1, regs d 1]
  | .scni d a _ _ _ => [regs a 1, regs d 1]
  | .matchw d a _ => [regs a 1, regs d 2]
  | .elect d _ => [regs d 1]
  | .qswz d a b _ => [regs a 1, regs b 1, regs d 1]
  | .sbind _ a b _ => [(if b == 127 then [] else regs a 4)]
  | .spos d a t _ _ => [(if t == 1 then regs a 1 else []), regs d 1]
  | .qbind _ _ _ => []
  | .wspl _ _ => []
  | .wfil _ _ => []
  | .dsp _ _ => []
  | .gldb d _ _ => [regs d 1]
  | .gldbs d _ _ => [regs d 1]
  | .gldh d _ _ => [regs d 1]
  | .gldhs d _ _ => [regs d 1]
  | .gldw d _ _ => [regs d 1]
  | .gadv _ _ => []
  | .gjmp a _ => [regs a 1]
  | .gjrel a _ => [regs a 1]
  | .gtrap _ _ => []
  | .bld _ a b _ => [regs a 1, regs b 1]
  | .cbl _ a _ => [regs a 1]
  | .mma _ _ b _ => [regs b 1]
  | .mmab _ _ b _ => [regs b 1]
  | .mmas _ _ b _ => [regs b 1]
  | .drn d _ w _ _ => [regs d (if w == 1 then 16 else 8)]
  | .acz _ _ _ => []
  | .acl _ a w _ _ => [regs a (if w == 1 then 16 else 8)]
  | .rqt d a b _ => [regs d 1, regs a 1, regs b 1]
  | .mstat d _ _ => [regs d 1]
  | .dwait _ a _ => [regs a 1]
  | .dpoll d _ _ => [regs d 1]
  | .drst _ _ => []
  | .rwait d _ _ => [regs d 1]
  | .rrel _ _ => []
  | .rclm d _ _ => [regs d 1]
  | .rcmt _ a _ => [regs a 1]
  | .bar _ _ => []
  | .bara a _ _ => [regs a 1]
  | .barw a _ _ => [regs a 1]
  | .srd d _ _ => [regs d 1]
  | .swr a _ _ => [regs a 1]
  | .pcrd d a _ => [regs a 1, regs d 2]
  | .tmrk _ _ => []
  | .time d _ => [regs d 2]
  | .toluneInstruction _ _ => []
  | .portRunChoice _ _ => []
  | .strayIssue _ _ => []
  | .strayPromotion _ _ => []
  | .gangAgingPromotion _ _ => []
  | .regroupHoldExpiry _ _ => []
  | .loopBufferRefill _ _ => []
  | .loadResultDeliver _ _ _ => []
  | .storePerformed _ => []
  | .atomicResultDeliver _ _ _ => []
  | .divideResultDeliver _ _ _ => []
  | .fdivResultDeliver _ _ _ => []
  | .guestLoadDeliver _ _ _ => []
  | .rputWriteDeliver _ _ _ => []
  | .dspReadsComplete _ _ => []
  | .spinwReread _ _ => []
  | .dpollResultDeliver _ _ _ => []
  | .tgrabResultDeliver _ _ _ => []
  | .ringSlotDeliver _ _ _ => []
  | .streamElementArrive _ _ _ => []
  | .matrixProductStart _ => []
  | .narrowProductComplete _ => []
  | .slicedPassComplete _ => []
  | .bldComplete _ => []
  | .cblComplete _ => []
  | .drainResultDeliver _ => []
  | .mstatResultDeliver _ => []
  | .rqtJobComplete _ => []
  | .stagingRegisterWrite _ => []
  | .go _ => []
  | .jobStart _ => []
  | .jobRingClaim _ => []
  | .jobChunkComplete _ => []
  | .pageWalkComplete _ => []
  | .peerChunkAck _ => []
  | .jobComplete _ => []
  | .ladleChannelError _ _ => []
  | .rqtError _ => []
  | .ringStateError _ => []
  | .patrolScrub _ => []
  | .slipwayFlitRetry => []
  | .slipwayLinkFence => []
  | .towlineFlitRetry _ => []
  | .towlineLinkFence _ => []
  | .qtail _ _ => []
  | .registerBlockWrite _ _ _ => []
  | .launchRecord _ => []
  | .markerRecord _ => []
  | .patchActivation _ => []
  | .patchActivationComplete => []
  | .bindBlock _ => []
  | .bindRecord _ => []
  | .unbindNotice _ => []
  | .blockComplete _ => []
  | .windowOpenComplete _ _ => []
  | .engineStopAck _ _ _ => []
  | .preemptStallTimeout _ _ => []
  | .preemptQuantumExpiry _ => []
  | .queueHeadAging _ => []
  | .trapRecordPost _ => []
  | .serviceRequestPost _ => []
  | .serviceWarpRebind _ => []
  | .ringHeadRelease _ => []
  | .trapReplyResume _ => []
  | .trapReplyRedirect _ => []
  | .trapReplyAbort _ => []
  | .trapReplyChunkServiced _ => []
  | .trapReplyChunkFatal _ => []
  | .serviceReplyResume _ => []
  | .serviceReplyAbort _ => []
  | .windowOpen => []
  | .windowClose => []
  | .windowDescriptorRead => []
  | .ringDefine => []
  | .queueDefine => []
  | .translationRoot => []
  | .invalidate => []
  | .shadowPoolGrant => []
  | .contextSuspend => []
  | .contextResume => []
  | .slotReset => []
  | .statusRead => []
  | .firmwareLoad => []
  | .quote => []
  | .toluneDefine => []
  | .translationInstall => []
  | .traceSet => []
  | .comparatorSet => []
  | .warpStop => []
  | .peerBind => []
  | .contextDefine => []
  | .contextRelease => []
  | .stickyClear => []
  | .clockThrottle _ => []
  | .freezeN _ => []
  | .moduleReset => []
  | .powerOn => []
  | .powerLoss => []
  | .towlinePeerRequest _ _ _ _ => []
  | .peerFaultReturn _ _ => []
  | .towlineLinkTrained _ => []
  | .firmwareReady => []
  | .collectiveResultDeliver _ _ => []
  | .threadMoveComplete _ _ => []
  | .instructionCacheRefill _ _ => []

/-- The class value of a fixed-latency result; none where the result is tracked by the scoreboard or there is none. -/
def Instr.latency : Instr → Option Nat
  | .nop _ => none
  | .runt _ _ _ _ => none
  | .ext _ => none
  | .bra _ _ => none
  | .bnz _ _ _ => none
  | .bz _ _ _ => none
  | .bltz _ _ _ => none
  | .bgez _ _ _ => none
  | .jpt _ _ => none
  | .rejoin _ => none
  | .call _ _ _ => none
  | .callr _ _ _ => none
  | .ret _ => none
  | .jmpr _ _ => none
  | .land _ => none
  | .exit _ => none
  | .svc _ _ => none
  | .trap _ _ => none
  | .brk _ _ => none
  | .spinw _ _ _ _ => none
  | .wbase _ _ _ => none
  | .rget _ _ _ => some Config.latRix
  | .rput _ _ _ => none
  | .add _ _ _ _ => some Config.latAlu
  | .sub _ _ _ _ => some Config.latAlu
  | .mul _ _ _ _ => some Config.latImul
  | .mulhs _ _ _ _ => some Config.latImul
  | .mulhu _ _ _ _ => some Config.latImul
  | .mad _ _ _ _ => some Config.latImul
  | .divs _ _ _ _ => none
  | .divu _ _ _ _ => none
  | .rems _ _ _ _ => none
  | .remu _ _ _ _ => none
  | .and _ _ _ _ => some Config.latAlu
  | .or _ _ _ _ => some Config.latAlu
  | .xor _ _ _ _ => some Config.latAlu
  | .andn _ _ _ _ => some Config.latAlu
  | .shl _ _ _ _ => some Config.latAlu
  | .shr _ _ _ _ => some Config.latAlu
  | .sar _ _ _ _ => some Config.latAlu
  | .rol _ _ _ _ => some Config.latAlu
  | .mins _ _ _ _ => some Config.latAlu
  | .minu _ _ _ _ => some Config.latAlu
  | .maxs _ _ _ _ => some Config.latAlu
  | .maxu _ _ _ _ => some Config.latAlu
  | .seq _ _ _ _ => some Config.latAlu
  | .sne _ _ _ _ => some Config.latAlu
  | .slt _ _ _ _ => some Config.latAlu
  | .sltu _ _ _ _ => some Config.latAlu
  | .sle _ _ _ _ => some Config.latAlu
  | .sleu _ _ _ _ => some Config.latAlu
  | .csel _ _ _ _ => some Config.latAlu
  | .mov _ _ _ => some Config.latAlu
  | .clz _ _ _ => some Config.latBit
  | .ctz _ _ _ => some Config.latBit
  | .popc _ _ _ => some Config.latBit
  | .brev _ _ _ => some Config.latBit
  | .abs _ _ _ => some Config.latAlu
  | .bfxu _ _ _ _ => some Config.latBit
  | .bfxs _ _ _ _ => some Config.latBit
  | .bfi _ _ _ _ => some Config.latBit
  | .addi _ _ _ _ => some Config.latAlu
  | .andi _ _ _ _ => some Config.latAlu
  | .ori _ _ _ _ => some Config.latAlu
  | .xori _ _ _ _ => some Config.latAlu
  | .shli _ _ _ _ => some Config.latAlu
  | .shri _ _ _ _ => some Config.latAlu
  | .sari _ _ _ _ => some Config.latAlu
  | .movi _ _ _ => some Config.latAlu
  | .slti _ _ _ _ => some Config.latAlu
  | .seqi _ _ _ _ => some Config.latAlu
  | .lea1 _ _ _ _ => some Config.latAlu
  | .lea2 _ _ _ _ => some Config.latAlu
  | .lea4 _ _ _ _ => some Config.latAlu
  | .lea8 _ _ _ _ => some Config.latAlu
  | .add64 _ _ _ _ => some Config.latAlu64
  | .sub64 _ _ _ _ => some Config.latAlu64
  | .mulw _ _ _ _ => some Config.latImul
  | .sltu64 _ _ _ _ => some Config.latAlu64
  | .fadd _ _ _ _ => some Config.latFpu
  | .fsub _ _ _ _ => some Config.latFpu
  | .fmul _ _ _ _ => some Config.latFpu
  | .ffma _ _ _ _ => some Config.latFpu
  | .ffms _ _ _ _ => some Config.latFpu
  | .fmin _ _ _ _ => some Config.latFpu
  | .fmax _ _ _ _ => some Config.latFpu
  | .fcps _ _ _ _ => some Config.latFpu
  | .feq _ _ _ _ => some Config.latFpu
  | .flt _ _ _ _ => some Config.latFpu
  | .fle _ _ _ _ => some Config.latFpu
  | .funo _ _ _ _ => some Config.latFpu
  | .frcp _ _ _ => some Config.latSfu
  | .frsq _ _ _ => some Config.latSfu
  | .fsqrt _ _ _ => none
  | .fdiv _ _ _ _ => none
  | .fexp2 _ _ _ => some Config.latSfu
  | .flog2 _ _ _ => some Config.latSfu
  | .fsin _ _ _ => some Config.latSfu
  | .fcos _ _ _ => some Config.latSfu
  | .dadd _ _ _ _ => some Config.latDpu
  | .dsub _ _ _ _ => some Config.latDpu
  | .dmul _ _ _ _ => some Config.latDpu
  | .dfma _ _ _ _ => some Config.latDpu
  | .dmin _ _ _ _ => some Config.latDpu
  | .dmax _ _ _ _ => some Config.latDpu
  | .deq _ _ _ _ => some Config.latDpu
  | .dlt _ _ _ _ => some Config.latDpu
  | .dle _ _ _ _ => some Config.latDpu
  | .ddiv _ _ _ _ => none
  | .dsqrt _ _ _ => none
  | .drcp _ _ _ => none
  | .hadd2 _ _ _ _ => some Config.latFpu
  | .hmul2 _ _ _ _ => some Config.latFpu
  | .hfma2 _ _ _ _ => some Config.latFpu
  | .badd2 _ _ _ _ => some Config.latFpu
  | .bmul2 _ _ _ _ => some Config.latFpu
  | .bfma2 _ _ _ _ => some Config.latFpu
  | .cvt _ _ _ _ => some Config.latFpu
  | .cvtz _ _ _ _ => some Config.latFpu
  | .fclass _ _ _ => some Config.latFpu
  | .fldx _ _ _ _ => some Config.latFpu
  | .frnd _ _ _ _ => some Config.latFpu
  | .drnd _ _ _ _ => some Config.latDpu
  | .fdot2 _ _ _ _ => some Config.latFpu
  | .hdot2 _ _ _ _ => some Config.latFpu
  | .packb _ _ _ _ => some Config.latFpu
  | .packh _ _ _ _ => some Config.latFpu
  | .ldb _ _ _ _ => none
  | .ldbs _ _ _ _ => none
  | .ldh _ _ _ _ => none
  | .ldhs _ _ _ _ => none
  | .ldw _ _ _ _ => none
  | .ldd _ _ _ _ => none
  | .ldq _ _ _ _ => none
  | .stb _ _ _ _ => none
  | .sth _ _ _ _ => none
  | .stw _ _ _ _ => none
  | .std _ _ _ _ => none
  | .stq _ _ _ _ => none
  | .ldo _ _ _ _ _ _ => none
  | .sto _ _ _ _ _ _ => none
  | .aadd _ _ _ _ _ _ => none
  | .aand _ _ _ _ _ _ => none
  | .aor _ _ _ _ _ _ => none
  | .axor _ _ _ _ _ _ => none
  | .amins _ _ _ _ _ _ => none
  | .aminu _ _ _ _ _ _ => none
  | .amaxs _ _ _ _ _ _ => none
  | .amaxu _ _ _ _ _ _ => none
  | .axch _ _ _ _ _ _ => none
  | .acas _ _ _ _ _ _ => none
  | .afxa _ _ _ _ _ _ => none
  | .afxr _ _ _ _ _ _ => none
  | .afxz _ _ _ _ _ => none
  | .fence _ _ _ => none
  | .tgrab _ _ _ => none
  | .tinit _ _ _ => none
  | .vote _ _ _ _ => none
  | .shfi _ _ _ _ => none
  | .shfu _ _ _ _ => none
  | .shfd _ _ _ _ => none
  | .shfx _ _ _ _ => none
  | .redf _ _ _ _ => none
  | .redi _ _ _ _ => none
  | .scni _ _ _ _ _ => none
  | .matchw _ _ _ => none
  | .elect _ _ => some Config.latXlane
  | .qswz _ _ _ _ => some Config.latXlane
  | .sbind _ _ _ _ => none
  | .spos _ _ _ _ _ => some Config.latXlane
  | .qbind _ _ _ => none
  | .wspl _ _ => none
  | .wfil _ _ => none
  | .dsp _ _ => none
  | .gldb _ _ _ => none
  | .gldbs _ _ _ => none
  | .gldh _ _ _ => none
  | .gldhs _ _ _ => none
  | .gldw _ _ _ => none
  | .gadv _ _ => none
  | .gjmp _ _ => none
  | .gjrel _ _ => none
  | .gtrap _ _ => none
  | .bld _ _ _ _ => none
  | .cbl _ _ _ => none
  | .mma _ _ _ _ => none
  | .mmab _ _ _ _ => none
  | .mmas _ _ _ _ => none
  | .drn _ _ _ _ _ => none
  | .acz _ _ _ => none
  | .acl _ _ _ _ _ => none
  | .rqt _ _ _ _ => none
  | .mstat _ _ _ => none
  | .dwait _ _ _ => none
  | .dpoll _ _ _ => none
  | .drst _ _ => none
  | .rwait _ _ _ => none
  | .rrel _ _ => none
  | .rclm _ _ _ => none
  | .rcmt _ _ _ => none
  | .bar _ _ => none
  | .bara _ _ _ => none
  | .barw _ _ _ => none
  | .srd _ _ _ => some Config.latAlu
  | .swr _ _ _ => none
  | .pcrd _ _ _ => none
  | .tmrk _ _ => none
  | .time _ _ => none
  | .toluneInstruction _ _ => none
  | .portRunChoice _ _ => none
  | .strayIssue _ _ => none
  | .strayPromotion _ _ => none
  | .gangAgingPromotion _ _ => none
  | .regroupHoldExpiry _ _ => none
  | .loopBufferRefill _ _ => none
  | .loadResultDeliver _ _ _ => none
  | .storePerformed _ => none
  | .atomicResultDeliver _ _ _ => none
  | .divideResultDeliver _ _ _ => none
  | .fdivResultDeliver _ _ _ => none
  | .guestLoadDeliver _ _ _ => none
  | .rputWriteDeliver _ _ _ => none
  | .dspReadsComplete _ _ => none
  | .spinwReread _ _ => none
  | .dpollResultDeliver _ _ _ => none
  | .tgrabResultDeliver _ _ _ => none
  | .ringSlotDeliver _ _ _ => none
  | .streamElementArrive _ _ _ => none
  | .matrixProductStart _ => none
  | .narrowProductComplete _ => none
  | .slicedPassComplete _ => none
  | .bldComplete _ => none
  | .cblComplete _ => none
  | .drainResultDeliver _ => none
  | .mstatResultDeliver _ => none
  | .rqtJobComplete _ => none
  | .stagingRegisterWrite _ => none
  | .go _ => none
  | .jobStart _ => none
  | .jobRingClaim _ => none
  | .jobChunkComplete _ => none
  | .pageWalkComplete _ => none
  | .peerChunkAck _ => none
  | .jobComplete _ => none
  | .ladleChannelError _ _ => none
  | .rqtError _ => none
  | .ringStateError _ => none
  | .patrolScrub _ => none
  | .slipwayFlitRetry => none
  | .slipwayLinkFence => none
  | .towlineFlitRetry _ => none
  | .towlineLinkFence _ => none
  | .qtail _ _ => none
  | .registerBlockWrite _ _ _ => none
  | .launchRecord _ => none
  | .markerRecord _ => none
  | .patchActivation _ => none
  | .patchActivationComplete => none
  | .bindBlock _ => none
  | .bindRecord _ => none
  | .unbindNotice _ => none
  | .blockComplete _ => none
  | .windowOpenComplete _ _ => none
  | .engineStopAck _ _ _ => none
  | .preemptStallTimeout _ _ => none
  | .preemptQuantumExpiry _ => none
  | .queueHeadAging _ => none
  | .trapRecordPost _ => none
  | .serviceRequestPost _ => none
  | .serviceWarpRebind _ => none
  | .ringHeadRelease _ => none
  | .trapReplyResume _ => none
  | .trapReplyRedirect _ => none
  | .trapReplyAbort _ => none
  | .trapReplyChunkServiced _ => none
  | .trapReplyChunkFatal _ => none
  | .serviceReplyResume _ => none
  | .serviceReplyAbort _ => none
  | .windowOpen => none
  | .windowClose => none
  | .windowDescriptorRead => none
  | .ringDefine => none
  | .queueDefine => none
  | .translationRoot => none
  | .invalidate => none
  | .shadowPoolGrant => none
  | .contextSuspend => none
  | .contextResume => none
  | .slotReset => none
  | .statusRead => none
  | .firmwareLoad => none
  | .quote => none
  | .toluneDefine => none
  | .translationInstall => none
  | .traceSet => none
  | .comparatorSet => none
  | .warpStop => none
  | .peerBind => none
  | .contextDefine => none
  | .contextRelease => none
  | .stickyClear => none
  | .clockThrottle _ => none
  | .freezeN _ => none
  | .moduleReset => none
  | .powerOn => none
  | .powerLoss => none
  | .towlinePeerRequest _ _ _ _ => none
  | .peerFaultReturn _ _ => none
  | .towlineLinkTrained _ => none
  | .firmwareReady => none
  | .collectiveResultDeliver _ _ => none
  | .threadMoveComplete _ _ => none
  | .instructionCacheRefill _ _ => none

/-- The run-ending words (R37). -/
def Instr.runEnding : Instr → Bool
  | .nop _ => false
  | .runt _ _ _ _ => false
  | .ext _ => false
  | .bra _ _ => true
  | .bnz _ _ _ => true
  | .bz _ _ _ => true
  | .bltz _ _ _ => true
  | .bgez _ _ _ => true
  | .jpt _ _ => false
  | .rejoin _ => true
  | .call _ _ _ => true
  | .callr _ _ _ => true
  | .ret _ => true
  | .jmpr _ _ => true
  | .land _ => false
  | .exit _ => true
  | .svc _ _ => true
  | .trap _ _ => true
  | .brk _ _ => true
  | .spinw _ _ _ _ => true
  | .wbase _ _ _ => false
  | .rget _ _ _ => false
  | .rput _ _ _ => false
  | .add _ _ _ _ => false
  | .sub _ _ _ _ => false
  | .mul _ _ _ _ => false
  | .mulhs _ _ _ _ => false
  | .mulhu _ _ _ _ => false
  | .mad _ _ _ _ => false
  | .divs _ _ _ _ => false
  | .divu _ _ _ _ => false
  | .rems _ _ _ _ => false
  | .remu _ _ _ _ => false
  | .and _ _ _ _ => false
  | .or _ _ _ _ => false
  | .xor _ _ _ _ => false
  | .andn _ _ _ _ => false
  | .shl _ _ _ _ => false
  | .shr _ _ _ _ => false
  | .sar _ _ _ _ => false
  | .rol _ _ _ _ => false
  | .mins _ _ _ _ => false
  | .minu _ _ _ _ => false
  | .maxs _ _ _ _ => false
  | .maxu _ _ _ _ => false
  | .seq _ _ _ _ => false
  | .sne _ _ _ _ => false
  | .slt _ _ _ _ => false
  | .sltu _ _ _ _ => false
  | .sle _ _ _ _ => false
  | .sleu _ _ _ _ => false
  | .csel _ _ _ _ => false
  | .mov _ _ _ => false
  | .clz _ _ _ => false
  | .ctz _ _ _ => false
  | .popc _ _ _ => false
  | .brev _ _ _ => false
  | .abs _ _ _ => false
  | .bfxu _ _ _ _ => false
  | .bfxs _ _ _ _ => false
  | .bfi _ _ _ _ => false
  | .addi _ _ _ _ => false
  | .andi _ _ _ _ => false
  | .ori _ _ _ _ => false
  | .xori _ _ _ _ => false
  | .shli _ _ _ _ => false
  | .shri _ _ _ _ => false
  | .sari _ _ _ _ => false
  | .movi _ _ _ => false
  | .slti _ _ _ _ => false
  | .seqi _ _ _ _ => false
  | .lea1 _ _ _ _ => false
  | .lea2 _ _ _ _ => false
  | .lea4 _ _ _ _ => false
  | .lea8 _ _ _ _ => false
  | .add64 _ _ _ _ => false
  | .sub64 _ _ _ _ => false
  | .mulw _ _ _ _ => false
  | .sltu64 _ _ _ _ => false
  | .fadd _ _ _ _ => false
  | .fsub _ _ _ _ => false
  | .fmul _ _ _ _ => false
  | .ffma _ _ _ _ => false
  | .ffms _ _ _ _ => false
  | .fmin _ _ _ _ => false
  | .fmax _ _ _ _ => false
  | .fcps _ _ _ _ => false
  | .feq _ _ _ _ => false
  | .flt _ _ _ _ => false
  | .fle _ _ _ _ => false
  | .funo _ _ _ _ => false
  | .frcp _ _ _ => false
  | .frsq _ _ _ => false
  | .fsqrt _ _ _ => false
  | .fdiv _ _ _ _ => false
  | .fexp2 _ _ _ => false
  | .flog2 _ _ _ => false
  | .fsin _ _ _ => false
  | .fcos _ _ _ => false
  | .dadd _ _ _ _ => false
  | .dsub _ _ _ _ => false
  | .dmul _ _ _ _ => false
  | .dfma _ _ _ _ => false
  | .dmin _ _ _ _ => false
  | .dmax _ _ _ _ => false
  | .deq _ _ _ _ => false
  | .dlt _ _ _ _ => false
  | .dle _ _ _ _ => false
  | .ddiv _ _ _ _ => false
  | .dsqrt _ _ _ => false
  | .drcp _ _ _ => false
  | .hadd2 _ _ _ _ => false
  | .hmul2 _ _ _ _ => false
  | .hfma2 _ _ _ _ => false
  | .badd2 _ _ _ _ => false
  | .bmul2 _ _ _ _ => false
  | .bfma2 _ _ _ _ => false
  | .cvt _ _ _ _ => false
  | .cvtz _ _ _ _ => false
  | .fclass _ _ _ => false
  | .fldx _ _ _ _ => false
  | .frnd _ _ _ _ => false
  | .drnd _ _ _ _ => false
  | .fdot2 _ _ _ _ => false
  | .hdot2 _ _ _ _ => false
  | .packb _ _ _ _ => false
  | .packh _ _ _ _ => false
  | .ldb _ _ _ _ => false
  | .ldbs _ _ _ _ => false
  | .ldh _ _ _ _ => false
  | .ldhs _ _ _ _ => false
  | .ldw _ _ _ _ => false
  | .ldd _ _ _ _ => false
  | .ldq _ _ _ _ => false
  | .stb _ _ _ _ => false
  | .sth _ _ _ _ => false
  | .stw _ _ _ _ => false
  | .std _ _ _ _ => false
  | .stq _ _ _ _ => false
  | .ldo _ _ _ _ _ _ => false
  | .sto _ _ _ _ _ _ => false
  | .aadd _ _ _ _ _ _ => false
  | .aand _ _ _ _ _ _ => false
  | .aor _ _ _ _ _ _ => false
  | .axor _ _ _ _ _ _ => false
  | .amins _ _ _ _ _ _ => false
  | .aminu _ _ _ _ _ _ => false
  | .amaxs _ _ _ _ _ _ => false
  | .amaxu _ _ _ _ _ _ => false
  | .axch _ _ _ _ _ _ => false
  | .acas _ _ _ _ _ _ => false
  | .afxa _ _ _ _ _ _ => false
  | .afxr _ _ _ _ _ _ => false
  | .afxz _ _ _ _ _ => false
  | .fence _ _ _ => false
  | .tgrab _ _ _ => false
  | .tinit _ _ _ => false
  | .vote _ _ _ _ => false
  | .shfi _ _ _ _ => false
  | .shfu _ _ _ _ => false
  | .shfd _ _ _ _ => false
  | .shfx _ _ _ _ => false
  | .redf _ _ _ _ => false
  | .redi _ _ _ _ => false
  | .scni _ _ _ _ _ => false
  | .matchw _ _ _ => false
  | .elect _ _ => false
  | .qswz _ _ _ _ => false
  | .sbind _ _ _ _ => false
  | .spos _ _ _ _ _ => false
  | .qbind _ _ _ => false
  | .wspl _ _ => false
  | .wfil _ _ => false
  | .dsp _ _ => true
  | .gldb _ _ _ => false
  | .gldbs _ _ _ => false
  | .gldh _ _ _ => false
  | .gldhs _ _ _ => false
  | .gldw _ _ _ => false
  | .gadv _ _ => false
  | .gjmp _ _ => false
  | .gjrel _ _ => false
  | .gtrap _ _ => true
  | .bld _ _ _ _ => false
  | .cbl _ _ _ => false
  | .mma _ _ _ _ => false
  | .mmab _ _ _ _ => false
  | .mmas _ _ _ _ => false
  | .drn _ _ _ _ _ => false
  | .acz _ _ _ => false
  | .acl _ _ _ _ _ => false
  | .rqt _ _ _ _ => false
  | .mstat _ _ _ => false
  | .dwait _ _ _ => false
  | .dpoll _ _ _ => false
  | .drst _ _ => false
  | .rwait _ _ _ => false
  | .rrel _ _ => false
  | .rclm _ _ _ => false
  | .rcmt _ _ _ => false
  | .bar _ _ => false
  | .bara _ _ _ => false
  | .barw _ _ _ => false
  | .srd _ _ _ => false
  | .swr _ _ _ => false
  | .pcrd _ _ _ => false
  | .tmrk _ _ => false
  | .time _ _ => false
  | .toluneInstruction _ _ => false
  | .portRunChoice _ _ => false
  | .strayIssue _ _ => false
  | .strayPromotion _ _ => false
  | .gangAgingPromotion _ _ => false
  | .regroupHoldExpiry _ _ => false
  | .loopBufferRefill _ _ => false
  | .loadResultDeliver _ _ _ => false
  | .storePerformed _ => false
  | .atomicResultDeliver _ _ _ => false
  | .divideResultDeliver _ _ _ => false
  | .fdivResultDeliver _ _ _ => false
  | .guestLoadDeliver _ _ _ => false
  | .rputWriteDeliver _ _ _ => false
  | .dspReadsComplete _ _ => false
  | .spinwReread _ _ => false
  | .dpollResultDeliver _ _ _ => false
  | .tgrabResultDeliver _ _ _ => false
  | .ringSlotDeliver _ _ _ => false
  | .streamElementArrive _ _ _ => false
  | .matrixProductStart _ => false
  | .narrowProductComplete _ => false
  | .slicedPassComplete _ => false
  | .bldComplete _ => false
  | .cblComplete _ => false
  | .drainResultDeliver _ => false
  | .mstatResultDeliver _ => false
  | .rqtJobComplete _ => false
  | .stagingRegisterWrite _ => false
  | .go _ => false
  | .jobStart _ => false
  | .jobRingClaim _ => false
  | .jobChunkComplete _ => false
  | .pageWalkComplete _ => false
  | .peerChunkAck _ => false
  | .jobComplete _ => false
  | .ladleChannelError _ _ => false
  | .rqtError _ => false
  | .ringStateError _ => false
  | .patrolScrub _ => false
  | .slipwayFlitRetry => false
  | .slipwayLinkFence => false
  | .towlineFlitRetry _ => false
  | .towlineLinkFence _ => false
  | .qtail _ _ => false
  | .registerBlockWrite _ _ _ => false
  | .launchRecord _ => false
  | .markerRecord _ => false
  | .patchActivation _ => false
  | .patchActivationComplete => false
  | .bindBlock _ => false
  | .bindRecord _ => false
  | .unbindNotice _ => false
  | .blockComplete _ => false
  | .windowOpenComplete _ _ => false
  | .engineStopAck _ _ _ => false
  | .preemptStallTimeout _ _ => false
  | .preemptQuantumExpiry _ => false
  | .queueHeadAging _ => false
  | .trapRecordPost _ => false
  | .serviceRequestPost _ => false
  | .serviceWarpRebind _ => false
  | .ringHeadRelease _ => false
  | .trapReplyResume _ => false
  | .trapReplyRedirect _ => false
  | .trapReplyAbort _ => false
  | .trapReplyChunkServiced _ => false
  | .trapReplyChunkFatal _ => false
  | .serviceReplyResume _ => false
  | .serviceReplyAbort _ => false
  | .windowOpen => false
  | .windowClose => false
  | .windowDescriptorRead => false
  | .ringDefine => false
  | .queueDefine => false
  | .translationRoot => false
  | .invalidate => false
  | .shadowPoolGrant => false
  | .contextSuspend => false
  | .contextResume => false
  | .slotReset => false
  | .statusRead => false
  | .firmwareLoad => false
  | .quote => false
  | .toluneDefine => false
  | .translationInstall => false
  | .traceSet => false
  | .comparatorSet => false
  | .warpStop => false
  | .peerBind => false
  | .contextDefine => false
  | .contextRelease => false
  | .stickyClear => false
  | .clockThrottle _ => false
  | .freezeN _ => false
  | .moduleReset => false
  | .powerOn => false
  | .powerLoss => false
  | .towlinePeerRequest _ _ _ _ => false
  | .peerFaultReturn _ _ => false
  | .towlineLinkTrained _ => false
  | .firmwareReady => false
  | .collectiveResultDeliver _ _ => false
  | .threadMoveComplete _ _ => false
  | .instructionCacheRefill _ _ => false

/-- The words an EXT may precede (R34). -/
def Instr.extendable : Instr → Bool
  | .nop _ => false
  | .runt _ _ _ _ => false
  | .ext _ => false
  | .bra _ _ => false
  | .bnz _ _ _ => true
  | .bz _ _ _ => true
  | .bltz _ _ _ => true
  | .bgez _ _ _ => true
  | .jpt _ _ => false
  | .rejoin _ => false
  | .call _ _ _ => true
  | .callr _ _ _ => false
  | .ret _ => false
  | .jmpr _ _ => false
  | .land _ => false
  | .exit _ => false
  | .svc _ _ => false
  | .trap _ _ => false
  | .brk _ _ => false
  | .spinw _ _ _ _ => false
  | .wbase _ _ _ => false
  | .rget _ _ _ => false
  | .rput _ _ _ => false
  | .add _ _ _ _ => false
  | .sub _ _ _ _ => false
  | .mul _ _ _ _ => false
  | .mulhs _ _ _ _ => false
  | .mulhu _ _ _ _ => false
  | .mad _ _ _ _ => false
  | .divs _ _ _ _ => false
  | .divu _ _ _ _ => false
  | .rems _ _ _ _ => false
  | .remu _ _ _ _ => false
  | .and _ _ _ _ => false
  | .or _ _ _ _ => false
  | .xor _ _ _ _ => false
  | .andn _ _ _ _ => false
  | .shl _ _ _ _ => false
  | .shr _ _ _ _ => false
  | .sar _ _ _ _ => false
  | .rol _ _ _ _ => false
  | .mins _ _ _ _ => false
  | .minu _ _ _ _ => false
  | .maxs _ _ _ _ => false
  | .maxu _ _ _ _ => false
  | .seq _ _ _ _ => false
  | .sne _ _ _ _ => false
  | .slt _ _ _ _ => false
  | .sltu _ _ _ _ => false
  | .sle _ _ _ _ => false
  | .sleu _ _ _ _ => false
  | .csel _ _ _ _ => false
  | .mov _ _ _ => false
  | .clz _ _ _ => false
  | .ctz _ _ _ => false
  | .popc _ _ _ => false
  | .brev _ _ _ => false
  | .abs _ _ _ => false
  | .bfxu _ _ _ _ => false
  | .bfxs _ _ _ _ => false
  | .bfi _ _ _ _ => false
  | .addi _ _ _ _ => true
  | .andi _ _ _ _ => true
  | .ori _ _ _ _ => true
  | .xori _ _ _ _ => true
  | .shli _ _ _ _ => true
  | .shri _ _ _ _ => true
  | .sari _ _ _ _ => true
  | .movi _ _ _ => true
  | .slti _ _ _ _ => true
  | .seqi _ _ _ _ => true
  | .lea1 _ _ _ _ => false
  | .lea2 _ _ _ _ => false
  | .lea4 _ _ _ _ => false
  | .lea8 _ _ _ _ => false
  | .add64 _ _ _ _ => false
  | .sub64 _ _ _ _ => false
  | .mulw _ _ _ _ => false
  | .sltu64 _ _ _ _ => false
  | .fadd _ _ _ _ => false
  | .fsub _ _ _ _ => false
  | .fmul _ _ _ _ => false
  | .ffma _ _ _ _ => false
  | .ffms _ _ _ _ => false
  | .fmin _ _ _ _ => false
  | .fmax _ _ _ _ => false
  | .fcps _ _ _ _ => false
  | .feq _ _ _ _ => false
  | .flt _ _ _ _ => false
  | .fle _ _ _ _ => false
  | .funo _ _ _ _ => false
  | .frcp _ _ _ => false
  | .frsq _ _ _ => false
  | .fsqrt _ _ _ => false
  | .fdiv _ _ _ _ => false
  | .fexp2 _ _ _ => false
  | .flog2 _ _ _ => false
  | .fsin _ _ _ => false
  | .fcos _ _ _ => false
  | .dadd _ _ _ _ => false
  | .dsub _ _ _ _ => false
  | .dmul _ _ _ _ => false
  | .dfma _ _ _ _ => false
  | .dmin _ _ _ _ => false
  | .dmax _ _ _ _ => false
  | .deq _ _ _ _ => false
  | .dlt _ _ _ _ => false
  | .dle _ _ _ _ => false
  | .ddiv _ _ _ _ => false
  | .dsqrt _ _ _ => false
  | .drcp _ _ _ => false
  | .hadd2 _ _ _ _ => false
  | .hmul2 _ _ _ _ => false
  | .hfma2 _ _ _ _ => false
  | .badd2 _ _ _ _ => false
  | .bmul2 _ _ _ _ => false
  | .bfma2 _ _ _ _ => false
  | .cvt _ _ _ _ => false
  | .cvtz _ _ _ _ => false
  | .fclass _ _ _ => false
  | .fldx _ _ _ _ => false
  | .frnd _ _ _ _ => false
  | .drnd _ _ _ _ => false
  | .fdot2 _ _ _ _ => false
  | .hdot2 _ _ _ _ => false
  | .packb _ _ _ _ => false
  | .packh _ _ _ _ => false
  | .ldb _ _ _ _ => true
  | .ldbs _ _ _ _ => true
  | .ldh _ _ _ _ => true
  | .ldhs _ _ _ _ => true
  | .ldw _ _ _ _ => true
  | .ldd _ _ _ _ => true
  | .ldq _ _ _ _ => true
  | .stb _ _ _ _ => true
  | .sth _ _ _ _ => true
  | .stw _ _ _ _ => true
  | .std _ _ _ _ => true
  | .stq _ _ _ _ => true
  | .ldo _ _ _ _ _ _ => true
  | .sto _ _ _ _ _ _ => true
  | .aadd _ _ _ _ _ _ => true
  | .aand _ _ _ _ _ _ => true
  | .aor _ _ _ _ _ _ => true
  | .axor _ _ _ _ _ _ => true
  | .amins _ _ _ _ _ _ => true
  | .aminu _ _ _ _ _ _ => true
  | .amaxs _ _ _ _ _ _ => true
  | .amaxu _ _ _ _ _ _ => true
  | .axch _ _ _ _ _ _ => true
  | .acas _ _ _ _ _ _ => true
  | .afxa _ _ _ _ _ _ => true
  | .afxr _ _ _ _ _ _ => true
  | .afxz _ _ _ _ _ => true
  | .fence _ _ _ => false
  | .tgrab _ _ _ => false
  | .tinit _ _ _ => false
  | .vote _ _ _ _ => false
  | .shfi _ _ _ _ => false
  | .shfu _ _ _ _ => false
  | .shfd _ _ _ _ => false
  | .shfx _ _ _ _ => false
  | .redf _ _ _ _ => false
  | .redi _ _ _ _ => false
  | .scni _ _ _ _ _ => false
  | .matchw _ _ _ => false
  | .elect _ _ => false
  | .qswz _ _ _ _ => false
  | .sbind _ _ _ _ => false
  | .spos _ _ _ _ _ => false
  | .qbind _ _ _ => false
  | .wspl _ _ => false
  | .wfil _ _ => false
  | .dsp _ _ => false
  | .gldb _ _ _ => true
  | .gldbs _ _ _ => true
  | .gldh _ _ _ => true
  | .gldhs _ _ _ => true
  | .gldw _ _ _ => true
  | .gadv _ _ => true
  | .gjmp _ _ => false
  | .gjrel _ _ => false
  | .gtrap _ _ => false
  | .bld _ _ _ _ => false
  | .cbl _ _ _ => false
  | .mma _ _ _ _ => false
  | .mmab _ _ _ _ => false
  | .mmas _ _ _ _ => false
  | .drn _ _ _ _ _ => false
  | .acz _ _ _ => false
  | .acl _ _ _ _ _ => false
  | .rqt _ _ _ _ => false
  | .mstat _ _ _ => false
  | .dwait _ _ _ => false
  | .dpoll _ _ _ => false
  | .drst _ _ => false
  | .rwait _ _ _ => false
  | .rrel _ _ => false
  | .rclm _ _ _ => false
  | .rcmt _ _ _ => false
  | .bar _ _ => false
  | .bara _ _ _ => false
  | .barw _ _ _ => false
  | .srd _ _ _ => false
  | .swr _ _ _ => false
  | .pcrd _ _ _ => false
  | .tmrk _ _ => false
  | .time _ _ => false
  | .toluneInstruction _ _ => false
  | .portRunChoice _ _ => false
  | .strayIssue _ _ => false
  | .strayPromotion _ _ => false
  | .gangAgingPromotion _ _ => false
  | .regroupHoldExpiry _ _ => false
  | .loopBufferRefill _ _ => false
  | .loadResultDeliver _ _ _ => false
  | .storePerformed _ => false
  | .atomicResultDeliver _ _ _ => false
  | .divideResultDeliver _ _ _ => false
  | .fdivResultDeliver _ _ _ => false
  | .guestLoadDeliver _ _ _ => false
  | .rputWriteDeliver _ _ _ => false
  | .dspReadsComplete _ _ => false
  | .spinwReread _ _ => false
  | .dpollResultDeliver _ _ _ => false
  | .tgrabResultDeliver _ _ _ => false
  | .ringSlotDeliver _ _ _ => false
  | .streamElementArrive _ _ _ => false
  | .matrixProductStart _ => false
  | .narrowProductComplete _ => false
  | .slicedPassComplete _ => false
  | .bldComplete _ => false
  | .cblComplete _ => false
  | .drainResultDeliver _ => false
  | .mstatResultDeliver _ => false
  | .rqtJobComplete _ => false
  | .stagingRegisterWrite _ => false
  | .go _ => false
  | .jobStart _ => false
  | .jobRingClaim _ => false
  | .jobChunkComplete _ => false
  | .pageWalkComplete _ => false
  | .peerChunkAck _ => false
  | .jobComplete _ => false
  | .ladleChannelError _ _ => false
  | .rqtError _ => false
  | .ringStateError _ => false
  | .patrolScrub _ => false
  | .slipwayFlitRetry => false
  | .slipwayLinkFence => false
  | .towlineFlitRetry _ => false
  | .towlineLinkFence _ => false
  | .qtail _ _ => false
  | .registerBlockWrite _ _ _ => false
  | .launchRecord _ => false
  | .markerRecord _ => false
  | .patchActivation _ => false
  | .patchActivationComplete => false
  | .bindBlock _ => false
  | .bindRecord _ => false
  | .unbindNotice _ => false
  | .blockComplete _ => false
  | .windowOpenComplete _ _ => false
  | .engineStopAck _ _ _ => false
  | .preemptStallTimeout _ _ => false
  | .preemptQuantumExpiry _ => false
  | .queueHeadAging _ => false
  | .trapRecordPost _ => false
  | .serviceRequestPost _ => false
  | .serviceWarpRebind _ => false
  | .ringHeadRelease _ => false
  | .trapReplyResume _ => false
  | .trapReplyRedirect _ => false
  | .trapReplyAbort _ => false
  | .trapReplyChunkServiced _ => false
  | .trapReplyChunkFatal _ => false
  | .serviceReplyResume _ => false
  | .serviceReplyAbort _ => false
  | .windowOpen => false
  | .windowClose => false
  | .windowDescriptorRead => false
  | .ringDefine => false
  | .queueDefine => false
  | .translationRoot => false
  | .invalidate => false
  | .shadowPoolGrant => false
  | .contextSuspend => false
  | .contextResume => false
  | .slotReset => false
  | .statusRead => false
  | .firmwareLoad => false
  | .quote => false
  | .toluneDefine => false
  | .translationInstall => false
  | .traceSet => false
  | .comparatorSet => false
  | .warpStop => false
  | .peerBind => false
  | .contextDefine => false
  | .contextRelease => false
  | .stickyClear => false
  | .clockThrottle _ => false
  | .freezeN _ => false
  | .moduleReset => false
  | .powerOn => false
  | .powerLoss => false
  | .towlinePeerRequest _ _ _ _ => false
  | .peerFaultReturn _ _ => false
  | .towlineLinkTrained _ => false
  | .firmwareReady => false
  | .collectiveResultDeliver _ _ => false
  | .threadMoveComplete _ _ => false
  | .instructionCacheRefill _ _ => false

/-- The FP64 vector words (R98). -/
def Instr.vector64 : Instr → Bool
  | .nop _ => false
  | .runt _ _ _ _ => false
  | .ext _ => false
  | .bra _ _ => false
  | .bnz _ _ _ => false
  | .bz _ _ _ => false
  | .bltz _ _ _ => false
  | .bgez _ _ _ => false
  | .jpt _ _ => false
  | .rejoin _ => false
  | .call _ _ _ => false
  | .callr _ _ _ => false
  | .ret _ => false
  | .jmpr _ _ => false
  | .land _ => false
  | .exit _ => false
  | .svc _ _ => false
  | .trap _ _ => false
  | .brk _ _ => false
  | .spinw _ _ _ _ => false
  | .wbase _ _ _ => false
  | .rget _ _ _ => false
  | .rput _ _ _ => false
  | .add _ _ _ _ => false
  | .sub _ _ _ _ => false
  | .mul _ _ _ _ => false
  | .mulhs _ _ _ _ => false
  | .mulhu _ _ _ _ => false
  | .mad _ _ _ _ => false
  | .divs _ _ _ _ => false
  | .divu _ _ _ _ => false
  | .rems _ _ _ _ => false
  | .remu _ _ _ _ => false
  | .and _ _ _ _ => false
  | .or _ _ _ _ => false
  | .xor _ _ _ _ => false
  | .andn _ _ _ _ => false
  | .shl _ _ _ _ => false
  | .shr _ _ _ _ => false
  | .sar _ _ _ _ => false
  | .rol _ _ _ _ => false
  | .mins _ _ _ _ => false
  | .minu _ _ _ _ => false
  | .maxs _ _ _ _ => false
  | .maxu _ _ _ _ => false
  | .seq _ _ _ _ => false
  | .sne _ _ _ _ => false
  | .slt _ _ _ _ => false
  | .sltu _ _ _ _ => false
  | .sle _ _ _ _ => false
  | .sleu _ _ _ _ => false
  | .csel _ _ _ _ => false
  | .mov _ _ _ => false
  | .clz _ _ _ => false
  | .ctz _ _ _ => false
  | .popc _ _ _ => false
  | .brev _ _ _ => false
  | .abs _ _ _ => false
  | .bfxu _ _ _ _ => false
  | .bfxs _ _ _ _ => false
  | .bfi _ _ _ _ => false
  | .addi _ _ _ _ => false
  | .andi _ _ _ _ => false
  | .ori _ _ _ _ => false
  | .xori _ _ _ _ => false
  | .shli _ _ _ _ => false
  | .shri _ _ _ _ => false
  | .sari _ _ _ _ => false
  | .movi _ _ _ => false
  | .slti _ _ _ _ => false
  | .seqi _ _ _ _ => false
  | .lea1 _ _ _ _ => false
  | .lea2 _ _ _ _ => false
  | .lea4 _ _ _ _ => false
  | .lea8 _ _ _ _ => false
  | .add64 _ _ _ _ => false
  | .sub64 _ _ _ _ => false
  | .mulw _ _ _ _ => false
  | .sltu64 _ _ _ _ => false
  | .fadd _ _ _ _ => false
  | .fsub _ _ _ _ => false
  | .fmul _ _ _ _ => false
  | .ffma _ _ _ _ => false
  | .ffms _ _ _ _ => false
  | .fmin _ _ _ _ => false
  | .fmax _ _ _ _ => false
  | .fcps _ _ _ _ => false
  | .feq _ _ _ _ => false
  | .flt _ _ _ _ => false
  | .fle _ _ _ _ => false
  | .funo _ _ _ _ => false
  | .frcp _ _ _ => false
  | .frsq _ _ _ => false
  | .fsqrt _ _ _ => false
  | .fdiv _ _ _ _ => false
  | .fexp2 _ _ _ => false
  | .flog2 _ _ _ => false
  | .fsin _ _ _ => false
  | .fcos _ _ _ => false
  | .dadd _ _ _ _ => true
  | .dsub _ _ _ _ => true
  | .dmul _ _ _ _ => true
  | .dfma _ _ _ _ => true
  | .dmin _ _ _ _ => true
  | .dmax _ _ _ _ => true
  | .deq _ _ _ _ => true
  | .dlt _ _ _ _ => true
  | .dle _ _ _ _ => true
  | .ddiv _ _ _ _ => true
  | .dsqrt _ _ _ => true
  | .drcp _ _ _ => true
  | .hadd2 _ _ _ _ => false
  | .hmul2 _ _ _ _ => false
  | .hfma2 _ _ _ _ => false
  | .badd2 _ _ _ _ => false
  | .bmul2 _ _ _ _ => false
  | .bfma2 _ _ _ _ => false
  | .cvt _ _ _ _ => false
  | .cvtz _ _ _ _ => false
  | .fclass _ _ _ => false
  | .fldx _ _ _ _ => false
  | .frnd _ _ _ _ => false
  | .drnd _ _ _ _ => true
  | .fdot2 _ _ _ _ => false
  | .hdot2 _ _ _ _ => false
  | .packb _ _ _ _ => false
  | .packh _ _ _ _ => false
  | .ldb _ _ _ _ => false
  | .ldbs _ _ _ _ => false
  | .ldh _ _ _ _ => false
  | .ldhs _ _ _ _ => false
  | .ldw _ _ _ _ => false
  | .ldd _ _ _ _ => false
  | .ldq _ _ _ _ => false
  | .stb _ _ _ _ => false
  | .sth _ _ _ _ => false
  | .stw _ _ _ _ => false
  | .std _ _ _ _ => false
  | .stq _ _ _ _ => false
  | .ldo _ _ _ _ _ _ => false
  | .sto _ _ _ _ _ _ => false
  | .aadd _ _ _ _ _ _ => false
  | .aand _ _ _ _ _ _ => false
  | .aor _ _ _ _ _ _ => false
  | .axor _ _ _ _ _ _ => false
  | .amins _ _ _ _ _ _ => false
  | .aminu _ _ _ _ _ _ => false
  | .amaxs _ _ _ _ _ _ => false
  | .amaxu _ _ _ _ _ _ => false
  | .axch _ _ _ _ _ _ => false
  | .acas _ _ _ _ _ _ => false
  | .afxa _ _ _ _ _ _ => false
  | .afxr _ _ _ _ _ _ => false
  | .afxz _ _ _ _ _ => false
  | .fence _ _ _ => false
  | .tgrab _ _ _ => false
  | .tinit _ _ _ => false
  | .vote _ _ _ _ => false
  | .shfi _ _ _ _ => false
  | .shfu _ _ _ _ => false
  | .shfd _ _ _ _ => false
  | .shfx _ _ _ _ => false
  | .redf _ _ _ _ => false
  | .redi _ _ _ _ => false
  | .scni _ _ _ _ _ => false
  | .matchw _ _ _ => false
  | .elect _ _ => false
  | .qswz _ _ _ _ => false
  | .sbind _ _ _ _ => false
  | .spos _ _ _ _ _ => false
  | .qbind _ _ _ => false
  | .wspl _ _ => false
  | .wfil _ _ => false
  | .dsp _ _ => false
  | .gldb _ _ _ => false
  | .gldbs _ _ _ => false
  | .gldh _ _ _ => false
  | .gldhs _ _ _ => false
  | .gldw _ _ _ => false
  | .gadv _ _ => false
  | .gjmp _ _ => false
  | .gjrel _ _ => false
  | .gtrap _ _ => false
  | .bld _ _ _ _ => false
  | .cbl _ _ _ => false
  | .mma _ _ _ _ => false
  | .mmab _ _ _ _ => false
  | .mmas _ _ _ _ => false
  | .drn _ _ _ _ _ => false
  | .acz _ _ _ => false
  | .acl _ _ _ _ _ => false
  | .rqt _ _ _ _ => false
  | .mstat _ _ _ => false
  | .dwait _ _ _ => false
  | .dpoll _ _ _ => false
  | .drst _ _ => false
  | .rwait _ _ _ => false
  | .rrel _ _ => false
  | .rclm _ _ _ => false
  | .rcmt _ _ _ => false
  | .bar _ _ => false
  | .bara _ _ _ => false
  | .barw _ _ _ => false
  | .srd _ _ _ => false
  | .swr _ _ _ => false
  | .pcrd _ _ _ => false
  | .tmrk _ _ => false
  | .time _ _ => false
  | .toluneInstruction _ _ => false
  | .portRunChoice _ _ => false
  | .strayIssue _ _ => false
  | .strayPromotion _ _ => false
  | .gangAgingPromotion _ _ => false
  | .regroupHoldExpiry _ _ => false
  | .loopBufferRefill _ _ => false
  | .loadResultDeliver _ _ _ => false
  | .storePerformed _ => false
  | .atomicResultDeliver _ _ _ => false
  | .divideResultDeliver _ _ _ => false
  | .fdivResultDeliver _ _ _ => false
  | .guestLoadDeliver _ _ _ => false
  | .rputWriteDeliver _ _ _ => false
  | .dspReadsComplete _ _ => false
  | .spinwReread _ _ => false
  | .dpollResultDeliver _ _ _ => false
  | .tgrabResultDeliver _ _ _ => false
  | .ringSlotDeliver _ _ _ => false
  | .streamElementArrive _ _ _ => false
  | .matrixProductStart _ => false
  | .narrowProductComplete _ => false
  | .slicedPassComplete _ => false
  | .bldComplete _ => false
  | .cblComplete _ => false
  | .drainResultDeliver _ => false
  | .mstatResultDeliver _ => false
  | .rqtJobComplete _ => false
  | .stagingRegisterWrite _ => false
  | .go _ => false
  | .jobStart _ => false
  | .jobRingClaim _ => false
  | .jobChunkComplete _ => false
  | .pageWalkComplete _ => false
  | .peerChunkAck _ => false
  | .jobComplete _ => false
  | .ladleChannelError _ _ => false
  | .rqtError _ => false
  | .ringStateError _ => false
  | .patrolScrub _ => false
  | .slipwayFlitRetry => false
  | .slipwayLinkFence => false
  | .towlineFlitRetry _ => false
  | .towlineLinkFence _ => false
  | .qtail _ _ => false
  | .registerBlockWrite _ _ _ => false
  | .launchRecord _ => false
  | .markerRecord _ => false
  | .patchActivation _ => false
  | .patchActivationComplete => false
  | .bindBlock _ => false
  | .bindRecord _ => false
  | .unbindNotice _ => false
  | .blockComplete _ => false
  | .windowOpenComplete _ _ => false
  | .engineStopAck _ _ _ => false
  | .preemptStallTimeout _ _ => false
  | .preemptQuantumExpiry _ => false
  | .queueHeadAging _ => false
  | .trapRecordPost _ => false
  | .serviceRequestPost _ => false
  | .serviceWarpRebind _ => false
  | .ringHeadRelease _ => false
  | .trapReplyResume _ => false
  | .trapReplyRedirect _ => false
  | .trapReplyAbort _ => false
  | .trapReplyChunkServiced _ => false
  | .trapReplyChunkFatal _ => false
  | .serviceReplyResume _ => false
  | .serviceReplyAbort _ => false
  | .windowOpen => false
  | .windowClose => false
  | .windowDescriptorRead => false
  | .ringDefine => false
  | .queueDefine => false
  | .translationRoot => false
  | .invalidate => false
  | .shadowPoolGrant => false
  | .contextSuspend => false
  | .contextResume => false
  | .slotReset => false
  | .statusRead => false
  | .firmwareLoad => false
  | .quote => false
  | .toluneDefine => false
  | .translationInstall => false
  | .traceSet => false
  | .comparatorSet => false
  | .warpStop => false
  | .peerBind => false
  | .contextDefine => false
  | .contextRelease => false
  | .stickyClear => false
  | .clockThrottle _ => false
  | .freezeN _ => false
  | .moduleReset => false
  | .powerOn => false
  | .powerLoss => false
  | .towlinePeerRequest _ _ _ _ => false
  | .peerFaultReturn _ _ => false
  | .towlineLinkTrained _ => false
  | .firmwareReady => false
  | .collectiveResultDeliver _ _ => false
  | .threadMoveComplete _ _ => false
  | .instructionCacheRefill _ _ => false

/-- The collectives (R163). -/
def Instr.collective : Instr → Bool
  | .nop _ => false
  | .runt _ _ _ _ => false
  | .ext _ => false
  | .bra _ _ => false
  | .bnz _ _ _ => false
  | .bz _ _ _ => false
  | .bltz _ _ _ => false
  | .bgez _ _ _ => false
  | .jpt _ _ => false
  | .rejoin _ => false
  | .call _ _ _ => false
  | .callr _ _ _ => false
  | .ret _ => false
  | .jmpr _ _ => false
  | .land _ => false
  | .exit _ => false
  | .svc _ _ => false
  | .trap _ _ => false
  | .brk _ _ => false
  | .spinw _ _ _ _ => false
  | .wbase _ _ _ => false
  | .rget _ _ _ => false
  | .rput _ _ _ => false
  | .add _ _ _ _ => false
  | .sub _ _ _ _ => false
  | .mul _ _ _ _ => false
  | .mulhs _ _ _ _ => false
  | .mulhu _ _ _ _ => false
  | .mad _ _ _ _ => false
  | .divs _ _ _ _ => false
  | .divu _ _ _ _ => false
  | .rems _ _ _ _ => false
  | .remu _ _ _ _ => false
  | .and _ _ _ _ => false
  | .or _ _ _ _ => false
  | .xor _ _ _ _ => false
  | .andn _ _ _ _ => false
  | .shl _ _ _ _ => false
  | .shr _ _ _ _ => false
  | .sar _ _ _ _ => false
  | .rol _ _ _ _ => false
  | .mins _ _ _ _ => false
  | .minu _ _ _ _ => false
  | .maxs _ _ _ _ => false
  | .maxu _ _ _ _ => false
  | .seq _ _ _ _ => false
  | .sne _ _ _ _ => false
  | .slt _ _ _ _ => false
  | .sltu _ _ _ _ => false
  | .sle _ _ _ _ => false
  | .sleu _ _ _ _ => false
  | .csel _ _ _ _ => false
  | .mov _ _ _ => false
  | .clz _ _ _ => false
  | .ctz _ _ _ => false
  | .popc _ _ _ => false
  | .brev _ _ _ => false
  | .abs _ _ _ => false
  | .bfxu _ _ _ _ => false
  | .bfxs _ _ _ _ => false
  | .bfi _ _ _ _ => false
  | .addi _ _ _ _ => false
  | .andi _ _ _ _ => false
  | .ori _ _ _ _ => false
  | .xori _ _ _ _ => false
  | .shli _ _ _ _ => false
  | .shri _ _ _ _ => false
  | .sari _ _ _ _ => false
  | .movi _ _ _ => false
  | .slti _ _ _ _ => false
  | .seqi _ _ _ _ => false
  | .lea1 _ _ _ _ => false
  | .lea2 _ _ _ _ => false
  | .lea4 _ _ _ _ => false
  | .lea8 _ _ _ _ => false
  | .add64 _ _ _ _ => false
  | .sub64 _ _ _ _ => false
  | .mulw _ _ _ _ => false
  | .sltu64 _ _ _ _ => false
  | .fadd _ _ _ _ => false
  | .fsub _ _ _ _ => false
  | .fmul _ _ _ _ => false
  | .ffma _ _ _ _ => false
  | .ffms _ _ _ _ => false
  | .fmin _ _ _ _ => false
  | .fmax _ _ _ _ => false
  | .fcps _ _ _ _ => false
  | .feq _ _ _ _ => false
  | .flt _ _ _ _ => false
  | .fle _ _ _ _ => false
  | .funo _ _ _ _ => false
  | .frcp _ _ _ => false
  | .frsq _ _ _ => false
  | .fsqrt _ _ _ => false
  | .fdiv _ _ _ _ => false
  | .fexp2 _ _ _ => false
  | .flog2 _ _ _ => false
  | .fsin _ _ _ => false
  | .fcos _ _ _ => false
  | .dadd _ _ _ _ => false
  | .dsub _ _ _ _ => false
  | .dmul _ _ _ _ => false
  | .dfma _ _ _ _ => false
  | .dmin _ _ _ _ => false
  | .dmax _ _ _ _ => false
  | .deq _ _ _ _ => false
  | .dlt _ _ _ _ => false
  | .dle _ _ _ _ => false
  | .ddiv _ _ _ _ => false
  | .dsqrt _ _ _ => false
  | .drcp _ _ _ => false
  | .hadd2 _ _ _ _ => false
  | .hmul2 _ _ _ _ => false
  | .hfma2 _ _ _ _ => false
  | .badd2 _ _ _ _ => false
  | .bmul2 _ _ _ _ => false
  | .bfma2 _ _ _ _ => false
  | .cvt _ _ _ _ => false
  | .cvtz _ _ _ _ => false
  | .fclass _ _ _ => false
  | .fldx _ _ _ _ => false
  | .frnd _ _ _ _ => false
  | .drnd _ _ _ _ => false
  | .fdot2 _ _ _ _ => false
  | .hdot2 _ _ _ _ => false
  | .packb _ _ _ _ => false
  | .packh _ _ _ _ => false
  | .ldb _ _ _ _ => false
  | .ldbs _ _ _ _ => false
  | .ldh _ _ _ _ => false
  | .ldhs _ _ _ _ => false
  | .ldw _ _ _ _ => false
  | .ldd _ _ _ _ => false
  | .ldq _ _ _ _ => false
  | .stb _ _ _ _ => false
  | .sth _ _ _ _ => false
  | .stw _ _ _ _ => false
  | .std _ _ _ _ => false
  | .stq _ _ _ _ => false
  | .ldo _ _ _ _ _ _ => false
  | .sto _ _ _ _ _ _ => false
  | .aadd _ _ _ _ _ _ => false
  | .aand _ _ _ _ _ _ => false
  | .aor _ _ _ _ _ _ => false
  | .axor _ _ _ _ _ _ => false
  | .amins _ _ _ _ _ _ => false
  | .aminu _ _ _ _ _ _ => false
  | .amaxs _ _ _ _ _ _ => false
  | .amaxu _ _ _ _ _ _ => false
  | .axch _ _ _ _ _ _ => false
  | .acas _ _ _ _ _ _ => false
  | .afxa _ _ _ _ _ _ => false
  | .afxr _ _ _ _ _ _ => false
  | .afxz _ _ _ _ _ => false
  | .fence _ _ _ => false
  | .tgrab _ _ _ => false
  | .tinit _ _ _ => false
  | .vote _ _ _ _ => true
  | .shfi _ _ _ _ => true
  | .shfu _ _ _ _ => true
  | .shfd _ _ _ _ => true
  | .shfx _ _ _ _ => true
  | .redf _ _ _ _ => true
  | .redi _ _ _ _ => true
  | .scni _ _ _ _ _ => true
  | .matchw _ _ _ => true
  | .elect _ _ => false
  | .qswz _ _ _ _ => false
  | .sbind _ _ _ _ => false
  | .spos _ _ _ _ _ => false
  | .qbind _ _ _ => false
  | .wspl _ _ => false
  | .wfil _ _ => false
  | .dsp _ _ => false
  | .gldb _ _ _ => false
  | .gldbs _ _ _ => false
  | .gldh _ _ _ => false
  | .gldhs _ _ _ => false
  | .gldw _ _ _ => false
  | .gadv _ _ => false
  | .gjmp _ _ => false
  | .gjrel _ _ => false
  | .gtrap _ _ => false
  | .bld _ _ _ _ => false
  | .cbl _ _ _ => false
  | .mma _ _ _ _ => false
  | .mmab _ _ _ _ => false
  | .mmas _ _ _ _ => false
  | .drn _ _ _ _ _ => false
  | .acz _ _ _ => false
  | .acl _ _ _ _ _ => false
  | .rqt _ _ _ _ => false
  | .mstat _ _ _ => false
  | .dwait _ _ _ => false
  | .dpoll _ _ _ => false
  | .drst _ _ => false
  | .rwait _ _ _ => false
  | .rrel _ _ => false
  | .rclm _ _ _ => false
  | .rcmt _ _ _ => false
  | .bar _ _ => false
  | .bara _ _ _ => false
  | .barw _ _ _ => false
  | .srd _ _ _ => false
  | .swr _ _ _ => false
  | .pcrd _ _ _ => false
  | .tmrk _ _ => false
  | .time _ _ => false
  | .toluneInstruction _ _ => false
  | .portRunChoice _ _ => false
  | .strayIssue _ _ => false
  | .strayPromotion _ _ => false
  | .gangAgingPromotion _ _ => false
  | .regroupHoldExpiry _ _ => false
  | .loopBufferRefill _ _ => false
  | .loadResultDeliver _ _ _ => false
  | .storePerformed _ => false
  | .atomicResultDeliver _ _ _ => false
  | .divideResultDeliver _ _ _ => false
  | .fdivResultDeliver _ _ _ => false
  | .guestLoadDeliver _ _ _ => false
  | .rputWriteDeliver _ _ _ => false
  | .dspReadsComplete _ _ => false
  | .spinwReread _ _ => false
  | .dpollResultDeliver _ _ _ => false
  | .tgrabResultDeliver _ _ _ => false
  | .ringSlotDeliver _ _ _ => false
  | .streamElementArrive _ _ _ => false
  | .matrixProductStart _ => false
  | .narrowProductComplete _ => false
  | .slicedPassComplete _ => false
  | .bldComplete _ => false
  | .cblComplete _ => false
  | .drainResultDeliver _ => false
  | .mstatResultDeliver _ => false
  | .rqtJobComplete _ => false
  | .stagingRegisterWrite _ => false
  | .go _ => false
  | .jobStart _ => false
  | .jobRingClaim _ => false
  | .jobChunkComplete _ => false
  | .pageWalkComplete _ => false
  | .peerChunkAck _ => false
  | .jobComplete _ => false
  | .ladleChannelError _ _ => false
  | .rqtError _ => false
  | .ringStateError _ => false
  | .patrolScrub _ => false
  | .slipwayFlitRetry => false
  | .slipwayLinkFence => false
  | .towlineFlitRetry _ => false
  | .towlineLinkFence _ => false
  | .qtail _ _ => false
  | .registerBlockWrite _ _ _ => false
  | .launchRecord _ => false
  | .markerRecord _ => false
  | .patchActivation _ => false
  | .patchActivationComplete => false
  | .bindBlock _ => false
  | .bindRecord _ => false
  | .unbindNotice _ => false
  | .blockComplete _ => false
  | .windowOpenComplete _ _ => false
  | .engineStopAck _ _ _ => false
  | .preemptStallTimeout _ _ => false
  | .preemptQuantumExpiry _ => false
  | .queueHeadAging _ => false
  | .trapRecordPost _ => false
  | .serviceRequestPost _ => false
  | .serviceWarpRebind _ => false
  | .ringHeadRelease _ => false
  | .trapReplyResume _ => false
  | .trapReplyRedirect _ => false
  | .trapReplyAbort _ => false
  | .trapReplyChunkServiced _ => false
  | .trapReplyChunkFatal _ => false
  | .serviceReplyResume _ => false
  | .serviceReplyAbort _ => false
  | .windowOpen => false
  | .windowClose => false
  | .windowDescriptorRead => false
  | .ringDefine => false
  | .queueDefine => false
  | .translationRoot => false
  | .invalidate => false
  | .shadowPoolGrant => false
  | .contextSuspend => false
  | .contextResume => false
  | .slotReset => false
  | .statusRead => false
  | .firmwareLoad => false
  | .quote => false
  | .toluneDefine => false
  | .translationInstall => false
  | .traceSet => false
  | .comparatorSet => false
  | .warpStop => false
  | .peerBind => false
  | .contextDefine => false
  | .contextRelease => false
  | .stickyClear => false
  | .clockThrottle _ => false
  | .freezeN _ => false
  | .moduleReset => false
  | .powerOn => false
  | .powerLoss => false
  | .towlinePeerRequest _ _ _ _ => false
  | .peerFaultReturn _ _ => false
  | .towlineLinkTrained _ => false
  | .firmwareReady => false
  | .collectiveResultDeliver _ _ => false
  | .threadMoveComplete _ _ => false
  | .instructionCacheRefill _ _ => false

/-- The words that need the Crucible (R186, R187). -/
def Instr.matrix : Instr → Bool
  | .nop _ => false
  | .runt _ _ _ _ => false
  | .ext _ => false
  | .bra _ _ => false
  | .bnz _ _ _ => false
  | .bz _ _ _ => false
  | .bltz _ _ _ => false
  | .bgez _ _ _ => false
  | .jpt _ _ => false
  | .rejoin _ => false
  | .call _ _ _ => false
  | .callr _ _ _ => false
  | .ret _ => false
  | .jmpr _ _ => false
  | .land _ => false
  | .exit _ => false
  | .svc _ _ => false
  | .trap _ _ => false
  | .brk _ _ => false
  | .spinw _ _ _ _ => false
  | .wbase _ _ _ => false
  | .rget _ _ _ => false
  | .rput _ _ _ => false
  | .add _ _ _ _ => false
  | .sub _ _ _ _ => false
  | .mul _ _ _ _ => false
  | .mulhs _ _ _ _ => false
  | .mulhu _ _ _ _ => false
  | .mad _ _ _ _ => false
  | .divs _ _ _ _ => false
  | .divu _ _ _ _ => false
  | .rems _ _ _ _ => false
  | .remu _ _ _ _ => false
  | .and _ _ _ _ => false
  | .or _ _ _ _ => false
  | .xor _ _ _ _ => false
  | .andn _ _ _ _ => false
  | .shl _ _ _ _ => false
  | .shr _ _ _ _ => false
  | .sar _ _ _ _ => false
  | .rol _ _ _ _ => false
  | .mins _ _ _ _ => false
  | .minu _ _ _ _ => false
  | .maxs _ _ _ _ => false
  | .maxu _ _ _ _ => false
  | .seq _ _ _ _ => false
  | .sne _ _ _ _ => false
  | .slt _ _ _ _ => false
  | .sltu _ _ _ _ => false
  | .sle _ _ _ _ => false
  | .sleu _ _ _ _ => false
  | .csel _ _ _ _ => false
  | .mov _ _ _ => false
  | .clz _ _ _ => false
  | .ctz _ _ _ => false
  | .popc _ _ _ => false
  | .brev _ _ _ => false
  | .abs _ _ _ => false
  | .bfxu _ _ _ _ => false
  | .bfxs _ _ _ _ => false
  | .bfi _ _ _ _ => false
  | .addi _ _ _ _ => false
  | .andi _ _ _ _ => false
  | .ori _ _ _ _ => false
  | .xori _ _ _ _ => false
  | .shli _ _ _ _ => false
  | .shri _ _ _ _ => false
  | .sari _ _ _ _ => false
  | .movi _ _ _ => false
  | .slti _ _ _ _ => false
  | .seqi _ _ _ _ => false
  | .lea1 _ _ _ _ => false
  | .lea2 _ _ _ _ => false
  | .lea4 _ _ _ _ => false
  | .lea8 _ _ _ _ => false
  | .add64 _ _ _ _ => false
  | .sub64 _ _ _ _ => false
  | .mulw _ _ _ _ => false
  | .sltu64 _ _ _ _ => false
  | .fadd _ _ _ _ => false
  | .fsub _ _ _ _ => false
  | .fmul _ _ _ _ => false
  | .ffma _ _ _ _ => false
  | .ffms _ _ _ _ => false
  | .fmin _ _ _ _ => false
  | .fmax _ _ _ _ => false
  | .fcps _ _ _ _ => false
  | .feq _ _ _ _ => false
  | .flt _ _ _ _ => false
  | .fle _ _ _ _ => false
  | .funo _ _ _ _ => false
  | .frcp _ _ _ => false
  | .frsq _ _ _ => false
  | .fsqrt _ _ _ => false
  | .fdiv _ _ _ _ => false
  | .fexp2 _ _ _ => false
  | .flog2 _ _ _ => false
  | .fsin _ _ _ => false
  | .fcos _ _ _ => false
  | .dadd _ _ _ _ => false
  | .dsub _ _ _ _ => false
  | .dmul _ _ _ _ => false
  | .dfma _ _ _ _ => false
  | .dmin _ _ _ _ => false
  | .dmax _ _ _ _ => false
  | .deq _ _ _ _ => false
  | .dlt _ _ _ _ => false
  | .dle _ _ _ _ => false
  | .ddiv _ _ _ _ => false
  | .dsqrt _ _ _ => false
  | .drcp _ _ _ => false
  | .hadd2 _ _ _ _ => false
  | .hmul2 _ _ _ _ => false
  | .hfma2 _ _ _ _ => false
  | .badd2 _ _ _ _ => false
  | .bmul2 _ _ _ _ => false
  | .bfma2 _ _ _ _ => false
  | .cvt _ _ _ _ => false
  | .cvtz _ _ _ _ => false
  | .fclass _ _ _ => false
  | .fldx _ _ _ _ => false
  | .frnd _ _ _ _ => false
  | .drnd _ _ _ _ => false
  | .fdot2 _ _ _ _ => false
  | .hdot2 _ _ _ _ => false
  | .packb _ _ _ _ => false
  | .packh _ _ _ _ => false
  | .ldb _ _ _ _ => false
  | .ldbs _ _ _ _ => false
  | .ldh _ _ _ _ => false
  | .ldhs _ _ _ _ => false
  | .ldw _ _ _ _ => false
  | .ldd _ _ _ _ => false
  | .ldq _ _ _ _ => false
  | .stb _ _ _ _ => false
  | .sth _ _ _ _ => false
  | .stw _ _ _ _ => false
  | .std _ _ _ _ => false
  | .stq _ _ _ _ => false
  | .ldo _ _ _ _ _ _ => false
  | .sto _ _ _ _ _ _ => false
  | .aadd _ _ _ _ _ _ => false
  | .aand _ _ _ _ _ _ => false
  | .aor _ _ _ _ _ _ => false
  | .axor _ _ _ _ _ _ => false
  | .amins _ _ _ _ _ _ => false
  | .aminu _ _ _ _ _ _ => false
  | .amaxs _ _ _ _ _ _ => false
  | .amaxu _ _ _ _ _ _ => false
  | .axch _ _ _ _ _ _ => false
  | .acas _ _ _ _ _ _ => false
  | .afxa _ _ _ _ _ _ => false
  | .afxr _ _ _ _ _ _ => false
  | .afxz _ _ _ _ _ => false
  | .fence _ _ _ => false
  | .tgrab _ _ _ => false
  | .tinit _ _ _ => false
  | .vote _ _ _ _ => false
  | .shfi _ _ _ _ => false
  | .shfu _ _ _ _ => false
  | .shfd _ _ _ _ => false
  | .shfx _ _ _ _ => false
  | .redf _ _ _ _ => false
  | .redi _ _ _ _ => false
  | .scni _ _ _ _ _ => false
  | .matchw _ _ _ => false
  | .elect _ _ => false
  | .qswz _ _ _ _ => false
  | .sbind _ _ _ _ => false
  | .spos _ _ _ _ _ => false
  | .qbind _ _ _ => false
  | .wspl _ _ => false
  | .wfil _ _ => false
  | .dsp _ _ => false
  | .gldb _ _ _ => false
  | .gldbs _ _ _ => false
  | .gldh _ _ _ => false
  | .gldhs _ _ _ => false
  | .gldw _ _ _ => false
  | .gadv _ _ => false
  | .gjmp _ _ => false
  | .gjrel _ _ => false
  | .gtrap _ _ => false
  | .bld _ _ _ _ => true
  | .cbl _ _ _ => true
  | .mma _ _ _ _ => true
  | .mmab _ _ _ _ => true
  | .mmas _ _ _ _ => true
  | .drn _ _ _ _ _ => true
  | .acz _ _ _ => true
  | .acl _ _ _ _ _ => true
  | .rqt _ _ _ _ => false
  | .mstat _ _ _ => true
  | .dwait _ _ _ => false
  | .dpoll _ _ _ => false
  | .drst _ _ => false
  | .rwait _ _ _ => false
  | .rrel _ _ => false
  | .rclm _ _ _ => false
  | .rcmt _ _ _ => false
  | .bar _ _ => false
  | .bara _ _ _ => false
  | .barw _ _ _ => false
  | .srd _ _ _ => false
  | .swr _ _ _ => false
  | .pcrd _ _ _ => false
  | .tmrk _ _ => false
  | .time _ _ => false
  | .toluneInstruction _ _ => false
  | .portRunChoice _ _ => false
  | .strayIssue _ _ => false
  | .strayPromotion _ _ => false
  | .gangAgingPromotion _ _ => false
  | .regroupHoldExpiry _ _ => false
  | .loopBufferRefill _ _ => false
  | .loadResultDeliver _ _ _ => false
  | .storePerformed _ => false
  | .atomicResultDeliver _ _ _ => false
  | .divideResultDeliver _ _ _ => false
  | .fdivResultDeliver _ _ _ => false
  | .guestLoadDeliver _ _ _ => false
  | .rputWriteDeliver _ _ _ => false
  | .dspReadsComplete _ _ => false
  | .spinwReread _ _ => false
  | .dpollResultDeliver _ _ _ => false
  | .tgrabResultDeliver _ _ _ => false
  | .ringSlotDeliver _ _ _ => false
  | .streamElementArrive _ _ _ => false
  | .matrixProductStart _ => false
  | .narrowProductComplete _ => false
  | .slicedPassComplete _ => false
  | .bldComplete _ => false
  | .cblComplete _ => false
  | .drainResultDeliver _ => false
  | .mstatResultDeliver _ => false
  | .rqtJobComplete _ => false
  | .stagingRegisterWrite _ => false
  | .go _ => false
  | .jobStart _ => false
  | .jobRingClaim _ => false
  | .jobChunkComplete _ => false
  | .pageWalkComplete _ => false
  | .peerChunkAck _ => false
  | .jobComplete _ => false
  | .ladleChannelError _ _ => false
  | .rqtError _ => false
  | .ringStateError _ => false
  | .patrolScrub _ => false
  | .slipwayFlitRetry => false
  | .slipwayLinkFence => false
  | .towlineFlitRetry _ => false
  | .towlineLinkFence _ => false
  | .qtail _ _ => false
  | .registerBlockWrite _ _ _ => false
  | .launchRecord _ => false
  | .markerRecord _ => false
  | .patchActivation _ => false
  | .patchActivationComplete => false
  | .bindBlock _ => false
  | .bindRecord _ => false
  | .unbindNotice _ => false
  | .blockComplete _ => false
  | .windowOpenComplete _ _ => false
  | .engineStopAck _ _ _ => false
  | .preemptStallTimeout _ _ => false
  | .preemptQuantumExpiry _ => false
  | .queueHeadAging _ => false
  | .trapRecordPost _ => false
  | .serviceRequestPost _ => false
  | .serviceWarpRebind _ => false
  | .ringHeadRelease _ => false
  | .trapReplyResume _ => false
  | .trapReplyRedirect _ => false
  | .trapReplyAbort _ => false
  | .trapReplyChunkServiced _ => false
  | .trapReplyChunkFatal _ => false
  | .serviceReplyResume _ => false
  | .serviceReplyAbort _ => false
  | .windowOpen => false
  | .windowClose => false
  | .windowDescriptorRead => false
  | .ringDefine => false
  | .queueDefine => false
  | .translationRoot => false
  | .invalidate => false
  | .shadowPoolGrant => false
  | .contextSuspend => false
  | .contextResume => false
  | .slotReset => false
  | .statusRead => false
  | .firmwareLoad => false
  | .quote => false
  | .toluneDefine => false
  | .translationInstall => false
  | .traceSet => false
  | .comparatorSet => false
  | .warpStop => false
  | .peerBind => false
  | .contextDefine => false
  | .contextRelease => false
  | .stickyClear => false
  | .clockThrottle _ => false
  | .freezeN _ => false
  | .moduleReset => false
  | .powerOn => false
  | .powerLoss => false
  | .towlinePeerRequest _ _ _ _ => false
  | .peerFaultReturn _ _ => false
  | .towlineLinkTrained _ => false
  | .firmwareReady => false
  | .collectiveResultDeliver _ _ => false
  | .threadMoveComplete _ _ => false
  | .instructionCacheRefill _ _ => false

/-- The draw units of a heavy word (R161). -/
def Instr.drawUnits (i : Instr) : Nat :=
  match i with
  | .mma _ _ _ _ | .mmab _ _ _ _ => 32
  | .mmas _ _ _ _ => 40
  | _ => if i.vector64 then 8 else 0

end Sys2Proof
end

