-- ==== Sys2Proof/Machine/Mould.lean ====
section
/-!
DEFINITION. The Mould (R319 to R326): slots that claim words or faults, the words a REWRITE substitutes, the routine
frame of EMULATE and REDIRECT, and the fates of faulting lanes and illegal words with the Mould's claim considered.
-/

namespace Sys2Proof.Machine

/-! ## Slots -/

def MouldSlot.word (s : MouldSlot) (n : Nat) : Word := s.getD n 0
def MouldSlot.valid (s : MouldSlot) : Bool := (s.word 2).getLsbD 31
def MouldSlot.event (s : MouldSlot) : Bool := (s.word 2).getLsbD 30
def MouldSlot.form (s : MouldSlot) : Nat := ((s.word 2).extractLsb' 28 2).toNat
def MouldSlot.xq (s : MouldSlot) : Nat := ((s.word 2).extractLsb' 26 2).toNat
def MouldSlot.prio (s : MouldSlot) : Nat := ((s.word 2).extractLsb' 22 4).toNat
def MouldSlot.action (s : MouldSlot) : Nat := ((s.word 2).extractLsb' 19 3).toNat
def MouldSlot.templates (s : MouldSlot) : Nat := ((s.word 2).extractLsb' 17 2).toNat
def MouldSlot.keepExt (s : MouldSlot) : Bool := (s.word 2).getLsbD 16
def MouldSlot.admits (s : MouldSlot) (cls : Nat) : Bool := (s.word 2).getLsbD cls
def MouldSlot.target (s : MouldSlot) : Word := s.word 3
/-- The program-trap code of TRAP and ESCALATE (R322, R326). -/
def MouldSlot.code (s : MouldSlot) : Dword := ((s.word 3).extractLsb' 0 14).setWidth 64

/-- The form of a slot admits native or Tolune code (R319). -/
def MouldSlot.formAdmits (s : MouldSlot) (tolune : Bool) : Bool := s.form == 2 || s.form == (if tolune then 1 else 0)

/-- A word slot matches a word (R320). -/
def MouldSlot.matchesWord (s : MouldSlot) (w : Word) (tolune ext : Bool) (cls : Nat) : Bool :=
  s.valid && !s.event && (w &&& s.word 1 == s.word 0 &&& s.word 1) && s.formAdmits tolune &&
    (s.xq == 0 || s.xq == (if ext then 2 else 1)) && s.admits cls

/-- An event slot matches a fault of a class on an opcode (R325). -/
def MouldSlot.matchesFault (s : MouldSlot) (fault opcode : Nat) (tolune : Bool) (cls : Nat) : Bool :=
  let x : Word := BitVec.ofNat 32 (fault % 16 * 256 + opcode % 256)
  s.valid && s.event && (x &&& s.word 1 == s.word 0 &&& s.word 1) && s.formAdmits tolune && s.admits cls

/-- The slot of highest priority, the lower number on a tie (R320). -/
def bestSlot : List MouldSlot → Option MouldSlot
  | [] => none
  | s :: r =>
    match bestSlot r with
    | none => some s
    | some x => if s.prio < x.prio then some x else some s

/-- The bank's slot that claims a word; an EXT is never matched alone (R320). -/
def Chip.wordSlot (c : Chip) (w rid : Nat) (x : Word) : Option MouldSlot :=
  let wp := c.warp w
  let run := wp.run rid
  if run.emul.isSome || run.substFor.isSome || (!run.tolune && x.extractLsb' 24 8 == 2#8) then none
  else bestSlot ((Sparse.get MouldBank.empty c.banks run.bank).slots.filter fun s =>
    s.matchesWord x run.tolune run.ext.isSome (c.launch wp.launch).cls)

/-- The opcode byte of a word as the Mould sees it: byte 3 in both forms (R320). -/
def opcodeOf (x : Word) : Nat := (x.extractLsb' 24 8).toNat

/-- The bank's slot that claims a fault (R325); a word the Mould put there is not matched again. -/
def Chip.faultSlot (c : Chip) (w rid : Nat) (fault : Nat) : Option MouldSlot :=
  let wp := c.warp w
  let run := wp.run rid
  if run.emul.isSome || run.substFor.isSome then none
  else bestSlot ((Sparse.get MouldBank.empty c.banks run.bank).slots.filter fun s =>
    s.matchesFault fault (opcodeOf run.raw) run.tolune (c.launch wp.launch).cls)

/-! ## Fetch -/

/-- The base of resident code (R324). -/
def residentBase : Nat := 0xFF800000

/-- A word of resident code of a bank, as far as its code goes. -/
def Chip.residentWord (c : Chip) (bank : Nat) (a : Word) : Option Word :=
  (Sparse.get MouldBank.empty c.banks bank).code[(a.toNat - residentBase) / 4]?

/-- The word at a local address with whether it is poisoned, or the violation code and address (R45 step 1). -/
def Chip.fetch (c : Chip) (w : Nat) (a : Word) : Except (Nat × Word) (Word × Bool) :=
  match c.check w .fetch true true a 4 with
  | some f => .error f
  | none =>
    let wp := c.warp w
    let bs := (List.range 4).map fun i => c.readByte wp.context wp.launch wp.block (a + BitVec.ofNat 32 i)
    .ok (BitVec.ofNat 32 (numOfBytes (bs.map (·.1))), bs.any (·.2))

/-- Tolune bytes as the Mould and a record name them: byte 0 first (R320). -/
def toluneOrder (x : Word) : Word :=
  x.extractLsb' 0 8 ++ x.extractLsb' 8 8 ++ x.extractLsb' 16 8 ++ x.extractLsb' 24 8

/-- The decoding of a fetched word in the mode of its group. -/
def decodeIn (tolune : Bool) (x : Word) : Except Reason Instr := if tolune then decodeTolune x else decodeNative x

/-- The word at a target is `land`, at a multiple of 4, in a window with x (R40). -/
def Chip.landAt (c : Chip) (w : Nat) (tolune : Bool) (a : Word) : Bool :=
  a.extractLsb' 0 2 == 0 &&
    match c.fetch w a with
    | .error _ => false
    | .ok (x, _) => match decodeIn tolune x with
      | .ok (.land _) => true
      | _ => false

/-- The word at an address is a trailer. -/
def Chip.trailerAt (c : Chip) (w : Nat) (a : Word) : Bool :=
  match c.fetch w a with
  | .error _ => false
  | .ok (x, _) => x.extractLsb' 24 8 == 1#8

/-- The first word after the next trailer from an address on (R39). -/
def Chip.afterTrailer (c : Chip) (w : Nat) : Nat → Word → Word
  | 0, a => a
  | n + 1, a => if c.trailerAt w a then a + 4 else c.afterTrailer w n (a + 4)

/-- Where a group goes on after a trap of the Mould on its present word: behind the run's trailer (R322, R326), or at the
next instruction of Tolune code. -/
def Chip.afterTrap (c : Chip) (w : Nat) (run : Run) : Word := if run.tolune then run.pc + 4 else c.afterTrailer w 24 run.pc

/-- The trailer before an address carries the entry flag (R31, R41). -/
def Chip.entryFlag (c : Chip) (w : Nat) (a : Word) : Bool :=
  match c.fetch w (a - 4) with
  | .error _ => false
  | .ok (x, _) => x.extractLsb' 24 8 == 1#8 && x.getLsbD 0

/-- Lanes park on a trap of the Mould at the present word of their run (R322, R326): they resume behind the run's trailer,
whose entry flag marks their next run. -/
def Chip.parkMould (c : Chip) (w rid : Nat) (ls : List Nat) (s : MouldSlot) : Chip :=
  let run := (c.warp w).run rid
  let next := c.afterTrap w run
  let entry := !run.tolune && c.entryFlag w next
  let c := c.park w ls run.npc run.raw 0 0 s.code 0 0 (fun _ => run.waits) fun _ => next
  c.modWarp w fun wp =>
    let wp := wp.mapLanes ls fun _ t => { t.passHalt run.npc with entryNext := entry }
    Warp.settleRuns { wp with runs := dropMask wp.runs (maskOf ls) }

/-! ## Substitution -/

/-- One template word (R323). -/
def templateWord (t orig : Word) (sel : BitVec 7) : Word :=
  let field (k : BitVec 2) (own : BitVec 7) : BitVec 7 :=
    if k = 0 then own
    else if k = 1 then orig.extractLsb' 17 7
    else if k = 2 then orig.extractLsb' 10 7
    else orig.extractLsb' 3 7
  let s : BitVec 3 := if sel.getLsbD 0 then orig.extractLsb' 0 3 else t.extractLsb' 0 3
  t.extractLsb' 24 8 ++ field (sel.extractLsb' 5 2) (t.extractLsb' 17 7) ++
    field (sel.extractLsb' 3 2) (t.extractLsb' 10 7) ++ field (sel.extractLsb' 1 2) (t.extractLsb' 3 7) ++ s

/-- One template instruction for Tolune, in the order opcode first (R323). -/
def templateTolune (t orig : Word) (sel : BitVec 7) : Word :=
  let field (k : BitVec 2) (own : BitVec 8) : BitVec 8 :=
    if k = 0 then own
    else if k = 1 then orig.extractLsb' 16 8
    else if k = 2 then orig.extractLsb' 8 8
    else orig.extractLsb' 0 8
  t.extractLsb' 24 8 ++ field (sel.extractLsb' 5 2) (t.extractLsb' 16 8) ++
    field (sel.extractLsb' 3 2) (t.extractLsb' 8 8) ++ field (sel.extractLsb' 1 2) (t.extractLsb' 0 8)

/-- The words that replace a claimed word (R323). -/
def MouldSlot.rewrite (s : MouldSlot) (x : Word) (tolune : Bool) : List Word :=
  let f := if tolune then templateTolune else templateWord
  [f (s.word 5) x ((s.word 7).extractLsb' 0 7), f (s.word 6) x ((s.word 7).extractLsb' 8 7)].take s.templates

/-- The claimed word gives way to the template words, which stand at its place in the run (R323). -/
def Chip.startRewrite (c : Chip) (w rid : Nat) (s : MouldSlot) (x : Word) : Chip :=
  c.modWarp w fun wp => wp.modRun rid fun r =>
    { r with
      subst := s.rewrite x r.tolune
      substFor := some (r.pc, x)
      body := if r.ext.isSome then r.body - 1 else r.body
      ext := if s.keepExt then r.ext else none }

/-! ## Routines -/

/-- The value of a register for the frame: 0 when it names none, so at W or more in native code (R324, R51). -/
def Warp.frameVal (wp : Warp) (tolune : Bool) (t : Thread) (r : Reg) : Val :=
  if r.toNat < (if tolune then wp.alloc else window wp.alloc) then t.cellVal (wp.cell tolune t r) else ⟨0, false⟩

/-- The D, A and B fields of a claimed word: bytes 1 to 3 of a Tolune instruction (R323). -/
def claimedFields (tolune : Bool) (x : Word) : Reg × Reg × Reg :=
  if tolune then (x.extractLsb' 16 8, x.extractLsb' 8 8, x.extractLsb' 0 8)
  else ((x.extractLsb' 17 7).setWidth 8, (x.extractLsb' 10 7).setWidth 8, (x.extractLsb' 3 7).setWidth 8)

/-- The results still to come for a lane, each at the cell that f gives in place of its own, or dropped. -/
def Thread.redirectPending (t : Thread) (f : Nat → Option Nat) : Thread :=
  { t with
    pend := t.pend.map fun p => { p with cells := p.cells.filterMap fun e => (f e.1).map fun k => (k, e.2) }
    fix := t.fix.filterMap fun x => (f x.cell).map fun k => { x with cell := k } }

/-- Where a result for a cell goes while a routine runs, and once it has run (R324): the temporaries of the claimed run are
kept aside, and those of the routine are dead afterwards. -/
def tempAside (k : Nat) : Option Nat := if 768 ≤ k ∧ k < 776 then none else if 256 ≤ k ∧ k < 264 then some (k + 512) else some k
def tempBack (k : Nat) : Option Nat := if 256 ≤ k ∧ k < 264 then none else if 768 ≤ k ∧ k < 776 then some (k - 512) else some k

/-- The collective results still to come for a run's lanes, each at the cell that f gives in place of its own. -/
def Warp.redirectColls (wp : Warp) (rid : Nat) (f : Nat → Option Nat) : Warp :=
  let m := (wp.run rid).lanes
  { wp.modRun rid (fun r => { r with collCells := r.collCells.filterMap fun k => (f (k % 1024)).map (k / 1024 * 1024 + ·) }) with
    colls := wp.colls.map fun x => { x with
      dest := x.dest.map fun e => if m.getLsbD e.1 then (e.1, e.2.map fun k => (f k).getD noCell) else e } }

/-- A lane's temporaries on entry to a routine (R324); its own are kept aside, with the results still to come for them. -/
def Warp.frame (wp : Warp) (tolune : Bool) (t : Thread) (x npc arg : Word) (ext : Option (BitVec 21)) : Thread :=
  let (d, a, b) := claimedFields tolune x
  let low (r : Reg) : BitVec 7 := r.setWidth 7
  let kept := (List.range 8).map fun j => (768 + j, t.cellVal (256 + j))
  let clean (v : Word) : Val := ⟨v, false⟩
  let flag : BitVec 1 := if ext.isSome then 1 else 0
  let frame : Sparse Val :=
    [(256, clean x), (257, clean npc), (258, wp.frameVal tolune t a), (259, wp.frameVal tolune t b), (260, wp.frameVal tolune t d),
      (261, clean (flag ++ (0 : BitVec 8) ++ low d ++ (0 : BitVec 1) ++ low a ++ (0 : BitVec 1) ++ low b)),
      (262, clean ((ext.getD 0).setWidth 32)), (263, clean arg)]
  (t.redirectPending tempAside).setCells (kept ++ frame)

/-- The temporaries kept aside come back (R324). -/
def restoreTemps (t : Thread) : Thread :=
  (t.redirectPending tempBack).setCells ((List.range 8).map fun j => (256 + j, t.cellVal (768 + j)))

/-- A run enters a routine of resident code in place of its present word (R324, R326), once the registers of its frame are
ready (R154). The routine is native code, and
the lanes of Tolune code go on in it as one run; their mode stays (R368). -/
def Chip.startRoutine (c : Chip) (w rid : Nat) (s : MouldSlot) (redirect : Bool) : Chip :=
  let wp := c.warp w
  let run := wp.run rid
  let ready := (wp.active run).flatMap fun l =>
    let t := wp.thread l
    let (d, a, b) := claimedFields run.tolune run.raw
    (t.fix.filter fun f => ([d, a, b].map (wp.cell run.tolune t)).contains f.cell).map (·.ready)
  let e : Emul :=
    { word := run.raw, npc := run.pc, ext := run.ext, stall := run.raw.extractLsb' 0 3, tw := run.tw, body := run.body
      next := run.pc + 4, last := c.trailerAt w (run.pc + 4), redirect := redirect }
  c.modWarp w fun wp =>
    let wp := wp.mapLanes (wp.active run) fun _ t => wp.frame run.tolune t run.raw run.pc (s.word 4) run.ext
    (wp.redirectColls rid tempAside).modRun rid fun r =>
      { r with
        emul := some e, pc := BitVec.ofNat 32 residentBase + s.target, body := 0, tw := 255, ext := none
        ended := false, tolune := false, nextAt := ready.foldl max r.nextAt }

/-! ## Fates -/

/-- Lanes that a fault would stop, with what each stop reports. -/
abbrev LaneStops := List (Nat × Stop)

/-- Takes lanes out of a run and gives them a run of their own at the same word. -/
def Chip.splitRun (c : Chip) (w rid : Nat) (m : Mask) : Nat × Chip :=
  let run := (c.warp w).run rid
  let (n, c) := c.fresh
  (n, c.modWarp w fun wp =>
    let wp := { wp with runs := Sparse.put wp.runs n { run with lanes := m } }
    let wp := wp.modRun rid fun r => { r with lanes := r.lanes &&& ~~~m }
    { wp with runs := wp.runs.filter fun (_, r) => r.lanes != 0 })

/-- The class under which the Mould matches a stop cause (R325). -/
def faultClass (cause : Nat) : Option Nat :=
  if cause = 2 then some 1 else if cause = 3 then some 2 else if cause = 4 then some 3 else none

/-- The fate of lanes that fault on the present word of a run (R66, R326): each stops, unless the Mould redirects them
to a routine or parks them for the host. The lanes all fault with the same cause. -/
def Chip.faultLanes (c : Chip) (w rid : Nat) (fs : LaneStops) : Chip :=
  let run := (c.warp w).run rid
  match fs with
  | [] => c
  | (_, x) :: _ =>
    match (faultClass x.cause).bind (c.faultSlot w rid) with
    | some s =>
      let m := maskOf (fs.map (·.1))
      if s.action = 3 then
        let (n, c) := c.splitRun w rid m
        c.startRoutine w n s true
      else
        c.parkMould w rid m.lanes s
    | none => fs.foldl (fun c (f : Nat × Stop) => c.stopThread w f.1 run.npc run.raw f.2) c

/-- The reasons the Mould may claim (R325). -/
def claimable : Reason → Bool
  | .reservedOpcode | .patchOpcode | .reservedField | .illegalOrder | .illegalUse => true
  | .extMisuse | .bodyTooLong | .runEndNotLast | .emptyRun | .temporaryUnwritten | .notInTolune => false

/-- The fate of an illegal word (R46, R326): the warp is killed, unless the Mould redirects the group to a routine or
parks it for the host. -/
def Chip.illegal (c : Chip) (w rid : Nat) (r : Reason) : Chip :=
  let wp := c.warp w
  let run := wp.run rid
  match (if claimable r then c.faultSlot w rid 0 else none) with
  | some s =>
    if s.action = 3 then c.startRoutine w rid s true
    else c.parkMould w rid (wp.active run) s
  | none => c.killWarp w run.npc run.raw (wp.thread (run.lanes.lanes.headD 0)).rentry r

/-! ## Faults of words that have issued -/

/-- The slot that claims a fault of a word that lanes issued earlier: of the bank that their warp's runs have now (R325; log
entry 114). -/
def Chip.lateSlot (c : Chip) (w : Nat) (raw : Word) (tolune : Bool) (fault : Nat) : Option MouldSlot :=
  let wp := c.warp w
  bestSlot ((Sparse.get MouldBank.empty c.banks wp.pbank).slots.filter fun s =>
    s.matchesFault fault (opcodeOf raw) tolune (c.launch wp.launch).cls)

/-- Lanes of a warp in runs of their own, which stand at a word that they issued earlier. -/
def Chip.runsAt (c : Chip) (w : Nat) (m : Mask) (npc raw : Word) : List Nat × Chip :=
  let wp := c.warp w
  let (ns, c) := (wp.runs.filter fun r => r.2.lanes &&& m != 0).foldl (fun (acc : List Nat × Chip) r =>
    let (n, c) := acc.2.splitRun w r.1 (r.2.lanes &&& m)
    (acc.1 ++ [n], c)) ([], c)
  let rest := m &&& ~~~wp.inRun
  let (n, c) := c.fresh
  let t := wp.thread (rest.lanes.headD 0)
  let own : Run := { Run.blank with
    lanes := rest, stray := t.stray, tolune := t.tolune, entry := t.pc, bank := wp.pbank, gen := wp.pgen, nextAt := c.cycle, since := c.cycle }
  let c := if rest = 0 then c else c.modWarp w fun wp => { wp with runs := Sparse.put wp.runs n own }
  let ns := if rest = 0 then ns else ns ++ [n]
  (ns, c.modWarp w fun wp => ns.foldl (fun wp n => wp.modRun n fun r =>
    { r with pc := npc, ext := none, words := [raw], subst := [], substFor := none, emul := none, icWait := false }) wp)

/-- Lanes go on in a routine for the fault of a word that they issued earlier (R326). -/
def Chip.lateRoutine (c : Chip) (w : Nat) (m : Mask) (npc raw : Word) (s : MouldSlot) : Chip :=
  let (ns, c) := c.runsAt w m npc raw
  ns.foldl (fun c n => c.startRoutine w n s true) c

/-- Lanes park for the host on the fault of a word that they issued earlier (R326): one at a run boundary resumes where it
stands, one within a run at its region entry (log entry 114). -/
def Chip.latePark (c : Chip) (w : Nat) (m : Mask) (npc raw : Word) (s : MouldSlot) : Chip :=
  let wp := c.warp w
  let inside := m &&& wp.inRun
  let runOf (l : Nat) : Option Run := (wp.runs.find? fun r => r.2.lanes.getLsbD l).map (·.2)
  let given := collectivesOf ((wp.runs.filter fun r => r.2.lanes &&& m != 0).flatMap fun r => r.2.waits)
  let c := c.park w m.lanes npc raw 0 0 s.code 0 0 (fun l => (wp.thread l).waits) fun l =>
    (runOf l).elim (wp.thread l).pc (wp.thread l).restart
  c.modWarp w fun wp =>
    let wp := wp.mapLanes inside.lanes fun l t => { t with recDue := (runOf l).any (·.entering) }
    Warp.settleRuns { wp.withdraw inside given with runs := dropMask wp.runs m }

/-- The fate of lanes that fault, for one cause, on a word that they issued earlier (R66, R326). -/
def Chip.lateFault (c : Chip) (w : Nat) (ls : List Nat) (npc raw : Word) (x : Stop) : Chip :=
  let tolune := ((c.warp w).thread (ls.headD 0)).tolune
  if ls.isEmpty then c
  else match (faultClass x.cause).bind (c.lateSlot w raw tolune) with
  | some s => if s.action = 3 then c.lateRoutine w (maskOf ls) npc raw s else c.latePark w (maskOf ls) npc raw s
  | none => c.stopLanes w ls npc raw x

/-- The fate of a word that is found illegal after it issued (R46, R326): its lanes go to a routine or park for the host
where the Mould claims it, else the warp is killed. -/
def Chip.lateIllegal (c : Chip) (w : Nat) (ls : List Nat) (npc raw rentry : Word) (r : Reason) : Chip :=
  let tolune := ((c.warp w).thread (ls.headD 0)).tolune
  match (if claimable r && !ls.isEmpty then c.lateSlot w raw tolune 0 else none) with
  | some s => if s.action = 3 then c.lateRoutine w (maskOf ls) npc raw s else c.latePark w (maskOf ls) npc raw s
  | none => c.killWarp w npc raw rentry r

end Sys2Proof.Machine
end

