-- ==== Sys2Proof/Machine/Ports.lean ====
section
/-!
DEFINITION. The issue ports: their top-down leaves (R379) and the cycles counted to them.
-/

namespace Sys2Proof.Machine

/-- The keys of a port's leaves, of its busy time and of its FP64 path. -/
def leafKey (port leaf : Nat) : Nat := port * 32 + leaf
def busyKey (port : Nat) : Nat := port * 32 + 16
def path64Key (port : Nat) : Nat := port * 32 + 17

/-- Adds to a leaf counter (R379). -/
def Core.add (k : Core) (port leaf n : Nat) : Core :=
  { k with leaves := Sparse.put k.leaves (leafKey port leaf) (Sparse.get 0 k.leaves (leafKey port leaf) + n) }
def Chip.count (c : Chip) (core port leaf n : Nat) : Chip := c.modCore core fun k => k.add port leaf n

/-- The leaf a wait of a group counts to when no run is in progress (R379). -/
def waitLeaf (c : Chip) (wp : Warp) : Wait → Nat
  | .barrier _ _ => 6
  | .counter _ dc _ =>
    if c.jobs.any fun e => e.2.block == wp.block && (e.2.jc3.extractLsb' 0 6).toNat == dc && e.2.fault.isSome then 8 else 7
  | .trap _ _ => 8
  | .spin _ _ _ _ _ => 9
  | .collective _ | .rejoin _ => 10
  | .cells _ | .service _ | .dispatch _ _ | .hold _ | .move => 5

/-- A pending result touches some cells of the lane (R153). -/
def Thread.pendingOn (t : Thread) (cells : List Nat) : Bool :=
  t.pend.any fun p => p.cells.any fun (k, _) => cells.contains k

/-- A wait that has ended by itself: registers delivered (R41), a counter that has reached its target (R234), a barrier
generation that is over (R237). The other waits are ended by what ends them. -/
def Chip.waitOver (c : Chip) (wp : Warp) : Wait → Bool
  | .cells ks => ks.all fun k => !(wp.thread (k / 1024)).pendingOn [k % 1024]
  | .counter l n target =>
    !(wp.thread l).live || decide ((Sparse.get 0 (c.block wp.block).counters n - target).toNat < 2 ^ 31)
  | .barrier id gen => (Sparse.get Barrier.fresh (c.block wp.block).bars id).gen != gen
  | _ => false

/-- The warps bound to a port. -/
def Chip.portWarps (c : Chip) (core port : Nat) : List (Nat × Warp) :=
  c.warps.filter fun e => e.2.core == core && portOf e.2.slot == port && !e.2.offCore

/-- The join key of a lane and its mode (R113). -/
def Thread.group (t : Thread) : Bool × Word × Option Word :=
  (t.tolune, t.pc, if t.gmode = 1 then some t.guestAddr else none)

/-- The issue groups of a warp that are in no run, each with the leaf of what it still waits for (R145): the lanes of gangs by
key and waits, and every stray by itself. -/
def idleGroups (c : Chip) (wp : Warp) : List Nat :=
  let busy := wp.runs.foldl (fun m e => m ||| e.2.lanes) 0
  let ls := wp.liveLanes.filter fun l => !busy.getLsbD l
  let ts := ls.map fun l =>
    let t := wp.thread l
    (if t.stray then some l else none, t.group, t.waits.filter fun x => !c.waitOver wp x)
  ts.eraseDups.map fun t => match t.2.2 with
    | [] => 5
    | x :: _ => waitLeaf c wp x

/-- The leaf a cycle with no run in progress goes to: the reason of the most groups, the lower on a tie (R379). -/
def Chip.idleLeaf (c : Chip) (core port : Nat) : Nat :=
  let ws := c.portWarps core port
  if ws.isEmpty then 12
  else if ws.all fun e => (c.block e.2.block).status == .stopping || (c.block e.2.block).status == .preempted then 13
  else
    let gs := ws.flatMap fun e => idleGroups c e.2
    let n (k : Nat) := (gs.filter (· == k)).length
    [6, 7, 8, 9, 10].foldl (fun best k => if n best < n k then k else best) 5

/-- A port has a run of a gang in progress. -/
def Chip.portBusy (c : Chip) (core port : Nat) : Bool :=
  (c.portWarps core port).any fun e => e.2.runs.any fun r => !r.2.stray

/-- The cores that hold a warp. -/
def Chip.boundCores (c : Chip) : List Nat := ((c.warps.filter fun e => !e.2.offCore).map fun e => e.2.core).eraseDups

end Sys2Proof.Machine
end

