-- ==== Sys2Proof/Machine/Footprint.lean ====
section
/-!
DEFINITION. The bytes that work in flight touches: the fields of format words and tile descriptors (R189, R193, R206), the
sides of a job (R239, R240), and the ranges that jobs read and write (R243).
-/

namespace Sys2Proof.Machine

/-! ## Format words -/

def fmtA (f : Word) : Nat := (f.extractLsb' 0 4).toNat
def fmtB (f : Word) : Nat := (f.extractLsb' 4 4).toNat
def fmtS (f : Word) : Nat := (f.extractLsb' 8 4).toNat
def fmtBank (f : Word) : Nat := (f.extractLsb' 12 3).toNat
def fmtAcc (f : Word) : Nat := (f.extractLsb' 15 2).toNat
def fmtScl (f : Word) : Bool := f.getLsbD 17

/-- The fields of the control word of `rqt` (R206). -/
def rqtSscl (f : Word) : Bool := f.getLsbD 10
def rqtEtab (f : Word) : Nat := (f.extractLsb' 9 1).toNat
def rqtDtab (f : Word) : Nat := (f.extractLsb' 8 1).toNat
def rqtDc (f : Word) : Nat := (f.extractLsb' 0 6).toNat

/-! ## Tile descriptors -/

/-- A tile descriptor (R193). -/
structure TileDesc where
  base : Word
  stride : Word
  vn : Nat
  vk : Nat
  deriving DecidableEq, Repr

/-- A descriptor read from four words, or none when a field breaks R193. -/
def TileDesc.of (w0 w1 w2 w3 : Word) : Option TileDesc :=
  let vn := (w2.extractLsb' 8 6).toNat
  let vk := (w2.extractLsb' 0 6).toNat
  if w2.extractLsb' 14 18 != 0 || w2.extractLsb' 6 2 != 0 || w3 != 0 || decide (32 < vn) || decide (32 < vk) then none
  else some ⟨w0, w1, vn, vk⟩

/-- Bits of an element of a B format. -/
def elemBits (fmt : Nat) : Nat :=
  match fmt with
  | 0 => 4
  | 1 => 8
  | 2 | 3 => 16
  | 4 => 32
  | _ => 64

/-- The start of a tile's row k, and the address of its scale bytes (R193). -/
def TileDesc.row (t : TileDesc) (k : Nat) : Word := t.base + t.stride * BitVec.ofNat 32 k
def TileDesc.scales (t : TileDesc) : Word := t.row 32

/-- The bytes a tile's reading touches: the rows, then the scales. -/
def TileDesc.ranges (t : TileDesc) (fmt : Nat) (scl : Bool) : List (Nat × Nat) :=
  let n := (t.vn * elemBits fmt + 7) / 8
  ((List.range t.vk).map fun k => ((t.row k).toNat, n)) ++ (if scl then [(t.scales.toNat, t.vn)] else [])

/-! ## Descriptors and shapes -/

/-- The space of a descriptor (R240). -/
def sideSpace (v : Dword) : Nat := (v.extractLsb' 60 4).toNat
/-- The address a descriptor holds: local, or virtual. -/
def sideAddr (v : Dword) : Nat := if sideSpace v = 0 then (v.extractLsb' 0 32).toNat else (v.extractLsb' 0 57).toNat
/-- The link of a peer descriptor. -/
def sideLink (v : Dword) : Nat := (v.extractLsb' 57 3).toNat
/-- The ring of a ring descriptor, and the queue code of a queue descriptor. -/
def sideRing (v : Dword) : Nat := (v.extractLsb' 0 4).toNat
def sideQueue (v : Dword) : Nat := (v.extractLsb' 0 3).toNat

/-- The fields of JC2 and JC3 (R239). -/
def Job.rowb (j : Job) : Nat := (j.jc2.extractLsb' 48 16).toNat
def Job.rows (j : Job) : Nat := (j.jc2.extractLsb' 32 16).toNat
def Job.sstr (j : Job) : Int := (j.jc2.extractLsb' 0 32).toInt
def Job.dstr (j : Job) : Int := (j.jc3.extractLsb' 32 32).toInt
def Job.cscope (j : Job) : Nat := (j.jc3.extractLsb' 16 4).toNat
def Job.ascope (j : Job) : Nat := (j.jc3.extractLsb' 12 4).toNat
def Job.op (j : Job) : Nat := (j.jc3.extractLsb' 10 2).toNat
def Job.chan (j : Job) : Nat := (j.jc3.extractLsb' 6 4).toNat
def Job.dc (j : Job) : Nat := (j.jc3.extractLsb' 0 6).toNat
/-- The bytes a job moves. -/
def Job.size (j : Job) : Nat := j.rows * j.rowb

/-- The modulus of a side's addresses. -/
def sideModulus (v : Dword) : Nat := if sideSpace v = 0 then 2 ^ 32 else 2 ^ 57

/-- The address of byte i of row r of an addressed side. -/
def sideByte (v : Dword) (stride : Int) (r i : Nat) : Nat :=
  (((sideAddr v : Int) + (r : Int) * stride + (i : Int)) % (sideModulus v : Int)).toNat

/-- The rows of an addressed side: first address and bytes. -/
def Job.srcRows (j : Job) : List (Nat × Nat) :=
  if j.rowb = 0 then [] else (List.range j.rows).map fun r => (sideByte j.jc0 j.sstr r 0, j.rowb)
def Job.dstRows (j : Job) : List (Nat × Nat) :=
  if j.rowb = 0 then [] else (List.range j.rows).map fun r => (sideByte j.jc1 j.dstr r 0, j.rowb)

/-! ## Footprints -/

/-- A range of bytes of one space and context, modulo the space's size: key, first address, bytes. -/
structure Range where
  key : Nat × Nat × Nat
  first : Nat
  bytes : Nat
  modulus : Nat
  deriving DecidableEq, Repr

/-- Two ranges share a byte. -/
def Range.meets (x y : Range) : Bool :=
  x.key == y.key && decide (0 < x.bytes ∧ 0 < y.bytes) &&
    (decide ((y.first + x.modulus - x.first % x.modulus) % x.modulus < x.bytes) ||
      decide ((x.first + x.modulus - y.first % x.modulus) % x.modulus < y.bytes))

/-- The ranges of an addressed side; ring, queue and pattern sides have none (R243). Block shared memory is one block's. -/
def sideRanges (ctx blk : Nat) (v : Dword) (rows : List (Nat × Nat)) : List Range :=
  match sideSpace v with
  | 0 => rows.map fun r => ⟨(0, ctx, if r.1 / 2 ^ 28 = 15 then blk + 1 else 0), r.1, r.2, 2 ^ 32⟩
  | 1 => rows.map fun r => ⟨(1, ctx, 0), r.1, r.2, 2 ^ 57⟩
  | 2 => rows.map fun r => ⟨(2, ctx, 0), r.1, r.2, 2 ^ 57⟩
  | 3 => rows.map fun r => ⟨(3, ctx, sideLink v), r.1, r.2, 2 ^ 57⟩
  | _ => []

/-! ## What jobs read and write -/

/-- Local ranges of a warp's context and block. -/
def Chip.localRanges (c : Chip) (w : Nat) (rows : List (Nat × Nat)) : List Range :=
  let wp := c.warp w
  rows.map fun r => ⟨(0, wp.context, if r.1 / 2 ^ 28 = 15 then wp.block + 1 else 0), r.1, r.2, 2 ^ 32⟩

/-- The source and destination descriptors of a requantising job as memory holds them (R206). -/
def Chip.descAt (c : Chip) (ctx launch blk : Nat) (a : Word) : List Val :=
  (List.range 4).map fun k =>
    let bs := (List.range 4).map fun i => c.readByte ctx launch blk (a + BitVec.ofNat 32 (4 * k + i))
    ⟨BitVec.ofNat 32 (numOfBytes (bs.map (·.1))), bs.any (·.2)⟩
def descOf (v : List Val) : Option TileDesc :=
  let word (k : Nat) : Word := (v.getD k ⟨0, false⟩).v
  TileDesc.of (word 0) (word 1) (word 2) (word 3)

/-- The bytes a job reads and those it writes (R243, R206). -/
def Chip.jobReads (c : Chip) (j : Job) : List Range :=
  match j.kind with
  | .ladle =>
    sideRanges j.context j.block j.jc0 j.srcRows ++
      (if j.op = 2 then sideRanges j.context j.block j.jc1 j.dstRows else [])
  | .rqt ctl src dst _ =>
    let rows := (descOf (c.descAt j.context j.launch j.block src)).elim [] fun t => t.ranges 0 (rqtSscl ctl)
    c.localRanges j.warp ((src.toNat, 16) :: (dst.toNat, 16) :: rows)
def Chip.jobWrites (c : Chip) (j : Job) : List Range :=
  match j.kind with
  | .ladle => sideRanges j.context j.block j.jc1 j.dstRows
  | .rqt _ _ dst _ =>
    (descOf (c.descAt j.context j.launch j.block dst)).elim [] fun t => c.localRanges j.warp (t.ranges 0 true)

/-- Two lists of ranges share a byte. -/
def rangesMeet (xs ys : List Range) : Bool := xs.any fun x => ys.any x.meets

/-- The job's block is on its die (R311). -/
def Chip.onDie (c : Chip) (j : Job) : Bool := (c.block j.block).status != .preempted

/-- Some job in flight at the warp's die writes bytes of these rows (R200). -/
def Chip.rowsPending (c : Chip) (w : Nat) (rows : List (Nat × Nat)) : Bool :=
  let rs := c.localRanges w rows
  c.jobs.any fun e => e.2.die == dieOf (c.warp w).core && c.onDie e.2 && rangesMeet (c.jobWrites e.2) rs

end Sys2Proof.Machine
end

