-- ==== Sys2Proof/Machine/Gate.lean ====
section
/-!
DEFINITION. What becomes of a word about to issue: the legality steps 5 to 7 of R45, the waits at issue (R153, R155,
R160, R161, R187), the stall-count contract (R144, R154) and the comparators (R384).
-/

namespace Sys2Proof.Machine

/-! ## Reading operands -/

/-- The cell of a register in a run's mode. -/
def Warp.cellIn (wp : Warp) (run : Run) (t : Thread) (r : Reg) : Nat := wp.cell run.tolune t r

/-- A register read by a lane. -/
def Warp.read (wp : Warp) (run : Run) (t : Thread) (r : Reg) : Val := t.cellVal (wp.cellIn run t r)

/-- A pair read by a lane, with the poison of either half (R88, R89). -/
def Warp.readPair (wp : Warp) (run : Run) (t : Thread) (r : Reg) : Dword × Bool :=
  let lo := wp.read run t r
  let hi := wp.read run t (r + 1)
  (pairOf lo.v hi.v, lo.p || hi.p)

/-- A register written by a lane. -/
def Warp.write (wp : Warp) (run : Run) (t : Thread) (r : Reg) (v : Val) : Thread := t.setCell (wp.cellIn run t r) v

/-- A pair written by a lane, both halves with one poison (R89). -/
def Warp.writePair (wp : Warp) (run : Run) (t : Thread) (r : Reg) (v : Dword) (p : Bool) : Thread :=
  wp.write run (wp.write run t r ⟨loHalf v, p⟩) (r + 1) ⟨hiHalf v, p⟩

/-- Changes every active lane of a run by its own registers. -/
def Chip.lanesDo (c : Chip) (w rid : Nat) (f : Warp → Run → Nat → Thread → Thread) : Chip :=
  c.modWarp w fun wp => wp.mapLanes (wp.active (wp.run rid)) (f wp (wp.run rid))

/-- The signed operand of an RI word (R27, R33): imm7, or 28 bits after an EXT. -/
def immOperand (run : Run) (i : Imm) : Word :=
  match run.ext with
  | none => i.signExtend 32
  | some p => (p ++ i.setWidth 7).signExtend 32

/-- The 32-bit operand of an RW word (R28, R33): imm14 sign-extended, or the value of an EXT and its 14 raw bits. -/
def wideOperand (run : Run) (i : Imm14) : Word :=
  match run.ext with
  | none => i.signExtend 32
  | some p => p.extractLsb' 0 18 ++ i.setWidth 14

/-- The address after the run's trailer, for a run-ending word (R39); in Tolune the next instruction (R50). -/
def Run.after (run : Run) : Word := if run.tolune then run.pc + 4 else run.pc + 8

/-- The registers of the A fragment that a format word gives (R192, R213). -/
def fragmentRegs (f : Word) : Nat :=
  match (f.extractLsb' 0 4).toNat with
  | 0 => if f.getLsbD 17 then 5 else 4
  | 1 => 8
  | 2 | 3 => 16
  | 4 => 32
  | _ => 64

/-! ## Steps 5 to 7 of R45 -/

/-- A temporary slot of a native word. -/
def isTemp (run : Run) (r : Reg) : Bool := !run.tolune && decide (120 ≤ r.toNat)

/-- A register field that names no register (R59). -/
def unnamed (wp : Warp) (run : Run) (r : Reg) : Bool :=
  if run.tolune then decide (wp.alloc ≤ r.toNat) else decide (window wp.alloc ≤ r.toNat ∧ r.toNat < 120)

/-- Slots bound to a load stream or a load queue, and to a store stream or a store queue (R178, R180). -/
def Warp.loadSlots (wp : Warp) : List Nat :=
  (wp.streams.filter fun e => !e.2.ctl.getLsbD 5).map (fun e => e.2.slot) ++
    (wp.queues.filter fun e => decide (e.1 < 4)).filterMap fun e => e.2.slot
def Warp.storeSlots (wp : Warp) : List Nat :=
  (wp.streams.filter fun e => e.2.ctl.getLsbD 5).map (fun e => e.2.slot) ++
    (wp.queues.filter fun e => decide (4 ≤ e.1)).filterMap fun e => e.2.slot

/-- A use of a bound slot that R178 or R180 forbids. -/
def Warp.badBound (wp : Warp) (i : Instr) : Bool :=
  let has (xs : List Nat) (rs : List Reg) := rs.any fun r => xs.contains r.toNat
  has wp.storeSlots i.reads || has wp.loadSlots i.writes ||
    (i.groups.any fun g => decide (1 < g.length) && has wp.boundSlots g)

/-- The slots a list of slots has in common with registers. -/
def amongSlots (slots : List Nat) (rs : List Reg) : List Nat := ((rs.map BitVec.toNat).filter slots.contains).eraseDups

/-- Register fields that name slots without reading or writing them: the slot of `sbind` and `qbind` (R177, R180), the
carry count of `dsp` (R131) and the slots of a trailer (R31). -/
def slotFields : Instr → List Reg
  | .sbind _ _ b _ => if b = 127 then [] else [b]
  | .qbind _ b _ => if b = 127 then [] else [b]
  | .dsp c _ => [c]
  | .runt d a b _ => [d, a, b].filter (· != 127)
  | _ => []

/-- The registers of a group of 8 or 16 reach beyond g119, in Tolune beyond v255 (R204; log entry 9). -/
def groupOver (run : Run) (i : Instr) : Bool :=
  let last := if run.tolune then 256 else 120
  match i with
  | .drn d _ w _ _ => decide (last < d.toNat + (if w = 1 then 16 else 8))
  | .acl _ a w _ _ => decide (last < a.toNat + (if w = 1 then 16 else 8))
  | _ => false

/-- The illegal use of a word, if any, by the steps after decoding (R45 steps 5 to 7), in order. -/
def illegalUse (wp : Warp) (run : Run) (i : Instr) : Option Reason :=
  let trailer := match i with | .runt _ _ _ _ => true | _ => false
  if run.ext.isSome && !i.extendable then some .extMisuse
  else if 23 ≤ run.body && !trailer then some .bodyTooLong
  else if run.ended && !trailer then some .runEndNotLast
  else if run.body = 0 && trailer then some .emptyRun
  else if !groupOver run i && i.reads.any (fun r => isTemp run r && !run.tw.getLsbD (r.toNat - 120)) then
    some .temporaryUnwritten
  else if (i.reads ++ i.writes ++ slotFields i).any (unnamed wp run) || groupOver run i then some .illegalUse
  else if wp.badBound i then some .illegalUse
  else if (match run.emul with | some e => i.runEnding && !(e.redirect || e.last) | none => false) then some .illegalUse
  else if (match run.emul, i with
      | some _, .jmpr _ _ => false
      | some _, .exit _ => false
      | some _, i => i.runEnding
      | none, _ => false) then some .illegalUse
  else if trailer && !run.ended && (match run.emul with | some e => e.redirect | none => false) then some .illegalUse
  else if (i.matrix && decide (wp.draw < 32)) || decide (wp.draw < i.drawUnits) then some .illegalUse
  else none

/-- A lane's register as `Run.collCells` lists it. -/
def collKey (l cell : Nat) : Nat := l * 1024 + cell

/-- A word that names a register of a collective of its run (R165). -/
def collectiveUse (wp : Warp) (run : Run) (i : Instr) : Bool :=
  (wp.active run).any fun l =>
    (i.reads ++ i.writes).any fun r => run.collCells.contains (collKey l (wp.cellIn run (wp.thread l) r))

/-! ## Registers reached through values -/

/-- The lowest lane of a run whose voted registers hold no poison: the one whose values the word takes, once the lanes
with poison are gone (R191). -/
def votingLane (wp : Warp) (run : Run) (rs : List Reg) : Option Nat :=
  (wp.active run).find? fun l => !(rs.any fun r => (wp.read run (wp.thread l) r).p)

/-- The format word of a product (R191). -/
def productFormat (wp : Warp) (run : Run) (b : Reg) : Word :=
  match votingLane wp run [b] with
  | some l => (wp.read run (wp.thread l) b).v
  | none => 0

/-- The registers of the A fragment of a product (R192): first register and count. -/
def fragmentExtent (wp : Warp) (run : Run) (i : Instr) : Option (Reg × Nat) :=
  match i with
  | .mma _ a b _ | .mmas _ a b _ => some (a, fragmentRegs (productFormat wp run b))
  | _ => none

/-- The registers of the A fragment of a product. -/
def fragment (wp : Warp) (run : Run) (i : Instr) : List Reg :=
  match fragmentExtent wp run i with
  | some (a, n) => regs a n
  | none => []

/-- The register that an index names, if it is clean and names one (R126). -/
def indexed (wp : Warp) (run : Run) (t : Thread) (a : Reg) : List Reg :=
  let x := wp.read run t a
  if x.p || decide ((if run.tolune then wp.alloc else window wp.alloc) ≤ x.v.toNat) then [] else [x.v.setWidth 8]

/-- What a lane's `dsp` reads: the opcode byte and the handler entry, or the stop (R131). -/
def Chip.dispatchRead (c : Chip) (w : Nat) (t : Thread) : Except Stop (BitVec 8 × Dword) :=
  match c.check w .guest true true t.guestAddr 1 with
  | some f => .error (violation f)
  | none =>
    let x := c.loadBytes w t.guestAddr 1
    if x.2 then .error (Stop.of 6)
    else
      let op := x.1.headD 0
      let a := t.htb + 8 * op.setWidth 32
      match c.check w .load true true a 8 with
      | some f => .error (violation f)
      | none =>
        let y := c.loadBytes w a 8
        if y.2 then .error (Stop.of 6) else .ok (op, BitVec.ofNat 64 (numOfBytes y.1))

/-- The kind of a handler entry (R130). -/
def entryKind (e : Dword) : Nat :=
  let k := (e.extractLsb' 32 4).toNat
  if e.extractLsb' 40 24 != 0 || decide (3 < k) then 1 else k

/-- The registers a lane's word reads beside those its fields name: the one the index of `rget` names. -/
def indexReads (wp : Warp) (run : Run) (t : Thread) : Instr → List Reg
  | .rget _ a _ => indexed wp run t a
  | _ => []

/-- The registers a lane's word writes beside those its fields name: the one the index of `rput` names (R126), the link of
a call (R122), the record of a guest trap taken by the program (R137). -/
def Chip.impliedWrites (c : Chip) (w : Nat) (run : Run) (t : Thread) (i : Instr) : List Reg :=
  let wp := c.warp w
  let taken := (c.launch wp.launch).header.gtrap != 0
  match i with
  | .rput _ a _ => indexed wp run t a
  | .call _ _ _ | .callr _ _ _ => regs 0 2
  | .gtrap _ _ => if taken then regs 0 4 else []
  | .dsp _ _ =>
    if taken && (match c.dispatchRead w t with | .ok x => entryKind x.2 != 0 | .error _ => false) then regs 0 4 else []
  | _ => []

/-- The thread as the implied writes of a word find it: a call's link goes to the new window (R122). -/
def Thread.called (t : Thread) (run : Run) : Instr → Thread
  | .call k _ _ | .callr k _ _ => if run.tolune then t else { t with base := t.base + 8 * k.toNat }
  | _ => t

/-! ## Windows that move -/

/-- Where a lane's word puts its logical base (R60). -/
def slideTo (wp : Warp) (run : Run) (t : Thread) (i : Instr) : Nat :=
  if run.tolune then t.base
  else
    match i with
    | .call k _ _ | .callr k _ _ => t.base + 8 * k.toNat
    | .ret _ => t.base - 8 * (wp.read run t 1).v.toNat
    | .wbase d k _ => if d = 1 then t.base - 8 * k.toNat else t.base + 8 * k.toNat
    | _ => t.base

/-- The units a slide up to n spills, and a slide down to n fills (R60). -/
def unitsSpilled (wp : Warp) (t : Thread) (n : Nat) : Nat :=
  if t.base < n then (n + window wp.alloc - t.floor - wp.alloc + 7) / 8 else 0
def unitsFilled (t : Thread) (n : Nat) : Nat := if n < t.base then (t.floor - n + 7) / 8 else 0

/-- The units `wspl` and `wfil` move (R182). -/
def spillUnits (t : Thread) (k : Reg) : Nat := if k = 0 then (t.base - t.floor) / 8 else k.toNat
def fillUnits (t : Thread) (k : Reg) : Nat := if k = 0 then t.floor / 8 else k.toNat

/-- The units a word spills from a lane's floor up, and those it fills below it (R60, R182). -/
def spillCount (wp : Warp) (run : Run) (t : Thread) (i : Instr) : Nat :=
  match i with
  | .wspl k _ => spillUnits t k
  | _ => unitsSpilled wp t (slideTo wp run t i)
def fillCount (wp : Warp) (run : Run) (t : Thread) (i : Instr) : Nat :=
  match i with
  | .wfil k _ => min (t.floor / 8) (fillUnits t k)
  | _ => unitsFilled t (slideTo wp run t i)

/-- The logical registers a word spills, fills and names anew (R60). -/
def spilledRegs (wp : Warp) (run : Run) (t : Thread) (i : Instr) : List Nat :=
  (List.range (8 * spillCount wp run t i)).map (t.floor + ·)
def filledRegs (wp : Warp) (run : Run) (t : Thread) (i : Instr) : List Nat :=
  (List.range (8 * fillCount wp run t i)).map (t.floor - 8 * fillCount wp run t i + ·)
def freshRegs (wp : Warp) (run : Run) (t : Thread) (i : Instr) : List Nat :=
  let n := slideTo wp run t i
  let first := max (t.base + window wp.alloc) n
  if t.base < n then (List.range (n + window wp.alloc - first)).map (first + ·) else []

/-- The cells a lane's word reaches through values: of its fragment, its index, its implied writes, its slide. -/
def Chip.dynamicCells (c : Chip) (w : Nat) (run : Run) (t : Thread) (i : Instr) : List Nat :=
  let wp := c.warp w
  (fragment wp run i ++ indexReads wp run t i).map (wp.cellIn run t) ++
    (c.impliedWrites w run t i).map (wp.cellIn run (t.called run i)) ++
    (spilledRegs wp run t i ++ filledRegs wp run t i ++ freshRegs wp run t i).map (allotCell wp.alloc 0)

/-- A word that reaches a register of a collective of its run through values (R165). -/
def Chip.collectiveReach (c : Chip) (w : Nat) (run : Run) (i : Instr) : Bool :=
  ((c.warp w).active run).any fun l =>
    (c.dynamicCells w run ((c.warp w).thread l) i).any fun k => run.collCells.contains (collKey l k)

/-- A use of a bound slot through values that R178 or R180 forbids. -/
def Chip.badReach (c : Chip) (w : Nat) (run : Run) (i : Instr) : Bool :=
  let wp := c.warp w
  (wp.active run).any fun l =>
    let t := wp.thread l
    !(amongSlots wp.storeSlots (indexReads wp run t i)).isEmpty ||
      !(amongSlots wp.loadSlots (c.impliedWrites w run t i)).isEmpty

/-! ## Waits at issue -/

/-- The word reads or writes `fflags`. -/
def namesFlags : Instr → Bool
  | .srd _ b _ | .swr _ b _ => b == 0x19
  | _ => false

/-- The word is a `redf`, whose flags come with its result (R170). -/
def isRedf : Instr → Bool
  | .redf _ _ _ _ => true
  | _ => false

/-- Flags of an earlier word of the lane are still to come: of a word with a pending result, of a `redf` of the run
(R95, R375). -/
def flagsPending (wp : Warp) (run : Run) (t : Thread) : Bool :=
  (t.pend.any fun p => p.kind == .fdiv) ||
    wp.colls.any fun x => isRedf x.word && (collectivesOf run.waits).contains x.num

/-- A divide's result is pending, for which a spill waits (R73). -/
def Thread.dividing (t : Thread) : Bool := t.pend.any fun p => p.kind == .divide || p.kind == .fdiv

/-- The word waits for a pending result (R153), for those of divides before it spills (R73), or for flags (R95). -/
def Chip.scoreboardWait (c : Chip) (w rid : Nat) (i : Instr) : Bool :=
  let wp := c.warp w
  let run := wp.run rid
  (wp.active run).any fun l =>
    let t := wp.thread l
    t.pendingOn ((i.reads ++ i.writes).map (wp.cellIn run t) ++ c.dynamicCells w run t i) ||
      (decide (0 < spillCount wp run t i) && t.dividing) || (namesFlags i && flagsPending wp run t)

/-- `srd` of `fflags` waits for the floating-point results of fixed latency too (R375). -/
def flagsWait (wp : Warp) (run : Run) (i : Instr) (t0 : Nat) : Bool :=
  match i with
  | .srd _ _ _ => namesFlags i && (wp.active run).any fun l => decide (t0 < (wp.thread l).flagsAt)
  | _ => false

/-- The number of a stream or queue bound to a slot. -/
def Warp.streamAt (wp : Warp) (slot : Nat) : Option (Nat × Stream) := wp.streams.find? fun e => e.2.slot == slot
def Warp.queueAt (wp : Warp) (slot : Nat) : Option (Nat × Queue) := wp.queues.find? fun e => e.2.slot == some slot

/-- The element size of a stream (R176), and the address of a lane's element at a position. -/
def Stream.esize (s : Stream) : Nat := 2 ^ (s.ctl.extractLsb' 0 2).toNat
def Stream.addr (s : Stream) (l p : Nat) : Word :=
  s.base + s.stride * BitVec.ofNat 32 p + BitVec.ofNat 32 (s.esize * l)

/-- The element access of a lane violates its window (R178). An element is no staging store of R238. -/
def Chip.elementFault (c : Chip) (w : Nat) (s : Stream) (l p : Nat) : Option (Nat × Word) :=
  let store := s.ctl.getLsbD 5
  c.check w (if store then .store else .load) (!store) (!touchesStaging (s.addr l p) s.esize) (s.addr l p) s.esize

/-- A lane's read of a bound slot can proceed (R160). -/
def Chip.readReady (c : Chip) (w l slot : Nat) : Bool :=
  let wp := c.warp w
  let t := wp.thread l
  match wp.streamAt slot, wp.queueAt slot with
  | some (n, s), _ =>
    let p := Sparse.get 0 t.spos n
    decide (s.count ≤ p) || (c.elementFault w s l p).isSome || !(Sparse.get [] t.selem n).isEmpty
  | none, some (n, q) => decide (Sparse.get q.first t.qptr n < q.first + q.fifo.length)
  | none, none => true

/-- A lane's write of a bound store queue can proceed (R160). -/
def Chip.writeReady (c : Chip) (w l slot : Nat) : Bool :=
  let wp := c.warp w
  match wp.queueAt slot with
  | some (n, q) => decide (Sparse.get q.first (wp.thread l).qptr n < q.first + 16)
  | none => true

/-- The word waits for a stream or queue that its fields name, or that it reaches through values (R160). -/
def Chip.bindingWait (c : Chip) (w rid : Nat) (i : Instr) : Bool :=
  let wp := c.warp w
  (wp.active (wp.run rid)).any fun l =>
    ((amongSlots wp.boundSlots i.reads).any fun r => !c.readReady w l r) ||
      (amongSlots wp.boundSlots i.writes).any fun r => !c.writeReady w l r
def Chip.reachWait (c : Chip) (w rid : Nat) (i : Instr) : Bool :=
  let wp := c.warp w
  let run := wp.run rid
  (wp.active run).any fun l =>
    let t := wp.thread l
    ((amongSlots wp.boundSlots (indexReads wp run t i)).any fun r => !(i.reads.map BitVec.toNat).contains r && !c.readReady w l r) ||
      (amongSlots wp.boundSlots (c.impliedWrites w run t i)).any fun r => !c.writeReady w l r

/-- The words that take memory requests (R155). -/
def takesRequests : Instr → Bool
  | .ldb _ _ _ _ | .ldbs _ _ _ _ | .ldh _ _ _ _ | .ldhs _ _ _ _ | .ldw _ _ _ _ | .ldd _ _ _ _ | .ldq _ _ _ _
  | .stb _ _ _ _ | .sth _ _ _ _ | .stw _ _ _ _ | .std _ _ _ _ | .stq _ _ _ _
  | .ldo _ _ _ _ _ _ | .sto _ _ _ _ _ _ | .aadd _ _ _ _ _ _ | .aand _ _ _ _ _ _ | .aor _ _ _ _ _ _
  | .axor _ _ _ _ _ _ | .amins _ _ _ _ _ _ | .aminu _ _ _ _ _ _ | .amaxs _ _ _ _ _ _ | .amaxu _ _ _ _ _ _
  | .axch _ _ _ _ _ _ | .acas _ _ _ _ _ _ | .afxa _ _ _ _ _ _ | .afxr _ _ _ _ _ _ | .afxz _ _ _ _ _
  | .tgrab _ _ _ | .tinit _ _ _ | .gldb _ _ _ | .gldbs _ _ _ | .gldh _ _ _ | .gldhs _ _ _ | .gldw _ _ _ => true
  | _ => false

/-- Requests outstanding at a core (R155). -/
def Chip.outstanding (c : Chip) (core : Nat) : Nat :=
  (c.warps.filter fun e => e.2.core == core).foldl
    (fun n e => n + (e.2.storeQ.filter fun x => x.kind == .plain).length +
      e.2.threads.foldl (fun n t => n + (t.2.pend.filter fun p =>
        p.kind == .load || p.kind == .atomic || p.kind == .guest || p.kind == .tgrab).length) 0) 0

/-- The memory access a lane's word makes: address, bytes, whether it reads and writes (R226 to R230, R129, R134). -/
def laneAccess (wp : Warp) (run : Run) (t : Thread) (i : Instr) : Option (Word × Nat × Bool × Bool) :=
  let ri (a : Reg) (m : Imm) (n : Nat) (wr : Bool) :=
    some ((wp.read run t a).v + immOperand run m * BitVec.ofNat 32 n, n, !wr, wr)
  let off := match run.ext with | some p => p.signExtend 32 | none => (0 : Word)
  let at' (a : Reg) (n : Nat) (rd wr : Bool) := some ((wp.read run t a).v + off, n, rd, wr)
  let size (z : BitVec 1) := if z = 0 then 4 else 8
  match i with
  | .ldb _ a m _ | .ldbs _ a m _ => ri a m 1 false
  | .ldh _ a m _ | .ldhs _ a m _ => ri a m 2 false
  | .ldw _ a m _ => ri a m 4 false
  | .ldd _ a m _ => ri a m 8 false
  | .ldq _ a m _ => ri a m 16 false
  | .stb _ a m _ => ri a m 1 true
  | .sth _ a m _ => ri a m 2 true
  | .stw _ a m _ => ri a m 4 true
  | .std _ a m _ => ri a m 8 true
  | .stq _ a m _ => ri a m 16 true
  | .ldo _ a _ _ z _ => at' a (size z) true false
  | .sto _ a _ _ z _ => at' a (size z) false true
  | .aadd _ a _ _ z _ | .aand _ a _ _ z _ | .aor _ a _ _ z _ | .axor _ a _ _ z _ | .amins _ a _ _ z _
  | .aminu _ a _ _ z _ | .amaxs _ a _ _ z _ | .amaxu _ a _ _ z _ | .axch _ a _ _ z _ | .acas _ a _ _ z _ =>
    at' a (size z) true true
  | .afxa _ a _ _ _ _ => at' a 32 true true
  | .afxr _ a _ _ _ _ => at' a 32 true false
  | .afxz _ a _ _ _ => at' a 32 false true
  | .spinw _ a _ _ => some ((wp.read run t a).v, 4, true, false)
  | .tgrab _ a _ => some ((wp.read run t a).v, 16, true, true)
  | .tinit a _ _ => some ((wp.read run t a).v, 16, false, true)
  | .gldb _ m _ | .gldbs _ m _ => some (t.guestAddr + immOperand run m, 1, true, false)
  | .gldh _ m _ | .gldhs _ m _ => some (t.guestAddr + immOperand run m, 2, true, false)
  | .gldw _ m _ => some (t.guestAddr + immOperand run m, 4, true, false)
  | _ => none

/-- The word's requests do not fit (R155). A store to a staging register takes none. -/
def Chip.requestWait (c : Chip) (w rid : Nat) (i : Instr) : Bool :=
  let wp := c.warp w
  let run := wp.run rid
  let ls := (wp.active run).filter fun l =>
    match laneAccess wp run (wp.thread l) i with
    | some (a, _, _, _) => !isStaging a
    | none => true
  takesRequests i && !ls.isEmpty && decide (1536 < c.outstanding wp.core + ls.length)

/-- Jobs in flight at a die, with the GO stores still on their way to its hazard unit. A job saved with its block is off the
die until it enters again (R311, R313). -/
def Chip.jobsAhead (c : Chip) (die : Nat) : Nat :=
  (c.jobs.filter fun e => e.2.die == die && c.onDie e.2).length +
    (c.warps.filter fun e => dieOf e.2.core == die).foldl
      (fun n e => n + (e.2.storeQ.filter fun x => x.kind == .go).length) 0

/-- A lane's word is a GO store. -/
def goesAt (wp : Warp) (run : Run) (t : Thread) (i : Instr) : Bool :=
  match laneAccess wp run t i with
  | some (a, 4, _, true) => a.toNat == goAddr
  | _ => false

/-- A GO store that finds the hazard unit full waits (R243). -/
def Chip.goWait (c : Chip) (w rid : Nat) (i : Instr) : Bool :=
  let wp := c.warp w
  let run := wp.run rid
  let gos := (wp.active run).filter fun l => goesAt wp run (wp.thread l) i
  !gos.isEmpty && decide (512 < c.jobsAhead (dieOf wp.core) + gos.length)

/-- The word comes after every earlier store of its warp: atomics, FX words, Tundish words, sequential loads, releases, fences
and barriers, `rqt` (R231, R232, R236, R237, R281, R288; log entry 5). -/
def drains : Instr → Bool
  | .ldo _ _ _ o _ _ => o == 3
  | .fence _ o _ => o != 1
  | .aadd _ _ _ _ _ _ | .aand _ _ _ _ _ _ | .aor _ _ _ _ _ _ | .axor _ _ _ _ _ _ | .amins _ _ _ _ _ _ | .aminu _ _ _ _ _ _
  | .amaxs _ _ _ _ _ _ | .amaxu _ _ _ _ _ _ | .axch _ _ _ _ _ _ | .acas _ _ _ _ _ _ | .afxa _ _ _ _ _ _ | .afxr _ _ _ _ _ _
  | .afxz _ _ _ _ _ | .tgrab _ _ _ | .tinit _ _ _ | .rrel _ _ | .rcmt _ _ _ | .bar _ _ | .bara _ _ _ | .barw _ _ _
  | .rqt _ _ _ _ => true
  | _ => false

/-- The word reads memory at its issue beside a lane's own access: tiles, tables, descriptors, the reads of `dsp`. -/
def readsTiles : Instr → Bool
  | .bld _ _ _ _ | .cbl _ _ _ | .rqt _ _ _ _ | .dsp _ _ => true
  | _ => false

/-- The word waits for the value of an element that is queued before it (R153, R285): one that drains the queue for every
element, one that reads memory for an element of the words that it reads. -/
def Chip.dueWait (c : Chip) (w rid : Nat) (i : Instr) : Bool :=
  let wp := c.warp w
  let run := wp.run rid
  wp.owesStore && (drains i || readsTiles i || (wp.active run).any fun l =>
    goesAt wp run (wp.thread l) i || match laneAccess wp run (wp.thread l) i with
      | some (a, n, true, _) => wp.owesIn a n
      | _ => false)

/-- The thread has an `rwait` whose slot is not known (R236). -/
def Thread.acquiring (t : Thread) : Bool :=
  t.pend.any fun p => match p.kind with | .ring false false _ _ => true | _ => false

/-- A lane's access to memory waits for an earlier `rwait` of the lane, which acquires the commit it waits for (R288). -/
def Chip.acquireWait (c : Chip) (w rid : Nat) (i : Instr) : Bool :=
  let wp := c.warp w
  let run := wp.run rid
  (wp.active run).any fun l =>
    let t := wp.thread l
    t.acquiring && ((laneAccess wp run t i).isSome || readsTiles i ||
      !(amongSlots (wp.streams.map fun e => e.2.slot)
        (i.reads ++ i.writes ++ indexReads wp run t i ++ c.impliedWrites w run t i)).isEmpty)

/-- The bank an entry of the matrix queue loads. -/
def MatrixEntry.loads (e : MatrixEntry) : Option Nat :=
  match e.word with
  | .bld k _ _ _ => some k.toNat
  | _ => none

/-- The word's draw does not fit beside what the warp holds (R161). -/
def drawWait (c : Chip) (wp : Warp) (i : Instr) : Bool :=
  let held := (wp.drawHeld.filter fun e => decide (c.cycle < e.2)).foldl (fun n e => n + e.1) 0
  decide (0 < i.drawUnits) && decide (wp.draw < held + wp.drawProduct + i.drawUnits)

/-! ## Time -/

/-- A word that enters the matrix queue (R187). -/
def queued (i : Instr) : Bool :=
  i.matrix || match i with
    | .rqt _ _ _ _ => true
    | _ => false

/-- The first cycle in which a port's matrix word does not come behind a word of a higher port that the same cycle
accepted: of one cycle, the lowest port enters first (R187). -/
def Core.matrixTurn (k : Core) (port : Nat) : Nat := if port < k.matrixAt % 4 then k.matrixAt / 4 + 1 else k.matrixAt / 4

/-- The cycle a word of a run may first issue, before its sources are asked (R144). -/
def Chip.earliest (c : Chip) (w rid : Nat) (i : Instr) : Nat :=
  let wp := c.warp w
  let k := c.core wp.core
  let port := portOf wp.slot
  let path := if i.vector64 then Sparse.get 0 k.leaves (path64Key port) else 0
  let turn := if queued i then k.matrixTurn port else 0
  max (max c.cycle (wp.run rid).nextAt) (max (max (Sparse.get 0 k.leaves (busyKey port)) path) turn)

/-- A `bld` waits for jobs in flight that write its descriptor or its tile, and for the warp's own GO stores before it
(R200; log entry 12). -/
def Chip.bldWait (c : Chip) (w rid : Nat) (i : Instr) : Bool :=
  let wp := c.warp w
  let run := wp.run rid
  match i with
  | .bld _ a b _ =>
    match votingLane wp run [a, b] with
    | none => false
    | some l =>
      let x := (wp.read run (wp.thread l) a).v
      let f := (wp.read run (wp.thread l) b).v
      let word (k : Nat) : Word := BitVec.ofNat 32 (numOfBytes (c.loadBytes w (x + BitVec.ofNat 32 (4 * k)) 4).1)
      (wp.storeQ.any fun s => s.kind == .go) || c.rowsPending w [(x.toNat, 16)] ||
        match TileDesc.of (word 0) (word 1) (word 2) (word 3) with
        | some t => c.rowsPending w (t.ranges (fmtB f) (fmtScl f))
        | none => false
  | _ => false

/-- Words of a warp's block, restored with it, are still to be accepted again by a core's Crucible (R221). -/
def Chip.readmitting (c : Chip) (w : Nat) : Bool :=
  (c.crucible (c.warp w).core).saved.any fun e => (c.warp e.warp).block == (c.warp w).block

/-- The matrix queue is full (R187), a product's bank check must wait for a load of that bank (R191), or words saved with the
block come first (R221). -/
def Chip.matrixWait (c : Chip) (w rid : Nat) (i : Instr) : Bool :=
  let wp := c.warp w
  let q := (c.crucible wp.core).queue
  if queued i && c.readmitting w then true else
  let bankOf (b : Reg) := ((productFormat wp (wp.run rid) b).extractLsb' 12 3).toNat
  let full := i.matrix && decide (16 ≤ q.length)
  match i with
  | .mma _ _ b _ | .mmab _ _ b _ | .mmas _ _ b _ =>
    full || q.any fun e => e.loads == some (bankOf b)
  | .rqt _ _ _ _ => decide (16 ≤ q.length)
  | _ => full

/-- The registers whose values a lane's word takes at issue, each with its cell: those of its fields, its fragment and its
index, and those it spills (R154). A spilled register that no slot names stands under its number in the window to
seven bits (log entry 93). -/
def sources (wp : Warp) (run : Run) (t : Thread) (i : Instr) : List (Reg × Nat) :=
  ((i.reads ++ fragment wp run i ++ indexReads wp run t i).map fun r => (r, wp.cellIn run t r)) ++
    (spilledRegs wp run t i).map fun (n : Nat) =>
      (BitVec.ofInt 8 (((n : Int) - t.base) % 128), allotCell wp.alloc 0 n)

/-- The fixed-latency results a word reads that are not ready at a cycle: lane, register and entry (R154). -/
def unready (wp : Warp) (run : Run) (i : Instr) (t0 : Nat) : List (Nat × Reg × Fixed) :=
  (wp.active run).flatMap fun l =>
    let t := wp.thread l
    (sources wp run t i).flatMap fun r =>
      (t.fix.filter fun f => f.cell == r.2 && decide (t0 < f.ready)).map fun f => (l, r.1, f)

/-- The cycle at which a word's sources are all ready (R144, R154). -/
def Chip.dueAt (c : Chip) (w rid : Nat) (i : Instr) : Nat :=
  let t0 := c.earliest w rid i
  ((unready (c.warp w) ((c.warp w).run rid) i t0).map fun x => x.2.2.ready).foldl max t0

/-- The latest of the results a word waits for, which a stall-check record names (log entry 93). -/
def latest : List (Nat × Reg × Fixed) → Option (Nat × Reg × Fixed)
  | [] => none
  | x :: r =>
    match latest r with
    | none => some x
    | some y => if x.2.2.ready < y.2.2.ready then some y else some x

/-- Port cycles a word occupies (R144). -/
def Run.occupancy (run : Run) : Nat := if 8 < quads run.lanes then 2 else 1

/-! ## The gate -/

/-- What becomes of a word that is about to issue. -/
inductive Gate where
  /-- No run of that number with a live lane, or one that has ended and awaits its trailer. -/
  | noRun
  | illegal (r : Reason)
  /-- The word waits in its run; the leaf counts the cycle (R379). -/
  | wait (leaf : Nat)
  /-- A short stall count in stall-check mode (R154). -/
  | short (slot : Reg) (f : Fixed) (cycles : Nat)
  /-- A comparator's match: its kind and number (R384). -/
  | halt (kind num : Nat)
  /-- A check of the pipeline fails (R306). -/
  | mismatch (unit : Nat)
  /-- The word issues. -/
  | run
  deriving DecidableEq, Repr

/-- The comparators of one kind that an issuing lane matches on a value (R383). -/
def Chip.comparator (c : Chip) (wp : Warp) (run : Run) (kind : Nat) (hit : Nat → Word → Word → BitVec 2 → Bool) :
    Option Nat :=
  ((c.core wp.core).comps.find? fun (k, (ctx, value, mask, lanes, rw)) =>
    k / 8 == kind && ctx == wp.context &&
      (wp.active run).any fun l => lanes.getLsbD l && (wp.thread l).exempt != some (run.npc, k) && hit l value mask rw).map
    fun e => e.1

/-- A value under a comparator's mask equals its value. -/
def matches' (x value mask : Word) : Bool := x &&& mask == value &&& mask

/-- The native comparator that the present word of a run matches; words the Mould puts there match none (R383). -/
def Chip.nativeMatch (c : Chip) (w rid : Nat) : Option Nat :=
  let wp := c.warp w
  let run := wp.run rid
  if run.emul.isSome || run.substFor.isSome then none
  else c.comparator wp run 0 fun _ v m _ => matches' run.pc v m

/-- The first matching comparator of a word, in the order native, data, guest (R384). -/
def Chip.matchComparator (c : Chip) (w rid : Nat) (i : Instr) : Option Nat :=
  let wp := c.warp w
  let run := wp.run rid
  let data := c.comparator wp run 1 fun l v m rw =>
    match laneAccess wp run (wp.thread l) i with
    | some (a, n, rd, wr) =>
      ((rd && rw.getLsbD 0) || (wr && rw.getLsbD 1)) &&
        (List.range n).any fun j => matches' (a + BitVec.ofNat 32 j) v m
    | none => false
  let guest := match i with
    | .dsp _ _ => c.comparator wp run 2 fun l v m _ => matches' ((wp.thread l).gcb + (wp.thread l).gpc) v m
    | _ => none
  (c.nativeMatch w rid).or (data.or guest)

/-- A lane takes its next element of a bound slot into the slot's latch (R178, R180). -/
def Warp.takeElement (wp : Warp) (l slot : Nat) : Warp :=
  let t := wp.thread l
  match wp.streamAt slot, wp.queueAt slot with
  | some (n, s), _ =>
    let p := Sparse.get 0 t.spos n
    if s.count ≤ p then wp.modThread l fun t => t.setCell (512 + slot) ⟨0, false⟩
    else
      match Sparse.get [] t.selem n with
      | v :: r => wp.modThread l fun t =>
          { t.setCell (512 + slot) v with selem := Sparse.put t.selem n r, spos := Sparse.put t.spos n (p + 1) }
      | [] => wp
  | none, some (n, q) =>
    let p := Sparse.get q.first t.qptr n
    let v := Sparse.get ⟨0, false⟩ (q.fifo.getD (p - q.first) []) l
    wp.modThread l fun t => { t.setCell (512 + slot) v with qptr := Sparse.put t.qptr n (p + 1) }
  | none, none => wp

/-- The elements a word's fields name in the latches of its lanes (R178, R180); then those it reaches through an index. -/
def Warp.takeNamed (wp : Warp) (rid : Nat) (i : Instr) : Warp :=
  let rs := amongSlots wp.boundSlots i.reads
  ((wp.active (wp.run rid)).flatMap fun l => rs.map fun r => (l, r)).foldl (fun wp x => wp.takeElement x.1 x.2) wp
def Warp.takeIndexed (wp : Warp) (rid : Nat) (i : Instr) : Warp :=
  let run := wp.run rid
  ((wp.active run).flatMap fun l =>
    ((amongSlots wp.boundSlots (indexReads wp run (wp.thread l) i)).filter
      fun r => !(i.reads.map BitVec.toNat).contains r).map fun r => (l, r)).foldl (fun wp x => wp.takeElement x.1 x.2) wp

/-- The chip as a word's checks see it: the elements its fields name in their latches (R178, R180). -/
def Chip.peek (c : Chip) (w rid : Nat) (i : Instr) : Chip :=
  if (c.warp w).boundSlots.isEmpty then c else c.modWarp w fun wp => wp.takeNamed rid i

/-- Registers of some lanes that a claimed word's fields name have results pending (R324). -/
def Warp.frameOwes (wp : Warp) (tolune : Bool) (ls : List Nat) (x : Word) : Bool :=
  let (d, a, b) := claimedFields tolune x
  ls.any fun l =>
    let t := wp.thread l
    t.pendingOn (([d, a, b].filter fun r => decide (r.toNat < if tolune then wp.alloc else window wp.alloc)).map
      (wp.cell tolune t))
def framePending (wp : Warp) (run : Run) (x : Word) : Bool := wp.frameOwes run.tolune (wp.active run) x

/-- A lane that is parked for the host or being moved, which nothing else can send on. -/
def Thread.away (t : Thread) : Bool :=
  t.waits.any fun x => match x with | .trap _ _ | .service _ | .move => true | _ => false

/-- The Mould would send lanes to a routine for a fault of a word that they issued earlier, and they cannot go yet: registers of
its frame are still to come, a lane is parked for the host, or their warp is off its core or being stopped (R309, R324, R326;
log entry 114). -/
def Chip.lateWait (c : Chip) (w : Nat) (ls : List Nat) (raw : Word) (fault : Nat) : Bool :=
  let wp := c.warp w
  let tolune := (wp.thread (ls.headD 0)).tolune
  ((c.lateSlot w raw tolune fault).any fun s => s.action == 3) &&
    (wp.frameOwes tolune ls raw || (ls.any fun l => (wp.thread l).away) || wp.offCore ||
      (c.block wp.block).status != .running)

/-- A word whose fault the Mould would send to a routine waits for the registers of the routine's frame (R324, R326). -/
def Chip.redirectWait (c : Chip) (w rid : Nat) : Bool :=
  let wp := c.warp w
  let run := wp.run rid
  run.emul.isNone && run.substFor.isNone &&
    ((Sparse.get MouldBank.empty c.banks run.bank).slots.any fun s =>
      s.action == 3 && (List.range 4).any fun k =>
        s.matchesFault k (opcodeOf run.raw) run.tolune (c.launch wp.launch).cls) &&
    framePending wp run run.raw

/-- The waits of a word that its run counts as in-run scoreboard stalls, on the chip and on the chip with its elements in
their latches. -/
def Chip.stalls (c d : Chip) (w rid : Nat) (i : Instr) : Bool :=
  c.bindingWait w rid i || d.scoreboardWait w rid i || d.reachWait w rid i || d.requestWait w rid i ||
    d.goWait w rid i || d.dueWait w rid i || d.acquireWait w rid i || d.matrixWait w rid i || d.bldWait w rid i || flagsWait (d.warp w) ((d.warp w).run rid) i (c.earliest w rid i)

/-- What becomes of a word that waits for nothing: a short stall count in stall-check mode, a comparator's match, a failed
check, or its issue. Tolune code has full interlocks (R52). -/
def Chip.judge (d : Chip) (w rid : Nat) (i : Instr) : Gate :=
  let wp := d.warp w
  let run := wp.run rid
  let t0 := d.earliest w rid i
  match (if wp.stallchk && !run.tolune then latest (unready wp run i t0) else none) with
  | some (_, r, f) => .short r f (f.ready - t0)
  | none =>
    match d.matchComparator w rid i with
    | some k => .halt (k / 8) (k % 8)
    | none =>
      match d.inject with
      | some u => .mismatch u
      | none => .run

/-- What becomes of a word of a run (R45 steps 5 to 7, then the waits, then the checks before commit). -/
def gate (c : Chip) (w rid : Nat) (i : Instr) : Gate :=
  let wp := c.warp w
  let run := wp.run rid
  if ((wp.active run).isEmpty && !run.ended) || run.icWait then .noRun
  else if c.redirectWait w rid then .wait 4
  else
    match illegalUse wp run i with
    | some r => .illegal r
    | none =>
      if collectiveUse wp run i then .illegal .illegalUse
      else if run.substFor.isSome && i.runEnding &&
          (decide (1 < run.subst.length) || (!run.tolune && !c.trailerAt w (run.pc + 4))) then .illegal .runEndNotLast
      else
        match i with
        | .runt _ _ _ _ => .run
        | .ext _ =>
          match c.nativeMatch w rid with
          | some k => .halt (k / 8) (k % 8)
          | none => .run
        | _ =>
          let d := c.peek w rid i
          if c.stalls d w rid i then .wait 4
          else if d.badReach w run i || d.collectiveReach w run i then .illegal .illegalUse
          else if drawWait c wp i then .wait 11
          else d.judge w rid i

end Sys2Proof.Machine
end

