-- ==== Sys2Proof/Machine/Fetch.lean ====
section
/-!
DEFINITION. The next word of a run: where it is fetched from (R45 step 1, R148, R321, R323, R324), what the Mould does
with it (step 2), its decoding (steps 3 and 4), and the fate of a word that cannot be fetched.
-/

namespace Sys2Proof.Machine

/-- A word fetched: its bits in the order of R320, or why there is none. -/
inductive Fetched where
  | word (x : Word)
  | violation (code : Nat) (addr : Word)
  | poisoned
  deriving DecidableEq, Repr

/-- What the memory holds at an address, as a fetch sees it. -/
def Chip.fetchAt (c : Chip) (w : Nat) (tolune : Bool) (a : Word) : Fetched :=
  match c.fetch w a with
  | .error f => .violation f.1 f.2
  | .ok (x, p) => if p then .poisoned else .word (if tolune then toluneOrder x else x)

/-- The next word of a run: a substituted one, one of resident code (beyond whose end a fetch violates, R254), one of a stray's loop buffer, or one from memory as
it stands at the fetch: a word that a store has changed is seen as soon as the store is performed (R48; log entry 94). -/
def Chip.nextWord (c : Chip) (w rid : Nat) : Fetched :=
  let run := (c.warp w).run rid
  match run.subst with
  | x :: _ => .word x
  | [] =>
    if run.emul.isSome then (c.residentWord run.bank run.pc).elim (.violation 5 run.pc) .word
    else
      match run.buffer[(run.pc - run.entry).toNat / 4]? with
      | some x => .word x
      | none => c.fetchAt w run.tolune run.pc

/-- The run notes the word at its present place, newest first. -/
def Run.note (run : Run) (x : Word) : Run :=
  let n := if run.emul.isSome || run.substFor.isSome then run.words.length - 1 else (run.pc - run.entry).toNat / 4
  { run with words := x :: run.words.drop (run.words.length - n) }

/-- The decoding of a word in the order of R320. -/
def decodeOrdered (tolune : Bool) (x : Word) : Except Reason Instr :=
  if tolune then decodeTolune (toluneOrder x) else decodeNative x

/-- The lanes of a run whose word cannot be fetched are switched off with cause 1 (R45, R162). -/
def Chip.fetchFault (c : Chip) (w rid : Nat) (code : Nat) (addr : Word) (poison : Bool) : Chip :=
  let run := (c.warp w).run rid
  let c := c.stopLanes w ((c.warp w).active run) run.npc 0 ⟨1, code, addr, poison⟩
  c.modWarp w fun wp => wp.dropRun rid

/-- A Mould TRAP (R322): event 0 before any effect of the claimed word, resuming after the trailer. -/
def Chip.mouldTrap (c : Chip) (w rid : Nat) (s : MouldSlot) : Chip :=
  c.parkMould w rid ((c.warp w).active ((c.warp w).run rid)) s

/-- A comparator's match halts the group before its word commits (R384): an event of code 1 (R301), after which the
group's next issue of the word is exempt from that comparator once. -/
def Chip.halt (c : Chip) (w rid k : Nat) : Chip :=
  let run := (c.warp w).run rid
  let ls := (c.warp w).active run
  let info : Dword := BitVec.ofNat 64 (k / 8 + 1) <<< 16 ||| BitVec.ofNat 64 (k % 8) <<< 20
  let c := c.raise w rid 1 0 info 0 0
  c.modWarp w fun wp => wp.mapLanes ls fun _ t => { t with exempt := some (run.npc, k) }

/-- What comes of a run's next word before it issues. -/
inductive Prepared where
  /-- The run cannot issue. -/
  | none
  /-- The word waits for registers that the Mould reads (R324, R326). -/
  | wait
  /-- The word met its fate without issuing. -/
  | done (c : Chip)
  /-- The word is decoded and about to issue. -/
  | word (c : Chip) (i : Instr)
  deriving DecidableEq, Repr

/-- The word is noted in its run and decoded; one that does not decode is illegal (R45 steps 3 and 4, R46). -/
def Chip.decodeNext (c : Chip) (w rid : Nat) (x : Word) : Prepared :=
  let c := c.modWarp w fun wp => wp.modRun rid fun r => r.note x
  match decodeOrdered ((c.warp w).run rid).tolune x with
  | .ok i => .word c i
  | .error r => if c.redirectWait w rid then .wait else .done (c.illegal w rid r)

/-- The first word that takes the place of the present one. -/
def Chip.replaced (c : Chip) (w rid : Nat) : Prepared :=
  match c.nextWord w rid with
  | .word x => c.decodeNext w rid x
  | .violation code addr => .done (c.fetchFault w rid code addr false)
  | .poisoned => .done (c.fetchFault w rid 0 ((c.warp w).run rid).pc true)

/-- A claimed word stands where no body word may: behind the 23rd, or behind a run-ending word (R35, R37). -/
def misplaced (run : Run) (x : Word) : Option Reason :=
  if !run.tolune && x.extractLsb' 24 8 == 1#8 then none
  else if 23 ≤ run.body then some .bodyTooLong
  else if run.ended then some .runEndNotLast
  else none

/-- What becomes of a word that a slot claims, once no comparator halts it (R321 to R324). -/
def Chip.claimed (c : Chip) (w rid : Nat) (s : MouldSlot) (x : Word) : Prepared :=
  let run := (c.warp w).run rid
  if s.action = 0 then .done (c.mouldTrap w rid s)
  else if s.action = 1 then (c.startRewrite w rid s x).replaced w rid
  else
    match misplaced run x with
    | some r => .done (c.illegal w rid r)
    | none => if framePending (c.warp w) run x then .wait else (c.startRoutine w rid s false).replaced w rid

/-- Fetches the next word of a run and takes it through the Mould and the decoder (R45 steps 1 to 4). A comparator sees a
claimed word as fetched (R321, R383). -/
def Chip.prepare (c : Chip) (w rid : Nat) : Prepared :=
  match Sparse.find (c.warp w).runs rid with
  | Option.none => .none
  | some run =>
    if run.icWait then .none
    else
      match c.nextWord w rid with
      | .violation code addr => .done (c.fetchFault w rid code addr false)
      | .poisoned => .done (c.fetchFault w rid 0 run.pc true)
      | .word x =>
        match c.wordSlot w rid x with
        | Option.none => c.decodeNext w rid x
        | some s =>
          let d := c.modWarp w fun wp => wp.modRun rid fun r => r.note x
          match c.nativeMatch w rid with
          | some k => .done (d.halt w rid k)
          | Option.none => d.claimed w rid s x

end Sys2Proof.Machine
end

