-- ==== Sys2Proof/Machine/Issue.lean ====
section
/-!
DEFINITION. Issuing one word of a run: the cycles of the ports (R379), the elements of streams and queues (R178, R180),
the advance of the run (R35 to R42), halts (R384) and failed checks (R306).
-/

namespace Sys2Proof.Machine

/-! ## The cycles of the ports -/

/-- The leaves of n cycles of a port, from one cycle on, while a run is in progress: bubbles of its stall count, then
what its next word waits for (R379). -/
def Chip.runLeaves (c : Chip) (w rid start n : Nat) : List (Nat × Nat) :=
  match c.prepare w rid with
  | .wait => [(4, n)]
  | .word d i =>
    let a := min n (((d.warp w).run rid).nextAt - start)
    match gate d w rid i with
    | .wait leaf => [(2, a), (leaf, n - a)]
    | _ =>
      let b := min (n - a) (d.dueAt w rid i - max start (d.earliest w rid i))
      [(2, n - b), (3, b)]
  | _ => [(2, n)]

/-- The run of a port that its cycles count to: a gang's, or where no gang is in a run a stray's (R379). -/
def Chip.portRun (c : Chip) (core port : Nat) : Option (Nat × Nat) :=
  let pick (f : Run → Bool) := (c.portWarps core port).findSome? fun e => (e.2.runs.find? fun r => f r.2).map fun r => (e.1, r.1)
  (pick fun r => !r.stray).or (pick fun r => r.stray)

/-- The leaves of n cycles of a port from one cycle on (R379). -/
def Chip.portLeaves (c : Chip) (core port start n : Nat) : List (Nat × Nat) :=
  match c.portRun core port with
  | some (w, rid) => c.runLeaves w rid start n
  | none => [(c.idleLeaf core port, n)]

/-- A core after n more cycles of its ports: each cycle that no word has taken goes to the leaf of the state it passes in,
and those before the port held a warp to leaf 12 (R379; log entry 4). -/
def Chip.charged (c : Chip) (core n : Nat) : Core :=
  (List.range 4).foldl (fun k port =>
    let done := Sparse.get 0 k.leaves (busyKey port)
    let start := max done c.cycle
    let ls := (12, c.cycle - done) :: c.portLeaves core port start (c.cycle + n - start)
    let k := ls.foldl (fun k x => k.add port x.1 x.2) k
    { k with leaves := Sparse.put k.leaves (busyKey port) (max start (c.cycle + n)) }) (c.core core)

/-- Port cycles pass, counted at every port of a core that holds a warp (R379). -/
def Chip.pass (c : Chip) (n : Nat) : Chip :=
  { c.advance n with cores := c.boundCores.foldl (fun m k => Sparse.put m k (c.charged k n)) c.cores }

/-! ## Elements of streams and queues -/

/-- The lanes whose next element of a bound slot violates its window, for the slots each of them reads or writes (R178). -/
def Chip.elementFaults (c : Chip) (w rid : Nat) (slots : Nat → List Nat) : LaneStops :=
  let wp := c.warp w
  (wp.active (wp.run rid)).filterMap fun l =>
    (slots l).findSome? fun r =>
      match wp.streamAt r with
      | some (n, s) =>
        let p := Sparse.get 0 (wp.thread l).spos n
        if s.count ≤ p then none
        else (c.elementFault w s l p).map fun f => (l, violation f)
      | none => none

/-- Load-queue entries that every live lane has popped are freed (R180). -/
def Warp.freeEntries (wp : Warp) : Warp :=
  { wp with
    queues := wp.queues.map fun (n, q) =>
      if n < 4 then
        let low := wp.liveLanes.foldl (fun m l => min m (Sparse.get q.first (wp.thread l).qptr n)) (q.first + q.fifo.length)
        (n, { q with fifo := q.fifo.drop (low - q.first), first := max q.first low })
      else (n, q) }

/-- A lane's value goes to the store queue, as entry p of its own pushes (R180). -/
def Queue.push (q : Queue) (l p : Nat) (v : Val) : Queue :=
  let k := p - q.first
  let fifo := if k < q.fifo.length then q.fifo else q.fifo ++ List.replicate (k + 1 - q.fifo.length) []
  { q with fifo := fifo.set k (Sparse.set ⟨0, false⟩ (fifo.getD k []) l v) }

/-- A lane's element of a bound slot takes its place as its word issues: a stream element at the position, behind the stores
before it, and a queue value as the lane's next entry (R178, R180, R277). Its value is known now, or still to come
(R153). -/
def Chip.putElement (c : Chip) (w l slot : Nat) (npc word : Word) (v : Option Val) : Chip :=
  let wp := c.warp w
  let t := wp.thread l
  match wp.streamAt slot, wp.queueAt slot with
  | some (n, s), _ =>
    let p := Sparse.get 0 t.spos n
    if s.count ≤ p then c
    else c.modWarp w fun wp =>
      { wp.modThread l fun t => { t with spos := Sparse.put t.spos n (p + 1) } with
        storeQ := wp.storeQ ++
          [⟨l, .element, s.addr l p, bytesOfNum s.esize (v.elim 0 fun v => v.v.toNat), v.any (·.p), npc, word, t.wid, t.gpc, t.rentry,
            if v.isNone then some slot else none⟩] }
  | none, some (n, q) =>
    let p := Sparse.get q.first t.qptr n
    c.modWarp w fun wp =>
      { wp.modThread l fun t => { t with qptr := Sparse.put t.qptr n (p + 1) } with
        queues := Sparse.put wp.queues n (v.elim { q with due := q.due ++ [(l, slot, p)] } (q.push l p)) }
  | none, none => c

/-- A value that was still to come takes the place of its element, if it has one (R178, R180). -/
def Chip.fillElement (c : Chip) (w l slot : Nat) (v : Val) : Chip :=
  c.modWarp w fun wp =>
    { wp with
      storeQ := wp.storeQ.map fun x =>
        if x.awaits l slot then { x with bytes := bytesOfNum x.bytes.length v.v.toNat, poison := v.p, due := none } else x
      queues := wp.queues.map fun e =>
        match e.2.due.find? fun x => x.1 == l && x.2.1 == slot with
        | some x => (e.1, { e.2.push l x.2.2 v with due := e.2.due.erase x })
        | none => e }

/-- Values still to come land in cells of a lane, which no stall count covers; an element of a bound slot takes its place in
its stream or queue (R153, R178). -/
def Chip.landCells (c : Chip) (w l : Nat) (vs : Sparse Val) : Chip :=
  let vs := vs.filter fun e => e.1 != noCell
  let c := c.modWarp w fun wp => wp.modThread l fun t =>
    { (t.setCells vs).unfix (vs.map (·.1)) with since := if t.waits.isEmpty then t.since else c.cycle }
  vs.foldl (fun c e => (latchSlot e.1).elim c fun r => c.fillElement w l r e.2) c

/-- A word that may name registers through values or implied writes. -/
def reaches : Instr → Bool
  | .rget _ _ _ | .rput _ _ _ | .call _ _ _ | .callr _ _ _ | .gtrap _ _ | .dsp _ _ => true
  | _ => false

/-- Before the word's effect, lanes whose element violates its window stop and source elements are taken (R178): first those
that the word's fields name, then those it reaches (log entry 95). -/
def Chip.takeElements (c : Chip) (w rid : Nat) (i : Instr) : Chip :=
  let bound := (c.warp w).boundSlots
  let named := amongSlots bound (i.reads ++ i.writes)
  if named.isEmpty && !(reaches i && !bound.isEmpty) then c
  else
    let c := c.faultLanes w rid (c.elementFaults w rid fun _ => named)
    let c := c.modWarp w fun wp => wp.takeNamed rid i
    let reached (l : Nat) : List Nat :=
      let wp := c.warp w
      amongSlots bound (indexReads wp (wp.run rid) (wp.thread l) i ++ c.impliedWrites w (wp.run rid) (wp.thread l) i)
    let c := c.faultLanes w rid (c.elementFaults w rid reached)
    c.modWarp w fun wp => (wp.takeIndexed rid i).freeEntries

/-- A lane's cell is still to be written: by a pending result, or by a parked `spinw` (R129, R153). -/
def Thread.owes (t : Thread) (k : Nat) : Bool := t.pendingOn [k] || t.waits.any fun x => x.spinCell == some k

/-- The elements that lanes write to some bound slots take their places, lane by lane (R178, R277). Those of a collective are
all still to come (R164). -/
def Chip.putSlots (c : Chip) (w rid : Nat) (ls slots : List Nat) (coming : Bool) : Chip :=
  let run := (c.warp w).run rid
  (ls.flatMap fun l => slots.map fun r => (l, r)).foldl
    (fun c (x : Nat × Nat) =>
      let t := (c.warp w).thread x.1
      c.putElement w x.1 x.2 run.npc run.raw (if coming || t.owes (512 + x.2) then none else some (t.cellVal (512 + x.2)))) c

/-- After the word's effect: the elements its fields name as destinations. -/
def Chip.putElements (c : Chip) (w rid : Nat) (i : Instr) : Chip :=
  let wp := c.warp w
  let ws := amongSlots wp.boundSlots i.writes
  if ws.isEmpty then c else c.putSlots w rid (wp.active (wp.run rid)) ws i.collective

/-- After the implied writes of a lane: the elements among them. -/
def Chip.putImplied (c : Chip) (w rid l : Nat) (rs : List Reg) : Chip :=
  c.putSlots w rid [l] (amongSlots (c.warp w).boundSlots rs) false

/-! ## Issuing -/

/-- A word's cycle of issue is counted at its port (R379), its draw is held (R161), and time stands at its issue. The
first word of a region entry raises `rec` (R41). -/
def Chip.begin (c : Chip) (w rid : Nat) (i : Instr) : Chip :=
  let wp := c.warp w
  let run := wp.run rid
  let port := portOf wp.slot
  let t := c.dueAt w rid i
  let o := run.occupancy
  let n := (wp.active run).length
  let c := c.pass (t - c.cycle)
  let c := c.modCore wp.core fun k =>
    let k := (k.add port 0 n).add port 1 (32 * o - n)
    let ls := Sparse.put k.leaves (busyKey port) (t + o)
    { k with leaves := if i.vector64 then Sparse.put ls (path64Key port) (t + 4 * o) else ls }
  let c := if run.entering then
      c.modWarp w fun wp => { wp.modRun rid fun r => { r with entering := false } with entries := wp.entries + 1 }
    else c
  if i.vector64 then
    c.modWarp w fun wp => { wp with
      drawHeld := (8, t + 4 * o) :: wp.drawHeld.filter fun e => decide (t < e.2) }
  else c

/-- The cycle from which the word after one may issue, with the cycles of its issue and of the end of its occupancy: its stall
count later (R36, R144), none for an EXT (R33); Tolune code issues one instruction in 4 port cycles (R52). -/
def Run.readyAfter (run : Run) (i : Instr) (cycle done : Nat) : Nat :=
  match i with
  | .ext _ => done
  | _ => if run.tolune then max done (cycle + 4) else done + ((run.words.headD 0).extractLsb' 0 3).toNat

/-- The cycle that ends the occupancy of the word issued last at a warp's port, by the lanes it issued with (R144). -/
def Chip.issueEnd (c : Chip) (w rid : Nat) : Nat :=
  let wp := c.warp w
  max (c.cycle + (wp.run rid).occupancy) (Sparse.get 0 (c.core wp.core).leaves (busyKey (portOf wp.slot)))

/-- A floating-point word with flags to raise (R95). -/
def isFloat (i : Instr) : Bool :=
  match encode i with
  | some x => let op := (x.extractLsb' 24 8).toNat; decide (0x50 ≤ op ∧ op < 0x80)
  | none => false

/-- Fixed-latency results of a word become ready later (R144), and with them its flags (R375). A word of variable latency
leaves its registers to the scoreboard (R72, R153). -/
def Chip.setReady (c : Chip) (w rid : Nat) (i : Instr) (npc : Word) (at' : Nat) : Chip :=
  match i.latency with
  | none => c.lanesDo w rid fun wp run _ t => t.unfix (i.writes.map (wp.cellIn run t))
  | some n => c.lanesDo w rid fun wp run _ t =>
      let cells := i.writes.map (wp.cellIn run t)
      { t with
        fix := cells.map (fun k => ⟨k, at' + n, npc, n⟩) ++
          t.fix.filter fun f => !cells.contains f.cell && decide (at' < f.ready)
        flagsAt := if isFloat i then max t.flagsAt (at' + n) else t.flagsAt }

/-- The temporaries a word writes are alive from here on (R38). -/
def Run.writeTemps (run : Run) (i : Instr) : BitVec 8 :=
  if run.tolune then run.tw
  else i.writes.foldl (fun m r => if 120 ≤ r.toNat then m ||| (1#8 <<< (r.toNat - 120)) else m) run.tw

/-- The run goes on to its next word (R36, R42); a substituted word gives way to the next (R323). -/
def Run.step (run : Run) (i : Instr) (cycle done : Nat) : Run :=
  let run := { run with
    tw := run.writeTemps i
    ended := run.ended || i.runEnding
    ext := match i with | .ext p => some p | _ => none
    nextAt := run.readyAfter i cycle done }
  match run.subst with
  | _ :: x :: r => { run with subst := x :: r, words := x :: run.words.drop 1 }
  | _ :: [] => { run with
      subst := [], substFor := none, pc := run.pc + 4, body := run.body + 1
      words := match run.substFor with
        | some (_, x) => x :: run.words.drop 1
        | none => run.words }
  | [] => { run with pc := run.pc + 4, body := run.body + 1 }

/-- A transfer whose target is a safe point of Tolune code: a `jmpr`, or a branch taken backwards (R369). -/
def safePoint (i : Instr) (run : Run) (pc : Word) : Bool :=
  match i with
  | .jmpr _ _ => true
  | .bra _ _ | .bnz _ _ _ | .bz _ _ _ | .bltz _ _ _ | .bgez _ _ _ => decide (pc.toNat < run.pc.toNat)
  | _ => false

/-- After a Tolune instruction every lane stands at the next one, or where the instruction sent it (R52). Words that the
Mould puts in its place make one instruction together (R323). -/
def Chip.endTolune (c : Chip) (w rid : Nat) (i : Instr) : Chip :=
  let wp := c.warp w
  let run := wp.run rid
  if run.tolune && run.subst.isEmpty then
    c.modWarp w fun wp =>
      let wp := wp.mapLanes (wp.active run) fun _ t => { t with
        pc := if run.ended then t.pc else run.pc
        safe := safePoint i run t.pc
        waits := t.waits ++ run.waits, nextAt := run.nextAt, since := run.nextAt }
      wp.dropRun rid
  else c

/-- A group's exemption from a comparator holds for one issue of the word (R384), with all that the Mould puts in its
place. -/
def Chip.endExemption (c : Chip) (w rid : Nat) : Chip :=
  c.lanesDo w rid fun _ run _ t =>
    if run.emul.isSome || decide (1 < run.subst.length) then t else t.passHalt run.npc

/-- The end of a word's issue: elements written, readiness, and the run's advance. -/
def Chip.finish (c : Chip) (w rid : Nat) (i : Instr) : Chip :=
  if (Sparse.find (c.warp w).runs rid).isNone then c
  else
    let run := (c.warp w).run rid
    let done := c.issueEnd w rid
    let c := c.putElements w rid i
    let c := c.setReady w rid i run.npc done
    let c := c.endExemption w rid
    let c := c.modWarp w fun wp => { wp with runs := Sparse.modify wp.runs rid fun r => r.step i c.cycle done }
    c.endTolune w rid i

/-- A cycle in which a word waits in its run: it counts as the port's state has it (R379). -/
def Chip.waitCycle (c : Chip) : Chip := c.pass 1

/-- What a lane sent back to its region entry still waits for: a reply that it is parked for, which then resumes it
there. -/
def Wait.retried (entry : Word) : Wait → Option Wait
  | .trap n _ => some (.trap n entry)
  | .service n => some (.service n)
  | _ => none

/-- A failed check commits nothing (R306): the group goes back to its region entry with a record of the attempt; a
second failure in the region fences the core, and the launch is replayed or aborted by the Ferryman. -/
def Chip.mismatch (c : Chip) (w : Nat) (ls : List Nat) (npc word : Word) (unit attempt : Nat) (entry : Nat → Word) : Chip :=
  let wp := c.warp w
  let c := { c with inject := none }
  let info : Dword := BitVec.ofNat 64 (unit + 256 * attempt + 65536 * portOf wp.slot)
  let c := c.post (c.record w ls npc word 6 0 info 0 0)
  let m := maskOf ls
  let entering := wp.runs.any fun r => r.2.entering && (r.2.lanes &&& m) != 0
  let given := collectivesOf ((ls.flatMap fun l => (wp.thread l).waits) ++ wp.runs.flatMap fun r =>
    if (r.2.lanes &&& m) == 0 then [] else r.2.waits)
  let c := c.modWarp w fun wp =>
    let wp := ls.foldl (fun wp l => wp.takeBackCells l ((wp.thread l).waits.filterMap Wait.spinCell)) wp
    let wp := wp.mapLanes ls fun l t => clearTemps { t with
      pc := entry l, retry := attempt, waits := t.waits.filterMap (Wait.retried (entry l)), fix := [], entryNext := false,
      recDue := entering, since := c.cycle }
    ({ wp with runs := dropMask wp.runs m }.withdraw m given).settleRuns
  if 2 ≤ attempt then { c with failures := c.failures ++ [(wp.core, wp.launch)] } else c

/-- A meaning: the change a word makes, given the warp and the run. -/
abbrev Body := Nat → Nat → Chip → Chip

/-- A use that a word's own description names illegal once its operands are known (R46 reason 9). -/
abbrev UseCheck := Nat → Nat → Chip → Bool

/-- No such use. -/
def anyUse : UseCheck := fun _ _ _ => false

/-- Issues a word of the run in focus: the change `go` makes, or the fate the gate gives it. -/
def issueWith (i : Instr) (bad : UseCheck) (go : Body) (s : State) : Host.Outcome State Fault Refusal :=
  match s.focus with
  | none => .fault .noIssuer
  | some (w, rid) =>
    let c := s.chip
    match gate c w rid i with
    | .noRun => .fault .noIssuer
    | .illegal r => .next { s with chip := c.illegal w rid r }
    | .wait _ => .next { s with chip := c.waitCycle }
    | .short r f n =>
      let info : Dword := f.npc.setWidth 64 ||| BitVec.ofNat 64 (r.toNat % 128) <<< 32 |||
        BitVec.ofNat 64 (f.cls % 16) <<< 40 ||| BitVec.ofNat 64 (min n 15) <<< 44
      .next { s with chip := c.raise w rid 3 0 info 0 0 }
    | .halt kind num => .next { s with chip := c.halt w rid (kind * 8 + num) }
    | .mismatch u =>
      let run := (c.warp w).run rid
      let ls := (c.warp w).active run
      .next { s with chip := c.mismatch w ls run.npc run.raw u (((c.warp w).thread (ls.headD 0)).retry + 1) fun l =>
        ((c.warp w).thread l).restart run }
    | .run =>
      if bad w rid (c.peek w rid i) then .next { s with chip := c.illegal w rid .illegalUse }
      else .next { s with chip := go w rid c }

/-- A body word's whole issue around its effect: time, source elements, the effect, destination elements, the run's
advance. -/
def wordGo (i : Instr) (body : Body) : Body := fun w rid c =>
  (body w rid ((c.begin w rid i).takeElements w rid i)).finish w rid i

/-- Issues a body word that has a use to check against its operands. -/
def issueIf (i : Instr) (bad : UseCheck) (body : Body) (s : State) : Host.Outcome State Fault Refusal :=
  issueWith i bad (wordGo i body) s

/-- An event that acts on the chip, where its condition holds. -/
def chipEvent (go : Chip → Option Chip) (s : State) : Host.Outcome State Fault Refusal :=
  match go s.chip with
  | some c => .next { s with chip := c }
  | none => .fault .eventNotEnabled

/-- An event that acts on the machine, where its condition holds. -/
def stateEvent (go : State → Option State) (s : State) : Host.Outcome State Fault Refusal :=
  match go s with
  | some s => .next s
  | none => .fault .eventNotEnabled

/-- Issues a body word. -/
def issue (i : Instr) (body : Body) (s : State) : Host.Outcome State Fault Refusal := issueIf i anyUse body s

end Sys2Proof.Machine
end

