-- ==== Sys2Proof/Machine/Integer.lean ====
section
/-!
DEFINITION. Integer, bit and address words, 0x18 to 0x4F (R69 to R89).
-/

namespace Sys2Proof.Machine

/-! ## Shapes -/

/-- d := f(a), poisoned when a is (R71). -/
def unOp (d a : Reg) (f : Word → Word) : Body := fun w rid c =>
  c.lanesDo w rid fun wp run _ t =>
    let x := wp.read run t a
    wp.write run t d ⟨f x.v, x.p⟩

/-- d := f(a, b), poisoned when either is (R71). -/
def binOp (d a b : Reg) (f : Word → Word → Word) : Body := fun w rid c =>
  c.lanesDo w rid fun wp run _ t =>
    let x := wp.read run t a
    let y := wp.read run t b
    wp.write run t d ⟨f x.v y.v, x.p || y.p⟩

/-- d := f(d, a, b), reading the old d (R69). -/
def triOp (d a b : Reg) (f : Word → Word → Word → Word) : Body := fun w rid c =>
  c.lanesDo w rid fun wp run _ t =>
    let z := wp.read run t d
    let x := wp.read run t a
    let y := wp.read run t b
    wp.write run t d ⟨f z.v x.v y.v, z.p || x.p || y.p⟩

/-- d := f(a, imm), with the immediate of R84. -/
def immOp (d a : Reg) (i : Imm) (f : Word → Word → Word) : Body := fun w rid c =>
  c.lanesDo w rid fun wp run _ t =>
    let x := wp.read run t a
    wp.write run t d ⟨f x.v (immOperand run i), x.p⟩

/-- p(d) := f(p(a), p(b)) on pairs (R88). -/
def pairOp (d a b : Reg) (f : Dword → Dword → Dword) : Body := fun w rid c =>
  c.lanesDo w rid fun wp run _ t =>
    let x := wp.readPair run t a
    let y := wp.readPair run t b
    wp.writePair run t d (f x.1 y.1) (x.2 || y.2)

/-- A result that arrives later: registers of a lane with their values, tracked by the scoreboard (R153). -/
def Thread.await (t : Thread) (kind : PendKind) (cells : Sparse Val) (fl : BitVec 5) : Thread :=
  { t with pend := t.pend ++ [⟨kind, cells, fl⟩] }

/-- d := f(a, b), delivered later by the divider (R72). -/
def divOp (d a b : Reg) (f : Word → Word → Word) : Body := fun w rid c =>
  c.lanesDo w rid fun wp run _ t =>
    let x := wp.read run t a
    let y := wp.read run t b
    t.await .divide [(wp.cellIn run t d, ⟨f x.v y.v, x.p || y.p⟩)] 0

/-! ## Results -/

/-- 1 when a relation holds, else 0 (R79). -/
def flag (b : Bool) : Word := if b then 1 else 0

/-- The shift count of a register (R76). -/
def count5 (b : Word) : Nat := (b.extractLsb' 0 5).toNat

def shlW (a b : Word) : Word := a <<< count5 b
def shrW (a b : Word) : Word := a >>> count5 b
def sarW (a b : Word) : Word := a.sshiftRight (count5 b)
def rolW (a b : Word) : Word := a.rotateLeft (count5 b)

/-- Bits [63:32] of the signed and of the unsigned product (R77). -/
def mulhsW (a b : Word) : Word := BitVec.ofInt 32 (a.toInt * b.toInt / 2 ^ 32)
def mulhuW (a b : Word) : Word := BitVec.ofNat 32 (a.toNat * b.toNat / 2 ^ 32)

/-- Quotient and remainder truncating toward zero, with the results R78 fixes for a divisor of 0 and for overflow. -/
def divsW (a b : Word) : Word := if b = 0 then BitVec.allOnes 32 else BitVec.ofInt 32 (a.toInt.tdiv b.toInt)
def remsW (a b : Word) : Word := if b = 0 then a else BitVec.ofInt 32 (a.toInt.tmod b.toInt)
def divuW (a b : Word) : Word := if b = 0 then BitVec.allOnes 32 else BitVec.ofNat 32 (a.toNat / b.toNat)
def remuW (a b : Word) : Word := if b = 0 then a else BitVec.ofNat 32 (a.toNat % b.toNat)

def minsW (a b : Word) : Word := if a.sle b then a else b
def minuW (a b : Word) : Word := if a.ule b then a else b
def maxsW (a b : Word) : Word := if b.sle a then a else b
def maxuW (a b : Word) : Word := if b.ule a then a else b

/-- Absolute value, wrapping (R80). -/
def absW (a : Word) : Word := if a.slt 0 then 0 - a else a

/-- Counts and reversal of bits (R81). -/
def clzW (a : Word) : Word := if a = 0 then 32 else BitVec.ofNat 32 (31 - Nat.log2 a.toNat)
def ctzW (a : Word) : Word := BitVec.ofNat 32 (((List.range 32).find? a.getLsbD).getD 32)
def popcW (a : Word) : Word := BitVec.ofNat 32 ((List.range 32).filter a.getLsbD).length
def brevW (a : Word) : Word := (List.range 32).foldl (fun r i => r ||| (flag (a.getLsbD i) <<< (31 - i))) 0

/-- Position and effective length of a bit field (R82). -/
def fieldPos (b : Word) : Nat := (b.extractLsb' 0 5).toNat
def fieldLen (b : Word) : Nat := min (b.extractLsb' 8 5).toNat (32 - fieldPos b)

def bfxuW (a b : Word) : Word := (a >>> fieldPos b) &&& BitVec.ofNat 32 (2 ^ fieldLen b - 1)
def bfxsW (a b : Word) : Word :=
  if fieldLen b = 0 then 0 else (a <<< (32 - fieldPos b - fieldLen b)).sshiftRight (32 - fieldLen b)
def bfiW (d a b : Word) : Word :=
  let m := BitVec.ofNat 32 (2 ^ fieldLen b - 1) <<< fieldPos b
  (d &&& ~~~m) ||| ((a <<< fieldPos b) &&& m)

/-! ## Meanings -/

/-- `add` (R75). -/
def execAdd (d : Reg) (a : Reg) (b : Reg) (s : Stall) (σ : State) : Host.Outcome State Fault Refusal :=
  issue (.add d a b s) (binOp d a b (· + ·)) σ

/-- `sub` (R75). -/
def execSub (d : Reg) (a : Reg) (b : Reg) (s : Stall) (σ : State) : Host.Outcome State Fault Refusal :=
  issue (.sub d a b s) (binOp d a b (· - ·)) σ

/-- `mul` (R77). -/
def execMul (d : Reg) (a : Reg) (b : Reg) (s : Stall) (σ : State) : Host.Outcome State Fault Refusal :=
  issue (.mul d a b s) (binOp d a b (· * ·)) σ

/-- `mulhs` (R77). -/
def execMulhs (d : Reg) (a : Reg) (b : Reg) (s : Stall) (σ : State) : Host.Outcome State Fault Refusal :=
  issue (.mulhs d a b s) (binOp d a b mulhsW) σ

/-- `mulhu` (R77). -/
def execMulhu (d : Reg) (a : Reg) (b : Reg) (s : Stall) (σ : State) : Host.Outcome State Fault Refusal :=
  issue (.mulhu d a b s) (binOp d a b mulhuW) σ

/-- `mad` (R77). -/
def execMad (d : Reg) (a : Reg) (b : Reg) (s : Stall) (σ : State) : Host.Outcome State Fault Refusal :=
  issue (.mad d a b s) (triOp d a b fun z x y => z + x * y) σ

/-- `divs` (R78). -/
def execDivs (d : Reg) (a : Reg) (b : Reg) (s : Stall) (σ : State) : Host.Outcome State Fault Refusal :=
  issue (.divs d a b s) (divOp d a b divsW) σ

/-- `divu` (R78). -/
def execDivu (d : Reg) (a : Reg) (b : Reg) (s : Stall) (σ : State) : Host.Outcome State Fault Refusal :=
  issue (.divu d a b s) (divOp d a b divuW) σ

/-- `rems` (R78). -/
def execRems (d : Reg) (a : Reg) (b : Reg) (s : Stall) (σ : State) : Host.Outcome State Fault Refusal :=
  issue (.rems d a b s) (divOp d a b remsW) σ

/-- `remu` (R78). -/
def execRemu (d : Reg) (a : Reg) (b : Reg) (s : Stall) (σ : State) : Host.Outcome State Fault Refusal :=
  issue (.remu d a b s) (divOp d a b remuW) σ

/-- `and` (R75). -/
def execAnd (d : Reg) (a : Reg) (b : Reg) (s : Stall) (σ : State) : Host.Outcome State Fault Refusal :=
  issue (.and d a b s) (binOp d a b (· &&& ·)) σ

/-- `or` (R75). -/
def execOr (d : Reg) (a : Reg) (b : Reg) (s : Stall) (σ : State) : Host.Outcome State Fault Refusal :=
  issue (.or d a b s) (binOp d a b (· ||| ·)) σ

/-- `xor` (R75). -/
def execXor (d : Reg) (a : Reg) (b : Reg) (s : Stall) (σ : State) : Host.Outcome State Fault Refusal :=
  issue (.xor d a b s) (binOp d a b (· ^^^ ·)) σ

/-- `andn` (R75). -/
def execAndn (d : Reg) (a : Reg) (b : Reg) (s : Stall) (σ : State) : Host.Outcome State Fault Refusal :=
  issue (.andn d a b s) (binOp d a b fun x y => x &&& ~~~y) σ

/-- `shl` (R76). -/
def execShl (d : Reg) (a : Reg) (b : Reg) (s : Stall) (σ : State) : Host.Outcome State Fault Refusal :=
  issue (.shl d a b s) (binOp d a b shlW) σ

/-- `shr` (R76). -/
def execShr (d : Reg) (a : Reg) (b : Reg) (s : Stall) (σ : State) : Host.Outcome State Fault Refusal :=
  issue (.shr d a b s) (binOp d a b shrW) σ

/-- `sar` (R76). -/
def execSar (d : Reg) (a : Reg) (b : Reg) (s : Stall) (σ : State) : Host.Outcome State Fault Refusal :=
  issue (.sar d a b s) (binOp d a b sarW) σ

/-- `rol` (R76). -/
def execRol (d : Reg) (a : Reg) (b : Reg) (s : Stall) (σ : State) : Host.Outcome State Fault Refusal :=
  issue (.rol d a b s) (binOp d a b rolW) σ

/-- `mins` (R79). -/
def execMins (d : Reg) (a : Reg) (b : Reg) (s : Stall) (σ : State) : Host.Outcome State Fault Refusal :=
  issue (.mins d a b s) (binOp d a b minsW) σ

/-- `minu` (R79). -/
def execMinu (d : Reg) (a : Reg) (b : Reg) (s : Stall) (σ : State) : Host.Outcome State Fault Refusal :=
  issue (.minu d a b s) (binOp d a b minuW) σ

/-- `maxs` (R79). -/
def execMaxs (d : Reg) (a : Reg) (b : Reg) (s : Stall) (σ : State) : Host.Outcome State Fault Refusal :=
  issue (.maxs d a b s) (binOp d a b maxsW) σ

/-- `maxu` (R79). -/
def execMaxu (d : Reg) (a : Reg) (b : Reg) (s : Stall) (σ : State) : Host.Outcome State Fault Refusal :=
  issue (.maxu d a b s) (binOp d a b maxuW) σ

/-- `seq` (R79). -/
def execSeq (d : Reg) (a : Reg) (b : Reg) (s : Stall) (σ : State) : Host.Outcome State Fault Refusal :=
  issue (.seq d a b s) (binOp d a b fun x y => flag (x == y)) σ

/-- `sne` (R79). -/
def execSne (d : Reg) (a : Reg) (b : Reg) (s : Stall) (σ : State) : Host.Outcome State Fault Refusal :=
  issue (.sne d a b s) (binOp d a b fun x y => flag (x != y)) σ

/-- `slt` (R79). -/
def execSlt (d : Reg) (a : Reg) (b : Reg) (s : Stall) (σ : State) : Host.Outcome State Fault Refusal :=
  issue (.slt d a b s) (binOp d a b fun x y => flag (x.slt y)) σ

/-- `sltu` (R79). -/
def execSltu (d : Reg) (a : Reg) (b : Reg) (s : Stall) (σ : State) : Host.Outcome State Fault Refusal :=
  issue (.sltu d a b s) (binOp d a b fun x y => flag (x.ult y)) σ

/-- `sle` (R79). -/
def execSle (d : Reg) (a : Reg) (b : Reg) (s : Stall) (σ : State) : Host.Outcome State Fault Refusal :=
  issue (.sle d a b s) (binOp d a b fun x y => flag (x.sle y)) σ

/-- `sleu` (R79). -/
def execSleu (d : Reg) (a : Reg) (b : Reg) (s : Stall) (σ : State) : Host.Outcome State Fault Refusal :=
  issue (.sleu d a b s) (binOp d a b fun x y => flag (x.ule y)) σ

/-- `csel` (R80). -/
def execCsel (d : Reg) (a : Reg) (b : Reg) (s : Stall) (σ : State) : Host.Outcome State Fault Refusal :=
  issue (.csel d a b s) (triOp d a b fun z x y => if z = 0 then y else x) σ

/-- `mov` (R80). -/
def execMov (d : Reg) (a : Reg) (s : Stall) (σ : State) : Host.Outcome State Fault Refusal :=
  issue (.mov d a s) (unOp d a id) σ

/-- `clz` (R81). -/
def execClz (d : Reg) (a : Reg) (s : Stall) (σ : State) : Host.Outcome State Fault Refusal :=
  issue (.clz d a s) (unOp d a clzW) σ

/-- `ctz` (R81). -/
def execCtz (d : Reg) (a : Reg) (s : Stall) (σ : State) : Host.Outcome State Fault Refusal :=
  issue (.ctz d a s) (unOp d a ctzW) σ

/-- `popc` (R81). -/
def execPopc (d : Reg) (a : Reg) (s : Stall) (σ : State) : Host.Outcome State Fault Refusal :=
  issue (.popc d a s) (unOp d a popcW) σ

/-- `brev` (R81). -/
def execBrev (d : Reg) (a : Reg) (s : Stall) (σ : State) : Host.Outcome State Fault Refusal :=
  issue (.brev d a s) (unOp d a brevW) σ

/-- `abs` (R80). -/
def execAbs (d : Reg) (a : Reg) (s : Stall) (σ : State) : Host.Outcome State Fault Refusal :=
  issue (.abs d a s) (unOp d a absW) σ

/-- `bfxu` (R83). -/
def execBfxu (d : Reg) (a : Reg) (b : Reg) (s : Stall) (σ : State) : Host.Outcome State Fault Refusal :=
  issue (.bfxu d a b s) (binOp d a b bfxuW) σ

/-- `bfxs` (R83). -/
def execBfxs (d : Reg) (a : Reg) (b : Reg) (s : Stall) (σ : State) : Host.Outcome State Fault Refusal :=
  issue (.bfxs d a b s) (binOp d a b bfxsW) σ

/-- `bfi` (R83). -/
def execBfi (d : Reg) (a : Reg) (b : Reg) (s : Stall) (σ : State) : Host.Outcome State Fault Refusal :=
  issue (.bfi d a b s) (triOp d a b bfiW) σ

/-- `addi` (R84). -/
def execAddi (d : Reg) (a : Reg) (i : Imm) (s : Stall) (σ : State) : Host.Outcome State Fault Refusal :=
  issue (.addi d a i s) (immOp d a i (· + ·)) σ

/-- `andi` (R84). -/
def execAndi (d : Reg) (a : Reg) (i : Imm) (s : Stall) (σ : State) : Host.Outcome State Fault Refusal :=
  issue (.andi d a i s) (immOp d a i (· &&& ·)) σ

/-- `ori` (R84). -/
def execOri (d : Reg) (a : Reg) (i : Imm) (s : Stall) (σ : State) : Host.Outcome State Fault Refusal :=
  issue (.ori d a i s) (immOp d a i (· ||| ·)) σ

/-- `xori` (R84). -/
def execXori (d : Reg) (a : Reg) (i : Imm) (s : Stall) (σ : State) : Host.Outcome State Fault Refusal :=
  issue (.xori d a i s) (immOp d a i (· ^^^ ·)) σ

/-- `shli` (R84). -/
def execShli (d : Reg) (a : Reg) (i : Imm) (s : Stall) (σ : State) : Host.Outcome State Fault Refusal :=
  issue (.shli d a i s) (immOp d a i shlW) σ

/-- `shri` (R84). -/
def execShri (d : Reg) (a : Reg) (i : Imm) (s : Stall) (σ : State) : Host.Outcome State Fault Refusal :=
  issue (.shri d a i s) (immOp d a i shrW) σ

/-- `sari` (R84). -/
def execSari (d : Reg) (a : Reg) (i : Imm) (s : Stall) (σ : State) : Host.Outcome State Fault Refusal :=
  issue (.sari d a i s) (immOp d a i sarW) σ

/-- `movi` (R86). -/
def execMovi (d : Reg) (i : Imm14) (s : Stall) (σ : State) : Host.Outcome State Fault Refusal :=
  issue (.movi d i s) (fun w rid c => c.lanesDo w rid fun wp run _ t => wp.write run t d ⟨wideOperand run i, false⟩) σ

/-- `slti` (R84). -/
def execSlti (d : Reg) (a : Reg) (i : Imm) (s : Stall) (σ : State) : Host.Outcome State Fault Refusal :=
  issue (.slti d a i s) (immOp d a i fun x y => flag (x.slt y)) σ

/-- `seqi` (R84). -/
def execSeqi (d : Reg) (a : Reg) (i : Imm) (s : Stall) (σ : State) : Host.Outcome State Fault Refusal :=
  issue (.seqi d a i s) (immOp d a i fun x y => flag (x == y)) σ

/-- `lea1` (R87). -/
def execLea1 (d : Reg) (a : Reg) (b : Reg) (s : Stall) (σ : State) : Host.Outcome State Fault Refusal :=
  issue (.lea1 d a b s) (binOp d a b fun x y => x + y * 1) σ

/-- `lea2` (R87). -/
def execLea2 (d : Reg) (a : Reg) (b : Reg) (s : Stall) (σ : State) : Host.Outcome State Fault Refusal :=
  issue (.lea2 d a b s) (binOp d a b fun x y => x + y * 2) σ

/-- `lea4` (R87). -/
def execLea4 (d : Reg) (a : Reg) (b : Reg) (s : Stall) (σ : State) : Host.Outcome State Fault Refusal :=
  issue (.lea4 d a b s) (binOp d a b fun x y => x + y * 4) σ

/-- `lea8` (R87). -/
def execLea8 (d : Reg) (a : Reg) (b : Reg) (s : Stall) (σ : State) : Host.Outcome State Fault Refusal :=
  issue (.lea8 d a b s) (binOp d a b fun x y => x + y * 8) σ

/-- `add64` (R88). -/
def execAdd64 (d : Reg) (a : Reg) (b : Reg) (s : Stall) (σ : State) : Host.Outcome State Fault Refusal :=
  issue (.add64 d a b s) (pairOp d a b (· + ·)) σ

/-- `sub64` (R88). -/
def execSub64 (d : Reg) (a : Reg) (b : Reg) (s : Stall) (σ : State) : Host.Outcome State Fault Refusal :=
  issue (.sub64 d a b s) (pairOp d a b (· - ·)) σ

/-- `mulw` (R88). -/
def execMulw (d : Reg) (a : Reg) (b : Reg) (s : Stall) (σ : State) : Host.Outcome State Fault Refusal :=
  issue (.mulw d a b s) (fun w rid c => c.lanesDo w rid fun wp run _ t =>
    let x := wp.read run t a
    let y := wp.read run t b
    wp.writePair run t d (BitVec.ofNat 64 (x.v.toNat * y.v.toNat)) (x.p || y.p)) σ

/-- `sltu64` (R88). -/
def execSltu64 (d : Reg) (a : Reg) (b : Reg) (s : Stall) (σ : State) : Host.Outcome State Fault Refusal :=
  issue (.sltu64 d a b s) (fun w rid c => c.lanesDo w rid fun wp run _ t =>
    let x := wp.readPair run t a
    let y := wp.readPair run t b
    wp.write run t d ⟨flag (x.1.ult y.1), x.2 || y.2⟩) σ

end Sys2Proof.Machine
end

