-- ==== Sys2Proof/Machine/FloatWords.lean ====
section
/-!
DEFINITION. Floating-point words, 0x50 to 0x7F (R90 to R112).
-/

namespace Sys2Proof.Machine

/-! ## Shapes -/

/-- A thread raises flags (R58). -/
def Thread.raiseFlags (t : Thread) (fl : Flags) : Thread := { t with fflags := t.fflags ||| fl }

/-- A 32-bit result of number bits. -/
def word (n : Nat) : Word := BitVec.ofNat 32 n

/-- d := f(rounding mode, d, a, b) with flags; poisoned by the registers read (R99). -/
def fop (d : Reg) (srcs : List Reg) (f : Rm → List Nat → Nat × Flags) : Body := fun w rid c =>
  c.lanesDo w rid fun wp run _ t =>
    let vs := srcs.map (wp.read run t)
    let r := f (Rm.of t.frm) (vs.map fun v => v.v.toNat)
    wp.write run (t.raiseFlags r.2) d ⟨word r.1, vs.any (·.p)⟩

/-- p(d) := f(rounding mode, pairs) with flags. -/
def dop (d : Reg) (srcs : List Reg) (f : Rm → List Nat → Nat × Flags) : Body := fun w rid c =>
  c.lanesDo w rid fun wp run _ t =>
    let vs := srcs.map (wp.readPair run t)
    let r := f (Rm.of t.frm) (vs.map fun v => v.1.toNat)
    wp.writePair run (t.raiseFlags r.2) d (BitVec.ofNat 64 r.1) (vs.any (·.2))

/-- d := f(pairs), a single register. -/
def dcmp (d : Reg) (srcs : List Reg) (f : Rm → List Nat → Nat × Flags) : Body := fun w rid c =>
  c.lanesDo w rid fun wp run _ t =>
    let vs := srcs.map (wp.readPair run t)
    let r := f (Rm.of t.frm) (vs.map fun v => v.1.toNat)
    wp.write run (t.raiseFlags r.2) d ⟨word r.1, vs.any (·.2)⟩

/-- As `fop`, delivered later by the divide-and-root unit, with its flags (R97). -/
def flater (d : Reg) (srcs : List Reg) (f : Rm → List Nat → Nat × Flags) : Body := fun w rid c =>
  c.lanesDo w rid fun wp run _ t =>
    let vs := srcs.map (wp.read run t)
    let r := f (Rm.of t.frm) (vs.map fun v => v.v.toNat)
    t.await .fdiv [(wp.cellIn run t d, ⟨word r.1, vs.any (·.p)⟩)] r.2

/-- As `dop`, delivered later by the divide-and-root unit (R97). -/
def dlater (d : Reg) (srcs : List Reg) (f : Rm → List Nat → Nat × Flags) : Body := fun w rid c =>
  c.lanesDo w rid fun wp run _ t =>
    let vs := srcs.map (wp.readPair run t)
    let r := f (Rm.of t.frm) (vs.map fun v => v.1.toNat)
    let v := BitVec.ofNat 64 r.1
    let p := vs.any (·.2)
    t.await .fdiv [(wp.cellIn run t d, ⟨loHalf v, p⟩), (wp.cellIn run t (d + 1), ⟨hiHalf v, p⟩)] r.2

/-! ## Operations over bits -/

/-- The values of operands in a format. -/
def vals (f : Fmt) (xs : List Nat) : List FVal := xs.map f.decode
def opAt (xs : List FVal) (n : Nat) : FVal := xs.getD n (.nan false)

/-- a + b, a − b, a · b (R100). -/
def addF (f : Fmt) (rm : Rm) (xs : List Nat) : Nat × Flags := sumRound f rm (vals f xs)
def subF (f : Fmt) (rm : Rm) (xs : List Nat) : Nat × Flags :=
  let v := vals f xs
  sumRound f rm [opAt v 0, (opAt v 1).neg]
def mulF (f : Fmt) (rm : Rm) (xs : List Nat) : Nat × Flags :=
  let v := vals f xs
  sumRound f rm [(opAt v 0).mul (opAt v 1)]
/-- a · b + d and a · b − d, with operands d, a, b (R100). -/
def fmaF (f : Fmt) (rm : Rm) (xs : List Nat) : Nat × Flags :=
  let v := vals f xs
  sumRound f rm [(opAt v 1).mul (opAt v 2), opAt v 0]
def fmsF (f : Fmt) (rm : Rm) (xs : List Nat) : Nat × Flags :=
  let v := vals f xs
  sumRound f rm [(opAt v 1).mul (opAt v 2), (opAt v 0).neg]
def divF (f : Fmt) (rm : Rm) (xs : List Nat) : Nat × Flags :=
  let v := vals f xs
  fdivide f rm (opAt v 0) (opAt v 1)
def minF (f : Fmt) (_ : Rm) (xs : List Nat) : Nat × Flags := fminmax f false (xs.getD 0 0) (xs.getD 1 0)
def maxF (f : Fmt) (_ : Rm) (xs : List Nat) : Nat × Flags := fminmax f true (xs.getD 0 0) (xs.getD 1 0)
def cmpF (f : Fmt) (op : Cmp) (_ : Rm) (xs : List Nat) : Nat × Flags :=
  let r := fcompare f op (xs.getD 0 0) (xs.getD 1 0)
  (if r.1 then 1 else 0, r.2)
def sqrtF (f : Fmt) (rm : Rm) (xs : List Nat) : Nat × Flags := fsquareRoot f rm (opAt (vals f xs) 0)

/-- The free choice of an approximate function for its operand bits (R96; log entry 6). -/
def pickFor (op : Nat) (xs : List Nat) : Nat := Config.approxPick op (xs.getD 0 0)
def rcpF (f : Fmt) (op : Nat) (_ : Rm) (xs : List Nat) : Nat × Flags :=
  freciprocal f (pickFor op xs) (opAt (vals f xs) 0)
def rsqF (_ : Rm) (xs : List Nat) : Nat × Flags := freciprocalRoot f32 (pickFor 0x5D xs) (opAt (vals f32 xs) 0)
def exp2F (_ : Rm) (xs : List Nat) : Nat × Flags := fexp2Fn f32 (pickFor 0x60 xs) (opAt (vals f32 xs) 0)
def log2F (_ : Rm) (xs : List Nat) : Nat × Flags := flog2Fn f32 (pickFor 0x61 xs) (opAt (vals f32 xs) 0)
def sinF (_ : Rm) (xs : List Nat) : Nat × Flags := ftrig f32 (pickFor 0x62 xs) false (opAt (vals f32 xs) 0)
def cosF (_ : Rm) (xs : List Nat) : Nat × Flags := ftrig f32 (pickFor 0x63 xs) true (opAt (vals f32 xs) 0)

/-- The magnitude of a with the sign of b (R101). -/
def copySign (a b : Word) : Word := (a &&& 0x7FFFFFFF) ||| (b &&& 0x80000000)

/-- Element e of a packed pair (R91). -/
def half (e x : Nat) : Nat := x / 2 ^ (16 * e) % 2 ^ 16

/-- An operation on both elements, with the union of the flags (R105). -/
def packed (f : Rm → List Nat → Nat × Flags) (rm : Rm) (xs : List Nat) : Nat × Flags :=
  let r0 := f rm (xs.map (half 0))
  let r1 := f rm (xs.map (half 1))
  (r0.1 + 2 ^ 16 * r1.1, r0.2 ||| r1.2)

/-- d + a.0 · b.0 + a.1 · b.1 rounded once (R111), with operands d, a, b. -/
def dotF (f : Fmt) (rm : Rm) (xs : List Nat) : Nat × Flags :=
  let e (k n : Nat) := f.decode (half k (xs.getD n 0))
  sumRound f32 rm [f32.decode (xs.getD 0 0), (e 0 1).mul (e 0 2), (e 1 1).mul (e 1 2)]

/-- Two f32 values rounded into one register (R112). -/
def packF (f : Fmt) (rm : Rm) (xs : List Nat) : Nat × Flags :=
  let r0 := sumRound f rm [f32.decode (xs.getD 0 0)]
  let r1 := sumRound f rm [f32.decode (xs.getD 1 0)]
  (r0.1 + 2 ^ 16 * r1.1, r0.2 ||| r1.2)

/-- A float converted to a format (R107). -/
def convert (src dst : Fmt) (rm : Rm) (x : Nat) : Nat × Flags := sumRound dst rm [src.decode x]

/-- A float converted to an integer of w bits (R107). -/
def convertInt (src : Fmt) (w : Nat) (signed : Bool) (rm : Rm) (x : Nat) : Nat × Flags :=
  let lo : Int := if signed then -(2 ^ (w - 1) : Int) else 0
  let hi : Int := if signed then 2 ^ (w - 1) - 1 else 2 ^ w - 1
  let r := ftoInt rm lo hi (src.decode x)
  ((r.1 % (2 ^ w : Int)).toNat, r.2)

/-- An integer of w bits converted to a float (R107). -/
def convertFrom (w : Nat) (signed : Bool) (dst : Fmt) (rm : Rm) (x : Nat) : Nat × Flags :=
  let v : Int := if signed && decide (2 ^ (w - 1) ≤ x) then (x : Int) - 2 ^ w else x
  sumRound dst rm [FVal.ofInt v]

/-- The conversion of a code (R106) on source bits. -/
def conversion (code : Nat) (rm : Rm) (x : Nat) : Nat × Flags :=
  match code with
  | 0 => convertInt f32 32 true rm x
  | 1 => convertInt f32 32 false rm x
  | 2 => convertFrom 32 true f32 rm x
  | 3 => convertFrom 32 false f32 rm x
  | 4 => convertInt f64 32 true rm x
  | 5 => convertInt f64 32 false rm x
  | 6 => convertFrom 32 true f64 rm x
  | 7 => convertFrom 32 false f64 rm x
  | 8 => convert f32 f64 rm x
  | 9 => convert f64 f32 rm x
  | 10 => convert f32 f16 rm x
  | 11 => convert f16 f32 rm (x % 2 ^ 16)
  | 12 => convert f32 bf16 rm x
  | 13 => convert bf16 f32 rm (x % 2 ^ 16)
  | 14 => convertInt f64 64 true rm x
  | 15 => convertInt f64 64 false rm x
  | 16 => convertFrom 64 true f64 rm x
  | _ => convertFrom 64 false f64 rm x

/-- `cvt` and `cvtz` (R107): z rounds toward zero. -/
def cvtOp (d a c : Reg) (z : Bool) : Body := fun w rid ch =>
  ch.lanesDo w rid fun wp run _ t =>
    let src := if Field.cvtPairA c then wp.readPair run t a
      else ((wp.read run t a).v.setWidth 64, (wp.read run t a).p)
    let r := conversion c.toNat (if z then .rtz else Rm.of t.frm) src.1.toNat
    let t := t.raiseFlags r.2
    if Field.cvtPairD c then wp.writePair run t d (BitVec.ofNat 64 r.1) src.2
    else wp.write run t d ⟨word r.1, src.2⟩

/-- The rounding of a mode of `frnd` (R110), and whether it raises NX. -/
def integralF (f : Fmt) (mode : Nat) (rm : Rm) (xs : List Nat) : Nat × Flags :=
  let m := match mode with
    | 0 => Rm.rne
    | 1 => Rm.rtz
    | 2 => Rm.rdn
    | 3 => Rm.rup
    | _ => rm
  fintegral f m (mode == 4) (opAt (vals f xs) 0)

/-- a · 2^b with operands a, b (R109). -/
def scaleF (rm : Rm) (xs : List Nat) : Nat × Flags :=
  fscale f32 rm (BitVec.ofNat 32 (xs.getD 1 0)).toInt (f32.decode (xs.getD 0 0))

/-! ## Meanings -/

/-- `fadd` (R100). -/
def execFadd (d : Reg) (a : Reg) (b : Reg) (s : Stall) (σ : State) : Host.Outcome State Fault Refusal :=
  issue (.fadd d a b s) (fop d [a, b] (addF f32)) σ

/-- `fsub` (R100). -/
def execFsub (d : Reg) (a : Reg) (b : Reg) (s : Stall) (σ : State) : Host.Outcome State Fault Refusal :=
  issue (.fsub d a b s) (fop d [a, b] (subF f32)) σ

/-- `fmul` (R100). -/
def execFmul (d : Reg) (a : Reg) (b : Reg) (s : Stall) (σ : State) : Host.Outcome State Fault Refusal :=
  issue (.fmul d a b s) (fop d [a, b] (mulF f32)) σ

/-- `ffma` (R100). -/
def execFfma (d : Reg) (a : Reg) (b : Reg) (s : Stall) (σ : State) : Host.Outcome State Fault Refusal :=
  issue (.ffma d a b s) (fop d [d, a, b] (fmaF f32)) σ

/-- `ffms` (R100). -/
def execFfms (d : Reg) (a : Reg) (b : Reg) (s : Stall) (σ : State) : Host.Outcome State Fault Refusal :=
  issue (.ffms d a b s) (fop d [d, a, b] (fmsF f32)) σ

/-- `fmin` (R101). -/
def execFmin (d : Reg) (a : Reg) (b : Reg) (s : Stall) (σ : State) : Host.Outcome State Fault Refusal :=
  issue (.fmin d a b s) (fop d [a, b] (minF f32)) σ

/-- `fmax` (R101). -/
def execFmax (d : Reg) (a : Reg) (b : Reg) (s : Stall) (σ : State) : Host.Outcome State Fault Refusal :=
  issue (.fmax d a b s) (fop d [a, b] (maxF f32)) σ

/-- `fcps` (R101). -/
def execFcps (d : Reg) (a : Reg) (b : Reg) (s : Stall) (σ : State) : Host.Outcome State Fault Refusal :=
  issue (.fcps d a b s) (binOp d a b copySign) σ

/-- `feq` (R102). -/
def execFeq (d : Reg) (a : Reg) (b : Reg) (s : Stall) (σ : State) : Host.Outcome State Fault Refusal :=
  issue (.feq d a b s) (fop d [a, b] (cmpF f32 .eq)) σ

/-- `flt` (R102). -/
def execFlt (d : Reg) (a : Reg) (b : Reg) (s : Stall) (σ : State) : Host.Outcome State Fault Refusal :=
  issue (.flt d a b s) (fop d [a, b] (cmpF f32 .lt)) σ

/-- `fle` (R102). -/
def execFle (d : Reg) (a : Reg) (b : Reg) (s : Stall) (σ : State) : Host.Outcome State Fault Refusal :=
  issue (.fle d a b s) (fop d [a, b] (cmpF f32 .le)) σ

/-- `funo` (R102). -/
def execFuno (d : Reg) (a : Reg) (b : Reg) (s : Stall) (σ : State) : Host.Outcome State Fault Refusal :=
  issue (.funo d a b s) (fop d [a, b] (cmpF f32 .uno)) σ

/-- `frcp` (R103). -/
def execFrcp (d : Reg) (a : Reg) (s : Stall) (σ : State) : Host.Outcome State Fault Refusal :=
  issue (.frcp d a s) (fop d [a] (rcpF f32 0x5C)) σ

/-- `frsq` (R103). -/
def execFrsq (d : Reg) (a : Reg) (s : Stall) (σ : State) : Host.Outcome State Fault Refusal :=
  issue (.frsq d a s) (fop d [a] (rsqF)) σ

/-- `fsqrt` (R103). -/
def execFsqrt (d : Reg) (a : Reg) (s : Stall) (σ : State) : Host.Outcome State Fault Refusal :=
  issue (.fsqrt d a s) (flater d [a] (sqrtF f32)) σ

/-- `fdiv` (R100). -/
def execFdiv (d : Reg) (a : Reg) (b : Reg) (s : Stall) (σ : State) : Host.Outcome State Fault Refusal :=
  issue (.fdiv d a b s) (flater d [a, b] (divF f32)) σ

/-- `fexp2` (R103). -/
def execFexp2 (d : Reg) (a : Reg) (s : Stall) (σ : State) : Host.Outcome State Fault Refusal :=
  issue (.fexp2 d a s) (fop d [a] (exp2F)) σ

/-- `flog2` (R103). -/
def execFlog2 (d : Reg) (a : Reg) (s : Stall) (σ : State) : Host.Outcome State Fault Refusal :=
  issue (.flog2 d a s) (fop d [a] (log2F)) σ

/-- `fsin` (R103). -/
def execFsin (d : Reg) (a : Reg) (s : Stall) (σ : State) : Host.Outcome State Fault Refusal :=
  issue (.fsin d a s) (fop d [a] (sinF)) σ

/-- `fcos` (R103). -/
def execFcos (d : Reg) (a : Reg) (s : Stall) (σ : State) : Host.Outcome State Fault Refusal :=
  issue (.fcos d a s) (fop d [a] (cosF)) σ

/-- `dadd` (R104). -/
def execDadd (d : Reg) (a : Reg) (b : Reg) (s : Stall) (σ : State) : Host.Outcome State Fault Refusal :=
  issue (.dadd d a b s) (dop d [a, b] (addF f64)) σ

/-- `dsub` (R104). -/
def execDsub (d : Reg) (a : Reg) (b : Reg) (s : Stall) (σ : State) : Host.Outcome State Fault Refusal :=
  issue (.dsub d a b s) (dop d [a, b] (subF f64)) σ

/-- `dmul` (R104). -/
def execDmul (d : Reg) (a : Reg) (b : Reg) (s : Stall) (σ : State) : Host.Outcome State Fault Refusal :=
  issue (.dmul d a b s) (dop d [a, b] (mulF f64)) σ

/-- `dfma` (R104). -/
def execDfma (d : Reg) (a : Reg) (b : Reg) (s : Stall) (σ : State) : Host.Outcome State Fault Refusal :=
  issue (.dfma d a b s) (dop d [d, a, b] (fmaF f64)) σ

/-- `dmin` (R104). -/
def execDmin (d : Reg) (a : Reg) (b : Reg) (s : Stall) (σ : State) : Host.Outcome State Fault Refusal :=
  issue (.dmin d a b s) (dop d [a, b] (minF f64)) σ

/-- `dmax` (R104). -/
def execDmax (d : Reg) (a : Reg) (b : Reg) (s : Stall) (σ : State) : Host.Outcome State Fault Refusal :=
  issue (.dmax d a b s) (dop d [a, b] (maxF f64)) σ

/-- `deq` (R102). -/
def execDeq (d : Reg) (a : Reg) (b : Reg) (s : Stall) (σ : State) : Host.Outcome State Fault Refusal :=
  issue (.deq d a b s) (dcmp d [a, b] (cmpF f64 .eq)) σ

/-- `dlt` (R102). -/
def execDlt (d : Reg) (a : Reg) (b : Reg) (s : Stall) (σ : State) : Host.Outcome State Fault Refusal :=
  issue (.dlt d a b s) (dcmp d [a, b] (cmpF f64 .lt)) σ

/-- `dle` (R102). -/
def execDle (d : Reg) (a : Reg) (b : Reg) (s : Stall) (σ : State) : Host.Outcome State Fault Refusal :=
  issue (.dle d a b s) (dcmp d [a, b] (cmpF f64 .le)) σ

/-- `ddiv` (R104). -/
def execDdiv (d : Reg) (a : Reg) (b : Reg) (s : Stall) (σ : State) : Host.Outcome State Fault Refusal :=
  issue (.ddiv d a b s) (dlater d [a, b] (divF f64)) σ

/-- `dsqrt` (R103). -/
def execDsqrt (d : Reg) (a : Reg) (s : Stall) (σ : State) : Host.Outcome State Fault Refusal :=
  issue (.dsqrt d a s) (dlater d [a] (sqrtF f64)) σ

/-- `drcp` (R103). -/
def execDrcp (d : Reg) (a : Reg) (s : Stall) (σ : State) : Host.Outcome State Fault Refusal :=
  issue (.drcp d a s) (dlater d [a] (rcpF f64 0x6F)) σ

/-- `hadd2` (R105). -/
def execHadd2 (d : Reg) (a : Reg) (b : Reg) (s : Stall) (σ : State) : Host.Outcome State Fault Refusal :=
  issue (.hadd2 d a b s) (fop d [a, b] (packed (addF f16))) σ

/-- `hmul2` (R105). -/
def execHmul2 (d : Reg) (a : Reg) (b : Reg) (s : Stall) (σ : State) : Host.Outcome State Fault Refusal :=
  issue (.hmul2 d a b s) (fop d [a, b] (packed (mulF f16))) σ

/-- `hfma2` (R105). -/
def execHfma2 (d : Reg) (a : Reg) (b : Reg) (s : Stall) (σ : State) : Host.Outcome State Fault Refusal :=
  issue (.hfma2 d a b s) (fop d [d, a, b] (packed (fmaF f16))) σ

/-- `badd2` (R105). -/
def execBadd2 (d : Reg) (a : Reg) (b : Reg) (s : Stall) (σ : State) : Host.Outcome State Fault Refusal :=
  issue (.badd2 d a b s) (fop d [a, b] (packed (addF bf16))) σ

/-- `bmul2` (R105). -/
def execBmul2 (d : Reg) (a : Reg) (b : Reg) (s : Stall) (σ : State) : Host.Outcome State Fault Refusal :=
  issue (.bmul2 d a b s) (fop d [a, b] (packed (mulF bf16))) σ

/-- `bfma2` (R105). -/
def execBfma2 (d : Reg) (a : Reg) (b : Reg) (s : Stall) (σ : State) : Host.Outcome State Fault Refusal :=
  issue (.bfma2 d a b s) (fop d [d, a, b] (packed (fmaF bf16))) σ

/-- `cvt` (R107). -/
def execCvt (d : Reg) (a : Reg) (c : Reg) (s : Stall) (σ : State) : Host.Outcome State Fault Refusal :=
  issue (.cvt d a c s) (cvtOp d a c false) σ

/-- `cvtz` (R107). -/
def execCvtz (d : Reg) (a : Reg) (c : Reg) (s : Stall) (σ : State) : Host.Outcome State Fault Refusal :=
  issue (.cvtz d a c s) (cvtOp d a c true) σ

/-- `fclass` (R108). -/
def execFclass (d : Reg) (a : Reg) (s : Stall) (σ : State) : Host.Outcome State Fault Refusal :=
  issue (.fclass d a s) (fop d [a] (fun _ xs => (fclassOf f32 (xs.getD 0 0), noFlags))) σ

/-- `fldx` (R109). -/
def execFldx (d : Reg) (a : Reg) (b : Reg) (s : Stall) (σ : State) : Host.Outcome State Fault Refusal :=
  issue (.fldx d a b s) (fop d [a, b] (scaleF)) σ

/-- `frnd` (R110). -/
def execFrnd (d : Reg) (a : Reg) (m : Reg) (s : Stall) (σ : State) : Host.Outcome State Fault Refusal :=
  issue (.frnd d a m s) (fop d [a] (integralF f32 m.toNat)) σ

/-- `drnd` (R110). -/
def execDrnd (d : Reg) (a : Reg) (m : Reg) (s : Stall) (σ : State) : Host.Outcome State Fault Refusal :=
  issue (.drnd d a m s) (dop d [a] (integralF f64 m.toNat)) σ

/-- `fdot2` (R111). -/
def execFdot2 (d : Reg) (a : Reg) (b : Reg) (s : Stall) (σ : State) : Host.Outcome State Fault Refusal :=
  issue (.fdot2 d a b s) (fop d [d, a, b] (dotF bf16)) σ

/-- `hdot2` (R111). -/
def execHdot2 (d : Reg) (a : Reg) (b : Reg) (s : Stall) (σ : State) : Host.Outcome State Fault Refusal :=
  issue (.hdot2 d a b s) (fop d [d, a, b] (dotF f16)) σ

/-- `packb` (R112). -/
def execPackb (d : Reg) (a : Reg) (b : Reg) (s : Stall) (σ : State) : Host.Outcome State Fault Refusal :=
  issue (.packb d a b s) (fop d [a, b] (packF bf16)) σ

/-- `packh` (R112). -/
def execPackh (d : Reg) (a : Reg) (b : Reg) (s : Stall) (σ : State) : Host.Outcome State Fault Refusal :=
  issue (.packh d a b s) (fop d [a, b] (packF f16)) σ

end Sys2Proof.Machine
end

