-- ==== Sys2Proof/Machine/Regroup.lean ====
section
/-!
DEFINITION. Join keys (R113), when a lane's next run is eligible (R150), the anchors of quads (R146), and threads that
move between lane slots: regrouping (R132, R133) and merging (R156, R157).
-/

namespace Sys2Proof.Machine

/-! ## Keys and eligibility -/

/-- The join key (R113). -/
def Thread.key (t : Thread) : Word × Option Word := (t.pc, if t.gmode = 1 then some t.guestAddr else none)

/-- A wait that parks its lane: its gang goes on without it (R53, R145). -/
def Wait.parks : Wait → Bool
  | .cells _ | .dispatch _ _ => false
  | _ => true

/-- Waits that are over are dropped; a lane with none left is eligible from now on as far as they go (R151). -/
def Chip.dropWaits (c : Chip) (w : Nat) : Chip :=
  c.modWarp w fun wp => { wp with
    threads := wp.threads.map fun e =>
      let left := e.2.waits.filter fun x => !c.waitOver wp x
      (e.1, { e.2 with waits := left, since := if left.isEmpty && !e.2.waits.isEmpty then c.cycle else e.2.since }) }

/-- A lane's next run is eligible as far as the lane goes (R150). -/
def Warp.laneReady (wp : Warp) (now l : Nat) : Bool :=
  let t := wp.thread l
  t.live && t.waits.isEmpty && decide (t.nextAt ≤ now) && !wp.inRun.getLsbD l

/-- A service request of a warp is still to be written: one of its calling lanes lives (R67, R351). -/
def Chip.unposted (c : Chip) (w : Nat) (x : Service) : Bool :=
  x.warp == w && x.seq.isNone && ((c.warp w).liveMask &&& x.lanes) != 0

/-- A group of the warp has called a service, and the warp has not yet left its core for it or come back (R351, R352). -/
def Chip.calling (c : Chip) (w : Nat) : Bool := c.services.any fun x => c.unposted w x || (x.warp == w && x.unbound)

/-- The warp may issue at all (R150, R351): on its core, not halted, no service called, its block running, its core not
fenced. -/
def Chip.warpRuns (c : Chip) (w : Nat) : Bool :=
  let wp := c.warp w
  !wp.offCore && !wp.stopAll && !c.calling w && (c.block wp.block).status == .running && !(c.core wp.core).fenced

/-! ## Anchors -/

/-- The key held by the most of some lanes, given in ascending order; a tie goes to that of the lowest lane (R146). -/
def Warp.majority (wp : Warp) (ls : List Nat) : Option (Word × Option Word) :=
  let ks := ls.map fun l => (wp.thread l).key
  ks.foldl (fun best k =>
    match best with
    | none => some k
    | some b => if ks.count b < ks.count k then some k else some b) none

/-- Some lanes of a quad become its gang lanes, those that hold their majority key; the others become strays. -/
def Warp.anchorOn (wp : Warp) (ls : List Nat) : Warp :=
  match wp.majority ls with
  | none => wp
  | some k => wp.mapLanes ls fun _ t => { t with stray := t.key != k }

/-- A quad's anchor at a run entry (R146): a marked quad over all its live lanes; a quad without gang lanes on the strays
that enter, here those of a list; any other over its gang lanes, unless one of them is in a run. -/
def Warp.anchorQuad (wp : Warp) (enter : List Nat) (q : Nat) : Warp :=
  let ls := wp.liveLanes.filter fun l => l / 4 == q
  let gang := ls.filter fun l => !(wp.thread l).stray
  if wp.reanchor.contains q then { wp.anchorOn ls with reanchor := wp.reanchor.filter (· != q) }
  else if gang.isEmpty then
    let xs := enter.filter fun l => l / 4 == q
    match wp.majority xs with
    | none => wp
    | some k => wp.mapLanes (xs.filter fun l => (wp.thread l).key == k) fun _ t => { t with stray := false }
  else if gang.any wp.inRun.getLsbD then wp
  else wp.anchorOn gang

/-- The lane's group is promoted as the kind of group it is (R149, R151). -/
def Thread.promotedNow (t : Thread) : Bool := t.promoted == some t.stray

/-- The quads of lanes that enter a run are anchored (R146). A lane's promotion ends where its kind of group changes. -/
def Warp.enterQuads (wp : Warp) (ls : List Nat) : Warp :=
  ((ls.map (· / 4)).eraseDups).foldl (fun wp q =>
    (wp.anchorQuad ls q).mapLanes (wp.liveLanes.filter fun l => l / 4 == q) fun _ t =>
      { t with promoted := if t.promotedNow then t.promoted else none }) wp

/-- A warp as a run entry of its ready lanes would find it: every quad anchored. A choice is made on it, and only the quads
of the lanes that then enter keep their new anchors. -/
def Warp.anchored (wp : Warp) (now : Nat) : Warp :=
  let ready := wp.liveLanes.filter (wp.laneReady now)
  (List.range 16).foldl (fun wp q => wp.anchorQuad ready q) wp

/-- The waits that are over are dropped in the warps of a port. -/
def Chip.settlePort (c : Chip) (core port : Nat) : Chip := (c.portWarps core port).foldl (fun c e => c.dropWaits e.1) c

/-- The chip that a port's choice in some cycle looks at: the port's warps with every quad anchored. -/
def Chip.viewPort (c : Chip) (core port now : Nat) : Chip :=
  (c.portWarps core port).foldl (fun c e => c.modWarp e.1 fun wp => wp.anchored now) c

/-! ## Moving threads -/

/-- What a thread carries to another slot (R133): the first n registers of its allotment, whose base and floor are 0. It
issues again when the move is complete. It has no place in the new warp's streams and queues: when a queue there that still
holds entries is bound again, it begins with the first of them (log entry 97). -/
def Thread.migrate (t : Thread) (n now : Nat) : Thread :=
  { t with
    regs := t.regs.filter fun e => decide (e.1 < n), fix := t.fix.filter fun f => decide (f.cell < n)
    spos := [], selem := [], qptr := [], loopBuf := [], stray := false, promoted := none, since := now
    waits := [.move] }

/-- A wait that keeps a thread where it is: every one that parks it (R132, R166), but not the hold of a candidate. -/
def Wait.stays : Wait → Bool
  | .hold _ => false
  | x => x.parks

/-- A matrix word of a lane is queued or at work, or a requantising job of it is in flight: what becomes of them names the
thread (R207, R222). -/
def Chip.matrixOwes (c : Chip) (w l : Nat) : Bool :=
  let x := c.crucible (c.warp w).core
  ((x.saved ++ x.queue ++ (x.cur.map (·.entry)).toList).any fun e => e.warp == w && e.lanes.getLsbD l) ||
    c.jobs.any fun e => e.2.warp == w && e.2.lanes.getLsbD l && match e.2.kind with | .rqt _ _ _ _ => true | _ => false

/-- A thread may move (R132, R62): base and floor 0, in no rejoin mask, not parked or halted, no result pending. A thread of
a warp with a bound stream or queue stays (R181), and so does one of a warp with stores queued, or with a matrix word queued
or a requantising job in flight (which threads move is not architected). -/
def Chip.movable (c : Chip) (w l : Nat) : Bool :=
  let wp := c.warp w
  let t := wp.thread l
  t.live && t.base == 0 && t.floor == 0 && t.pend.isEmpty && !wp.inRun.getLsbD l && !t.tolune &&
    !(t.waits.any Wait.stays) && !wp.stopAll &&
    !(wp.joins.any fun e => e.mask.getLsbD l) && wp.boundSlots.isEmpty && wp.storeQ.isEmpty && !c.matrixOwes w l

/-- A slot whose thread has exited and whose `fmask` bit is clear (R132, R156), once the thread's stores are performed and its
matrix words and requantising jobs are done (R4). -/
def Chip.slotFree (c : Chip) (w l : Nat) : Bool :=
  let wp := c.warp w
  decide (l < wp.lanes) && (wp.thread l).status == .exited && !wp.fmask.getLsbD l && !(wp.storeQ.any fun s => s.lane == l) &&
    !c.matrixOwes w l

/-- The role uses the Crucible (R186). -/
def Warp.usesCrucible (wp : Warp) : Bool := decide (32 ≤ wp.draw)

/-- The warps a thread of a warp may move to, itself among them (R132, R156, R181). -/
def Chip.partners (c : Chip) (w : Nat) : List Nat :=
  let wp := c.warp w
  (c.block wp.block).warps.filter fun v =>
    let u := c.warp v
    u.role == wp.role && c.warpRuns v && u.boundSlots.isEmpty && (!wp.usesCrucible || u.core == wp.core)

/-- A bit of a mask set to a value. -/
def setBit (m : Mask) (l : Nat) (b : Bool) : Mask := if b then m ||| bit l else m &&& ~~~(bit l)

/-- The occupants of two slots change places with their `memb` bits; both quads lose their anchors (R133, R146). -/
def Chip.exchange (c : Chip) (w l w2 l2 : Nat) (f g : Thread → Thread) : Chip :=
  let t := (c.warp w).thread l
  let u := (c.warp w2).thread l2
  let b := (c.warp w).memb.getLsbD l
  let b2 := (c.warp w2).memb.getLsbD l2
  let put (c : Chip) (w l : Nat) (t : Thread) (b : Bool) : Chip := c.modWarp w fun wp =>
    { wp.modThread l fun _ => t with memb := setBit wp.memb l b, reanchor := insertNum (l / 4) wp.reanchor }
  put (put c w l (g u) b2) w2 l2 (f t) b

/-! ## Regrouping -/

/-- The carry count of a held candidate. -/
def Thread.held (t : Thread) : Option Nat := t.waits.findSome? fun x => match x with | .hold n => some n | _ => none

/-- The slots a candidate may take: free ones, and those of other held candidates with their carry count (R132). -/
def Chip.targets (c : Chip) (w l : Nat) : List (Nat × Nat × Option Nat) :=
  (c.partners w).flatMap fun v =>
    let u := c.warp v
    (List.range u.lanes).filterMap fun k =>
      if v == w && k == l then none
      else if c.slotFree v k then some (v, k, none)
      else if (u.thread k).held.isSome && c.movable v k then some (v, k, (u.thread k).held)
      else none

/-- A candidate with carry count n stays or takes a slot, as the machine chooses (R132; log entry 14). -/
def Chip.regroup (c : Chip) (w l n : Nat) : Chip :=
  let c := c.modWarp w fun wp => wp.modThread l fun t => { t with waits := t.waits.filter fun x => x != .hold n }
  if !c.movable w l then c
  else
    let ts := c.targets w l
    let (k, c) := c.choose (ts.length + 1)
    match (if k = 0 then none else ts[k - 1]?) with
    | none => c
    | some (v, m, other) =>
      c.exchange w l v m (fun t => t.migrate n c.cycle) fun u =>
        match other with
        | some n2 => u.migrate n2 c.cycle
        | none => u

/-! ## Merging -/

/-- The warps that can take every live thread of a sparse warp (R156). -/
def Chip.mergeTargets (c : Chip) (w : Nat) : List Nat :=
  let wp := c.warp w
  let live := wp.liveLanes
  if wp.mthr = 0 || decide (wp.mthr ≤ live.length) || live.isEmpty || !wp.joins.isEmpty ||
      !(live.all fun l => c.movable w l && !((wp.thread l).waits.any Wait.parks)) then []
  else (c.partners w).filter fun v =>
    let u := c.warp v
    v != w && u.mthr != 0 && decide (live.length ≤ ((List.range u.lanes).filter (c.slotFree v)).length)

/-- The target with the most live threads, the lower warp slot on a tie (R156). Of equal slots on two cores the lower core is
the model's choice (log entry 115). -/
def Chip.mergeTarget (c : Chip) (w : Nat) : Option Nat :=
  (c.mergeTargets w).foldl (fun best v =>
    match best with
    | none => some v
    | some b =>
      let n (k : Nat) := (c.warp k).liveLanes.length
      let slot (k : Nat) := (c.warp k).slot * 192 + (c.warp k).core
      if n b < n v || (n b == n v && decide (slot v < slot b)) then some v else some b) none

/-- A merge, if the machine chooses one: every live thread moves to a free slot, the whole allotment with it (R157; log
entry 14). -/
def Chip.merge (c : Chip) (w : Nat) : Chip :=
  let c := c.modWarp w fun wp => { wp with mergeDue := false }
  match c.mergeTarget w with
  | none => c
  | some v =>
    let (k, c) := c.choose 2
    if k = 0 then c
    else
      let wp := c.warp w
      let free := (List.range (c.warp v).lanes).filter (c.slotFree v)
      (wp.liveLanes.zip free).foldl
        (fun c x => c.exchange w x.1 v x.2 (fun t => t.migrate wp.alloc c.cycle) fun u => u) c

/-- Where a `rejoin` has completed, a merge may follow (R156). -/
def Chip.mergeWhereDue (c : Chip) : Chip := (c.warps.filter fun e => e.2.mergeDue).foldl (fun c e => c.merge e.1) c

end Sys2Proof.Machine
end

