-- ==== Sys2Proof/Machine/Control.lean ====
section
/-!
DEFINITION. Control flow, calls, reconvergence and the guest level: 0x00 to 0x16 and 0xB0 to 0xB9 (R113 to R140), with
the window slide (R60, R61) and the trailer (R41).
-/

namespace Sys2Proof.Machine

/-! ## The window -/

/-- The spill-window address of unit u of a column (R61). -/
def Warp.spillAddr (wp : Warp) (u column : Nat) : Nat := wp.spillBase + 2048 * u + 32 * column

/-- The cells of the eight logical registers of a unit (R61). -/
def Warp.unitCells (wp : Warp) (u : Nat) : List Nat := (List.range 8).map fun i => allotCell wp.alloc (8 * u) i

/-- Spills the unit at the floor; beyond 32 units the thread is killed (R61). A mark of the spill store stands for one
register (log entry 8). -/
def Chip.spillUnit (c : Chip) (w l : Nat) (npc word : Word) : Chip :=
  let wp := c.warp w
  let t := wp.thread l
  let u := t.floor / 8
  if !t.live then c
  else if 32 < u + 1 then c.stopThread w l npc word (Stop.of 9)
  else
    let a := wp.spillAddr u l
    let vs := (wp.unitCells u).map t.cellVal
    let marks := ((List.range 8).filter fun i => (vs.getD i ⟨0, false⟩).p).map fun i => a / 4 + i
    let clean := c.spill.marks.filter fun k => !(a / 4 ≤ k && k < a / 4 + 8)
    let c := { c with spill :=
      { bytes := c.spill.bytes.writeBytes a (vs.flatMap fun (v : Val) => bytesOfNum 4 v.v.toNat)
        marks := marks.foldl (fun m k => insertNum k m) clean } }
    c.modWarp w fun wp => wp.modThread l fun t => { t with floor := t.floor + 8 }

/-- Fills the unit below the floor, poison included (R60, R61). -/
def Chip.fillUnit (c : Chip) (w l : Nat) : Chip :=
  let wp := c.warp w
  let t := wp.thread l
  let u := t.floor / 8 - 1
  let a := wp.spillAddr u l
  let vs : Sparse Val := (List.range 8).map fun i =>
    (allotCell wp.alloc (8 * u) i,
      ⟨BitVec.ofNat 32 (c.spill.bytes.num (a + 4 * i) 4), c.spill.marks.contains (a / 4 + i)⟩)
  c.modWarp w fun wp => wp.modThread l fun t => { (t.setCells vs).unfix (vs.map (·.1)) with floor := t.floor - 8 }

/-- Repeats a change. -/
def repeatTimes {α : Type} : Nat → (α → α) → α → α
  | 0, _, x => x
  | n + 1, f, x => repeatTimes n f (f x)

/-- Moves a lane's logical base, with the spills or fills it needs; newly named registers read 0 (R60). -/
def Chip.slide (c : Chip) (w l n : Nat) (npc word : Word) : Chip :=
  let wp := c.warp w
  let t := wp.thread l
  let width := window wp.alloc
  if t.base < n then
    let c := repeatTimes (unitsSpilled wp t n) (fun c => c.spillUnit w l npc word) c
    let first := max (t.base + width) n
    let fresh : Sparse Val := (List.range (n + width - first)).map fun i => (allotCell wp.alloc first i, ⟨0, false⟩)
    c.modWarp w fun wp => wp.modThread l fun t =>
      if t.live then { (t.setCells fresh).unfix (fresh.map (·.1)) with base := n } else t
  else
    let c := repeatTimes (unitsFilled t n) (fun c => c.fillUnit w l) c
    c.modWarp w fun wp => wp.modThread l fun t => { t with base := n }

/-! ## Faults by cause -/

/-- Each cause's lanes meet its fate (R66): the kills, then the faults the Mould may claim. -/
def Chip.applyFaults (c : Chip) (w rid : Nat) (fs : LaneStops) : Chip :=
  [5, 6, 7, 8, 9, 4, 2, 3].foldl (fun c k => c.faultLanes w rid (fs.filter fun f => f.2.cause == k)) c

/-- A per-lane check before a word's effect: the lanes it stops, and the chip with them stopped. -/
def Chip.lanesFault (c : Chip) (w rid : Nat) (f : Warp → Run → Nat → Thread → Option Stop) : Chip :=
  let wp := c.warp w
  let run := wp.run rid
  c.applyFaults w rid ((wp.active run).filterMap fun l => (f wp run l (wp.thread l)).map fun x => (l, x))

/-- A poisoned register stops the lane with a cause (R65). -/
def poisonStop (wp : Warp) (run : Run) (t : Thread) (r : Reg) (cause : Nat) : Option Stop :=
  if (wp.read run t r).p then some (Stop.of cause) else none

/-! ## Transfers -/

/-- The target of a PC-relative RW transfer (R29, R33); in Tolune bytes from the next instruction (R50). -/
def branchTarget (run : Run) (i : Imm14) : Word :=
  if run.tolune then run.pc + 4 + i.signExtend 32 else run.pc + 4 * wideOperand run i

/-- The target of a J21 transfer. -/
def jumpTarget (run : Run) (i : Imm21) : Word :=
  if run.tolune then run.pc + 4 + i.signExtend 32 else run.pc + 4 * i.signExtend 32

/-- A branch on register d (R120). -/
def branchOp (d : Reg) (i : Imm14) (taken : Word → Bool) : Body := fun w rid c =>
  let c := c.lanesFault w rid fun wp run _ t => poisonStop wp run t d 6
  c.lanesDo w rid fun wp run _ t =>
    { t with pc := if taken (wp.read run t d).v then branchTarget run i else run.after }

/-- The link and the new window of a call (R122); Tolune moves no window and counts its depth (R51, R369). -/
def Chip.enterCall (c : Chip) (w rid : Nat) (k : Nat) (target : Warp → Run → Thread → Word) : Chip :=
  let wp := c.warp w
  let run := wp.run rid
  let ls := wp.active run
  let ts := ls.map fun l => (l, target wp run (wp.thread l))
  let c := ls.foldl (fun c l => if run.tolune then c else c.slide w l ((wp.thread l).base + 8 * k) run.npc run.raw) c
  let c := c.modWarp w fun wp => wp.mapLanes ls fun l t =>
    if t.live then
      let t := wp.write run (wp.write run t 0 ⟨run.after, false⟩) 1 ⟨BitVec.ofNat 32 k, false⟩
      { t.unfix [wp.cellIn run t 0, wp.cellIn run t 1] with pc := Sparse.get 0 ts l, depth := if run.tolune then t.depth + 1 else t.depth }
    else t
  ls.foldl (fun c l => if ((c.warp w).thread l).live then c.putImplied w rid l (regs 0 2) else c) c

/-- `call` (R122). -/
def callOp (k : Reg) (i : Imm14) : Body := fun w rid c => c.enterCall w rid k.toNat fun _ run _ => branchTarget run i

/-- An indirect target that is poisoned or is not `land` stops the lane (R121, R122). -/
def targetStop (c : Chip) (w : Nat) (wp : Warp) (run : Run) (t : Thread) (a : Reg) : Option Stop :=
  let x := wp.read run t a
  if x.p then some (Stop.of 6) else if c.landAt w t.tolune x.v then none else some ⟨4, 0, x.v, false⟩

/-- `callr` (R122). -/
def callrOp (k a : Reg) : Body := fun w rid c =>
  let c := c.lanesFault w rid fun wp run _ t => targetStop c w wp run t a
  c.enterCall w rid k.toNat fun wp run t => (wp.read run t a).v

/-- `jmpr` (R121). -/
def jmprOp (a : Reg) : Body := fun w rid c =>
  let c := c.lanesFault w rid fun wp run _ t => targetStop c w wp run t a
  c.lanesDo w rid fun wp run _ t => { t with pc := (wp.read run t a).v }

/-- The link of `ret` is no slide the window can go back (R123). In Tolune, where no window moves, `ret` reads g1 too: it
must be the 0 that a Tolune call writes there, and poison in it stops the lane (R51; log entry 9). -/
def badLink : UseCheck := fun w rid c =>
  let wp := c.warp w
  let run := wp.run rid
  (wp.active run).any fun l =>
    let t := wp.thread l
    let k := wp.read run t 1
    !(wp.read run t 0).p && !k.p &&
      (if run.tolune then k.v != 0 else decide (k.v.toNat < 1 ∨ 15 < k.v.toNat ∨ t.base < 8 * k.v.toNat))

/-- `ret` (R123). -/
def retOp : Body := fun w rid c =>
  let c := c.lanesFault w rid fun wp run _ t =>
    let x := wp.read run t 0
    if x.p || (wp.read run t 1).p then some (Stop.of 6)
    else if x.v.extractLsb' 0 2 != 0 then some ⟨4, 0, x.v, false⟩ else none
  let wp := c.warp w
  let run := wp.run rid
  let ls := wp.active run
  let links := ls.map fun l => (l, (wp.read run (wp.thread l) 0).v, (wp.read run (wp.thread l) 1).v.toNat)
  let c := links.foldl (fun c (x : Nat × Word × Nat) =>
    if run.tolune then c else c.slide w x.1 ((wp.thread x.1).base - 8 * x.2.2) run.npc run.raw) c
  c.modWarp w fun wp => links.foldl (fun wp (x : Nat × Word × Nat) => wp.modThread x.1 fun t =>
    { t with pc := x.2.1, depth := if run.tolune then t.depth - 1 else t.depth }) wp

/-- `wbase` would make the base negative (R125). -/
def badBase (d k : Reg) : UseCheck := fun w rid c =>
  let wp := c.warp w
  d == 1 && (wp.active (wp.run rid)).any fun l => decide ((wp.thread l).base < 8 * k.toNat)

/-- `wbase` (R125). -/
def wbaseOp (d k : Reg) : Body := fun w rid c =>
  let wp := c.warp w
  let run := wp.run rid
  (wp.active run).foldl (fun c l =>
    let b := (wp.thread l).base
    c.slide w l (if d = 1 then b - 8 * k.toNat else b + 8 * k.toNat) run.npc run.raw) c

/-- The index of `rget` or `rput` names no register (R126). -/
def badIndex (a : Reg) : UseCheck := fun w rid c =>
  let wp := c.warp w
  let run := wp.run rid
  let lim := if run.tolune then wp.alloc else window wp.alloc
  (wp.active run).any fun l =>
    let x := wp.read run (wp.thread l) a
    !x.p && decide (lim ≤ x.v.toNat)

/-- `rget` (R126). -/
def rgetOp (d a : Reg) : Body := fun w rid c =>
  let c := c.lanesFault w rid fun wp run _ t => poisonStop wp run t a 5
  c.lanesDo w rid fun wp run _ t =>
    wp.write run t d (wp.read run t ((wp.read run t a).v.setWidth 8))

/-- `rput` (R126): the register written is tracked by the scoreboard. -/
def rputOp (d a : Reg) : Body := fun w rid c =>
  let c := c.lanesFault w rid fun wp run _ t => poisonStop wp run t a 5
  c.lanesDo w rid fun wp run _ t =>
    t.await .rput [(wp.cellIn run t ((wp.read run t a).v.setWidth 8), wp.read run t d)] 0

/-! ## Joins -/

/-- The join stack is full (R116). -/
def deepJoin : UseCheck := fun w _ c => decide (256 ≤ (c.warp w).joins.length)

/-- `jpt` (R115). -/
def jptOp (i : Imm21) : Body := fun w rid c =>
  let (n, c) := c.fresh
  c.modWarp w fun wp =>
    let run := wp.run rid
    { wp with joins := ⟨n, jumpTarget run i, maskOf (wp.active run), 0⟩ :: wp.joins }

/-- The innermost entry whose mask holds a lane and whose target is an address (R117); the head is the innermost. -/
def innermost (js : List Join) (l : Nat) (x : Word) : Option Join := js.find? fun e => e.mask.getLsbD l && e.target == x

/-- A lane arrives at an entry and leaves the mask of every entry above it (R117). -/
def arrive (n l : Nat) : List Join → List Join
  | [] => []
  | e :: r =>
    if e.num = n then { e with arrived := e.arrived ||| bit l } :: r
    else { e with mask := e.mask &&& ~~~(bit l), arrived := e.arrived &&& ~~~(bit l) } :: arrive n l r

/-- `rejoin` (R117). -/
def rejoinOp : Body := fun w rid c =>
  c.modWarp w fun wp =>
    let run := wp.run rid
    let ls := wp.active run
    let wp := ls.foldl (fun wp l =>
      match innermost wp.joins l run.pc with
      | none => wp.modThread l fun t => { t with pc := run.after }
      | some e =>
        let wp := { wp with joins := arrive e.num l wp.joins }
        wp.modThread l fun t => { t with pc := run.after, waits := t.waits ++ [.rejoin e.num] }) wp
    wp

/-! ## Services, traps, waiting -/

/-- `exit` (R127). -/
def exitOp : Body := fun w rid c =>
  let wp := c.warp w
  let run := wp.run rid
  c.stopLanes w (wp.active run) run.npc run.raw (Stop.of 0)

/-- The lanes of a group whose g0 to g7 hold poison (R351 step 1). -/
def poisonedArgs (wp : Warp) (run : Run) (t : Thread) : Bool := (regs 0 8).any fun r => (wp.read run t r).p

/-- `svc` (R128, R351): the group asks for a service; the warp parks off-core once its groups stand at run
boundaries. -/
def svcOp (i : Imm14) : Body := fun w rid c =>
  let c := c.lanesFault w rid fun wp run _ t => if poisonedArgs wp run t then some (Stop.of 7) else none
  let wp := c.warp w
  let run := wp.run rid
  let ls := wp.active run
  if ls.isEmpty then c
  else
    let (n, c) := c.fresh
    let r : Service :=
      { num := n, context := wp.context, launch := wp.launch, warp := w, core := wp.core, wslot := wp.slot, code := i.toNat, npc := run.npc, lanes := maskOf ls, seq := none, unbound := false, replied := false
        writes := [], at' := c.ns }
    let c := { c with services := c.services ++ [r] }
    c.modWarp w fun wp => wp.mapLanes ls fun _ t => { t with pc := run.after, waits := [.service n] }

/-- `trap` and `brk` (R128, R295): the group parks on a record and resumes after its trailer. -/
def trapOp (event : Nat) (i : Imm14) : Body := fun w rid c =>
  let wp := c.warp w
  let run := wp.run rid
  let ls := wp.active run
  let c := c.modWarp w fun wp => wp.mapLanes ls fun _ t => { t with pc := run.after }
  c.park w ls run.npc run.raw event 0 (i.setWidth 64) 0 0 (fun _ => []) fun _ => run.after

/-- `spinw` (R129): each lane reads once; a lane whose word still equals b parks. -/
def spinwOp (d a b : Reg) : Body := fun w rid c =>
  let c := c.lanesFault w rid fun wp run _ t =>
    let x := wp.read run t a
    if x.p then some (Stop.of 5)
    else
      match c.check w .load true (x.v.toNat % 4 == 0) x.v 4 with
      | some f => some (violation f)
      | none => if (c.loadBytes w x.v 4).2 then some (Stop.of 6) else none
  c.lanesDo w rid fun wp run _ t =>
    let x := (wp.read run t a).v
    let y := (wp.read run t b).v
    let v : Word := BitVec.ofNat 32 (numOfBytes (c.loadBytes w x 4).1)
    let t := { t with pc := run.after }
    if v = y then { t with waits := t.waits ++ [.spin x y (wp.cellIn run t d) run.npc run.raw] }
    else wp.write run t d ⟨v, false⟩

/-! ## The guest level -/

/-- g3 of a guest trap's record (R137). -/
def guestInfo (op : BitVec 8) (kind : Nat) (code : Word) : Word :=
  (code &&& 0x3FFF) <<< 16 ||| BitVec.ofNat 32 (kind % 16 * 256) ||| op.setWidth 32

/-- The guest trap entry of a warp's launch is given and is no `land` (R137). -/
def Chip.badTrapEntry (c : Chip) (w : Nat) (tolune : Bool) : Option Stop :=
  let entry := (c.launch (c.warp w).launch).header.gtrap
  if entry != 0 && !c.landAt w tolune entry then some ⟨4, 0, entry, false⟩ else none

/-- A guest trap of a lane (R137): it enters the guest trap entry, a `land`, with the record in g0 to g3, or parks on a record
of event 2. -/
def Chip.guestTrap (c : Chip) (w rid l kind : Nat) (code : Word) : Chip :=
  let wp := c.warp w
  let run := wp.run rid
  let t := wp.thread l
  let entry := (c.launch wp.launch).header.gtrap
  let info := guestInfo t.gop kind code
  if entry != 0 then
    let c := c.modWarp w fun wp => wp.modThread l fun t =>
      let t := wp.write run t 0 ⟨run.npc, false⟩
      let t := wp.write run t 1 ⟨t.gcb, false⟩
      let t := wp.write run t 2 ⟨t.gpc, false⟩
      let t := wp.write run t 3 ⟨info, false⟩
      { t.unfix ((regs 0 4).map (wp.cellIn run t)) with pc := entry }
    c.putImplied w rid l (regs 0 4)
  else
    let c := c.modWarp w fun wp => wp.modThread l fun t => { t with pc := run.after }
    c.park w [l] run.npc run.raw 2 0 (t.gcb ++ t.gpc) (info.setWidth 64) 0 (fun _ => []) fun _ => run.after

/-- `gtrap` (R136). -/
def gtrapOp (i : Imm14) : Body := fun w rid c =>
  let c := c.lanesFault w rid fun _ run _ _ => c.badTrapEntry w run.tolune
  let wp := c.warp w
  (wp.active (wp.run rid)).foldl (fun c l => c.guestTrap w rid l 4 (i.setWidth 32)) c

/-- `dsp` (R131): reads, then the handler of kind 0 or a guest trap. The next run waits for the reads. -/
def dspOp (n : Reg) : Body := fun w rid c =>
  let c := c.lanesFault w rid fun _ _ _ t =>
    match c.dispatchRead w t with
    | .error x => some x
    | .ok _ => none
  let wp := c.warp w
  let run := wp.run rid
  let reads := (wp.active run).filterMap fun l =>
    match c.dispatchRead w (wp.thread l) with
    | .ok (op, e) => some (l, op, e)
    | .error _ => none
  let c := c.modWarp w fun wp => reads.foldl (fun wp (x : Nat × BitVec 8 × Dword) => wp.modThread x.1 fun t =>
    { t with gop := x.2.1, glen := x.2.2.extractLsb' 36 4 }) wp
  let c := c.lanesFault w rid fun _ run l _ =>
    match reads.find? (fun x => x.1 == l) with
    | some (_, _, e) =>
      let target := loHalf e
      if entryKind e != 0 then c.badTrapEntry w run.tolune
      else if c.landAt w run.tolune target then none else some ⟨4, 0, target, false⟩
    | none => none
  reads.foldl (fun c (x : Nat × BitVec 8 × Dword) =>
    if !((c.warp w).thread x.1).live || ((c.warp w).run rid).lanes.getLsbD x.1 == false then c
    else if entryKind x.2.2 = 0 then
      c.modWarp w fun wp => wp.modThread x.1 fun t =>
        { t with pc := loHalf x.2.2, waits := t.waits ++ [.dispatch n.toNat (t.gmode != 0)] }
    else c.guestTrap w rid x.1 (entryKind x.2.2) 0) c

/-- A guest load of n bytes (R134), extended by f. -/
def guestLoad (d : Reg) (i : Imm) (n : Nat) (f : Nat → Word) : Body := fun w rid c =>
  let addr (run : Run) (t : Thread) : Word := t.guestAddr + immOperand run i
  let c := c.lanesFault w rid fun _ run _ t => (c.check w .guest true true (addr run t) n).map violation
  c.lanesDo w rid fun wp run _ t =>
    let x := c.loadBytes w (addr run t) n
    t.await .guest [(wp.cellIn run t d, ⟨f (numOfBytes x.1), x.2⟩)] 0

/-- A number of n bytes sign-extended. -/
def sextBytes (n v : Nat) : Word :=
  BitVec.ofInt 32 (if 2 ^ (8 * n - 1) ≤ v then (v : Int) - 2 ^ (8 * n) else v)

/-- `gadv` (R135). -/
def gadvOp (i : Imm) : Body := fun w rid c =>
  c.lanesDo w rid fun _ run _ t =>
    let v : Word := match run.ext with
      | none => i.setWidth 32
      | some p => (p ++ i.setWidth 7).setWidth 32
    { t with gpc := t.gpc + (if v = 0 then t.glen.setWidth 32 else v) }

/-- `gjmp` and `gjrel` (R135). -/
def gjmpOp (a : Reg) (relative : Bool) : Body := fun w rid c =>
  let c := c.lanesFault w rid fun wp run _ t => poisonStop wp run t a 6
  c.lanesDo w rid fun wp run _ t =>
    let x := (wp.read run t a).v
    { t with gpc := if relative then t.gpc + x else x }

/-! ## The trailer -/

/-- A run just issued goes into the loop buffer of a lane, in place of the run used less recently (R148). -/
def Thread.bufferRun (t : Thread) (entry : Word) (ws : List Word) : Thread :=
  { t with loopBuf := ((entry, ws) :: t.loopBuf.filter fun e => e.1 != entry).take 2 }

/-- The end of a run (R41): the group's lanes wait for what the trailer and the run's words name, their temporaries are
dead, and their next run may carry the entry flag. The end of a routine gives the claimed run back its place (R324). -/
def trailerGo (d a b : Reg) (f : BitVec 3) : Body := fun w rid c =>
  let wp := c.warp w
  let run := wp.run rid
  match (if run.ended then none else run.emul.bind fun e => if e.redirect then none else some e) with
  | some e =>
    c.modWarp w fun wp =>
      let wp := wp.mapLanes (wp.active run) fun _ t => restoreTemps t
      let wp := wp.mapLanes (wp.active run) fun _ t => t.passHalt e.npc
      (wp.redirectColls rid tempBack).modRun rid fun r => { r with
        emul := none, pc := e.next, body := e.body + 1, tw := e.tw, ended := false
        nextAt := r.nextAt + e.stall.toNat, words := e.word :: r.words.drop 1 }
  | none =>
    let slots := [d, a, b].filter (· != 127)
    let cells := (wp.active run).flatMap fun l =>
      let t := wp.thread l
      ((slots.map (wp.cellIn run t)).filter fun k => t.pendingOn [k]).map (collKey l)
    c.modWarp w fun wp =>
      let wp := wp.mapLanes (wp.active run) fun _ t =>
        let t := if run.stray || run.emul.isSome then t else t.bufferRun run.entry run.words.reverse
        let t := match run.emul with
          | some e => t.passHalt e.npc
          | none => t
        { clearTemps t with
          pc := if run.ended then t.pc else run.pc + 4
          waits := t.waits ++ run.waits ++ (if cells.isEmpty then [] else [.cells cells])
          entryNext := f.getLsbD 0, yielded := f.getLsbD 1, nextAt := run.nextAt, since := run.nextAt
          promoted := none, safe := t.tolune }
      wp.dropRun rid

/-! ## Meanings -/

/-- `nop` (R119). -/
def execNop (s : Stall) (σ : State) : Host.Outcome State Fault Refusal :=
  issue (.nop s) (fun _ _ c => c) σ

/-- `runt`, the trailer (R41). -/
def execRunt (d : Reg) (a : Reg) (b : Reg) (f : BitVec 3) (σ : State) : Host.Outcome State Fault Refusal :=
  issueWith (.runt d a b f) anyUse (trailerGo d a b f) σ

/-- `ext` (R33). -/
def execExt (p : BitVec 21) (σ : State) : Host.Outcome State Fault Refusal :=
  issue (.ext p) (fun _ _ c => c) σ

/-- `bra` (R120). -/
def execBra (i : Imm21) (s : Stall) (σ : State) : Host.Outcome State Fault Refusal :=
  issue (.bra i s) (fun w rid c => c.lanesDo w rid fun _ run _ t => { t with pc := jumpTarget run i }) σ

/-- `bnz` (R120). -/
def execBnz (d : Reg) (i : Imm14) (s : Stall) (σ : State) : Host.Outcome State Fault Refusal :=
  issue (.bnz d i s) (branchOp d i fun x => x != 0) σ

/-- `bz` (R120). -/
def execBz (d : Reg) (i : Imm14) (s : Stall) (σ : State) : Host.Outcome State Fault Refusal :=
  issue (.bz d i s) (branchOp d i fun x => x == 0) σ

/-- `bltz` (R120). -/
def execBltz (d : Reg) (i : Imm14) (s : Stall) (σ : State) : Host.Outcome State Fault Refusal :=
  issue (.bltz d i s) (branchOp d i fun x => x.slt 0) σ

/-- `bgez` (R120). -/
def execBgez (d : Reg) (i : Imm14) (s : Stall) (σ : State) : Host.Outcome State Fault Refusal :=
  issue (.bgez d i s) (branchOp d i fun x => !x.slt 0) σ

/-- `jpt` (R115). -/
def execJpt (i : Imm21) (s : Stall) (σ : State) : Host.Outcome State Fault Refusal :=
  issueIf (.jpt i s) (deepJoin) (jptOp i) σ

/-- `rejoin` (R117). -/
def execRejoin (s : Stall) (σ : State) : Host.Outcome State Fault Refusal :=
  issue (.rejoin s) (rejoinOp) σ

/-- `call` (R122). -/
def execCall (k : Reg) (i : Imm14) (s : Stall) (σ : State) : Host.Outcome State Fault Refusal :=
  issue (.call k i s) (callOp k i) σ

/-- `callr` (R122). -/
def execCallr (k : Reg) (a : Reg) (s : Stall) (σ : State) : Host.Outcome State Fault Refusal :=
  issue (.callr k a s) (callrOp k a) σ

/-- `ret` (R123). -/
def execRet (s : Stall) (σ : State) : Host.Outcome State Fault Refusal :=
  issueIf (.ret s) (badLink) (retOp) σ

/-- `jmpr` (R121). -/
def execJmpr (a : Reg) (s : Stall) (σ : State) : Host.Outcome State Fault Refusal :=
  issue (.jmpr a s) (jmprOp a) σ

/-- `land` (R119). -/
def execLand (s : Stall) (σ : State) : Host.Outcome State Fault Refusal :=
  issue (.land s) (fun _ _ c => c) σ

/-- `exit` (R127). -/
def execExit (s : Stall) (σ : State) : Host.Outcome State Fault Refusal :=
  issue (.exit s) (exitOp) σ

/-- `svc` (R128). -/
def execSvc (i : Imm14) (s : Stall) (σ : State) : Host.Outcome State Fault Refusal :=
  issue (.svc i s) (svcOp i) σ

/-- `trap` (R128). -/
def execTrap (i : Imm14) (s : Stall) (σ : State) : Host.Outcome State Fault Refusal :=
  issue (.trap i s) (trapOp 0 i) σ

/-- `brk` (R128). -/
def execBrk (i : Imm14) (s : Stall) (σ : State) : Host.Outcome State Fault Refusal :=
  issue (.brk i s) (trapOp 1 i) σ

/-- `spinw` (R129). -/
def execSpinw (d : Reg) (a : Reg) (b : Reg) (s : Stall) (σ : State) : Host.Outcome State Fault Refusal :=
  issue (.spinw d a b s) (spinwOp d a b) σ

/-- `wbase` (R125). -/
def execWbase (d : Reg) (k : Reg) (s : Stall) (σ : State) : Host.Outcome State Fault Refusal :=
  issueIf (.wbase d k s) (badBase d k) (wbaseOp d k) σ

/-- `rget` (R126). -/
def execRget (d : Reg) (a : Reg) (s : Stall) (σ : State) : Host.Outcome State Fault Refusal :=
  issueIf (.rget d a s) (badIndex a) (rgetOp d a) σ

/-- `rput` (R126). -/
def execRput (d : Reg) (a : Reg) (s : Stall) (σ : State) : Host.Outcome State Fault Refusal :=
  issueIf (.rput d a s) (badIndex a) (rputOp d a) σ

/-- `dsp` (R131). -/
def execDsp (c : Reg) (s : Stall) (σ : State) : Host.Outcome State Fault Refusal :=
  issue (.dsp c s) (dspOp c) σ

/-- `gldb` (R134). -/
def execGldb (d : Reg) (i : Imm) (s : Stall) (σ : State) : Host.Outcome State Fault Refusal :=
  issue (.gldb d i s) (guestLoad d i 1 (BitVec.ofNat 32)) σ

/-- `gldbs` (R134). -/
def execGldbs (d : Reg) (i : Imm) (s : Stall) (σ : State) : Host.Outcome State Fault Refusal :=
  issue (.gldbs d i s) (guestLoad d i 1 (sextBytes 1)) σ

/-- `gldh` (R134). -/
def execGldh (d : Reg) (i : Imm) (s : Stall) (σ : State) : Host.Outcome State Fault Refusal :=
  issue (.gldh d i s) (guestLoad d i 2 (BitVec.ofNat 32)) σ

/-- `gldhs` (R134). -/
def execGldhs (d : Reg) (i : Imm) (s : Stall) (σ : State) : Host.Outcome State Fault Refusal :=
  issue (.gldhs d i s) (guestLoad d i 2 (sextBytes 2)) σ

/-- `gldw` (R134). -/
def execGldw (d : Reg) (i : Imm) (s : Stall) (σ : State) : Host.Outcome State Fault Refusal :=
  issue (.gldw d i s) (guestLoad d i 4 (BitVec.ofNat 32)) σ

/-- `gadv` (R135). -/
def execGadv (i : Imm) (s : Stall) (σ : State) : Host.Outcome State Fault Refusal :=
  issue (.gadv i s) (gadvOp i) σ

/-- `gjmp` (R135). -/
def execGjmp (a : Reg) (s : Stall) (σ : State) : Host.Outcome State Fault Refusal :=
  issue (.gjmp a s) (gjmpOp a false) σ

/-- `gjrel` (R135). -/
def execGjrel (a : Reg) (s : Stall) (σ : State) : Host.Outcome State Fault Refusal :=
  issue (.gjrel a s) (gjmpOp a true) σ

/-- `gtrap` (R136). -/
def execGtrap (i : Imm14) (s : Stall) (σ : State) : Host.Outcome State Fault Refusal :=
  issue (.gtrap i s) (gtrapOp i) σ

end Sys2Proof.Machine
end

