-- ==== Sys2Proof/Machine/Jobs.lean ====
section
/-!
DEFINITION. Job cards (R239 to R241), the submission of a job at GO (R238, R242, R243), done counters and ring slots
(R234 to R236), and the stores of a warp's queue being performed (R285).
-/

namespace Sys2Proof.Machine

/-! ## Card checks -/

/-- A descriptor's own fields break R240, for a source or a destination. A peer link must be bound for the context
(R386). -/
def badSide (c : Chip) (ctx : Nat) (v : Dword) (dst : Bool) : Bool :=
  match sideSpace v with
  | 0 => v.extractLsb' 32 28 != 0
  | 1 | 2 => v.extractLsb' 57 3 != 0
  | 3 => (Sparse.find (Sparse.get Towline.untrained c.towlines (sideLink v)).bound ctx).isNone
  | 4 => !dst || v.extractLsb' 4 56 != 0
  | 5 => v.extractLsb' 3 57 != 0 || (if dst then decide (4 ≤ sideQueue v) else decide (sideQueue v < 4))
  | 6 => dst || v.extractLsb' 32 28 != 0
  | _ => false

/-- An addressed side whose row starts are not multiples of 4. The address is asked whatever the number of rows (log entry
119). -/
def oddRows (v : Dword) (stride : Int) (rows : Nat) : Bool :=
  decide (sideSpace v ≤ 3) && (sideAddr v % 4 != 0 || (decide (1 < rows) && stride % 4 != 0))

/-- Op and sides disagree (R241). -/
def Job.badOp (j : Job) : Bool :=
  ((sideSpace j.jc0 == 6) != (j.op == 1)) ||
    (j.op == 2 && (!([0, 1, 3].contains (sideSpace j.jc1)) || j.rowb % 4 != 0 || oddRows j.jc0 j.sstr j.rows ||
      oddRows j.jc1 j.dstr j.rows))

/-- A queue side whose bytes are no whole entries, or a ring side longer than its slot (R240). -/
def badShape (b : Block) (j : Job) (v : Dword) : Bool :=
  (sideSpace v == 5 && j.size % 256 != 0) ||
    (sideSpace v == 4 && match Sparse.find b.rings (sideRing v) with
      | some r => decide (r.size < j.size)
      | none => false)

/-- Reserved values (a space of 7 to 15 and op 3), scopes, counters, rings and channels, which R241 names as field 4. -/
def badControl (x : Context) (b : Block) (j : Job) : Bool :=
  decide (7 ≤ sideSpace j.jc0) || decide (7 ≤ sideSpace j.jc1) || decide (10 < j.cscope) || decide (10 < j.ascope) || j.op == 3 ||
    decide (b.ndc ≤ j.dc) || (decide (14 ≤ j.chan) && !x.system) ||
    (sideSpace j.jc1 == 4 && (Sparse.find b.rings (sideRing j.jc1)).isNone)

/-- The card field that breaks a rule of R239 or R240, if any (R241; log entry 10). -/
def cardFault (c : Chip) (j : Job) : Option Nat :=
  let b := c.block j.block
  if badSide c j.context j.jc0 false then some 0
  else if badSide c j.context j.jc1 true then some 1
  else if badControl (c.context j.context) b j then some 4
  else if j.jc3.extractLsb' 20 12 != 0 || j.badOp then some 3
  else if badShape b j j.jc0 then some 0
  else if badShape b j j.jc1 then some 1
  else none

/-- The first violation of a job's local rows (R241). -/
def rowsFault (c : Chip) (j : Job) (need : Need) (rows : List (Nat × Nat)) : Option (Nat × Word) :=
  rows.findSome? fun r => c.fault j.context j.launch j.block need need.reads true (BitVec.ofNat 32 r.1) r.2

/-- The first violation of a job's local footprint, the source side first. -/
def footprintFault (c : Chip) (j : Job) : Option (Nat × Word) :=
  (if sideSpace j.jc0 = 0 then rowsFault c j .jobRead j.srcRows else none).or
    (if sideSpace j.jc1 = 0 then rowsFault c j (if j.op = 2 then .jobBoth else .jobWrite) j.dstRows else none)

/-! ## Counters and rings -/

/-- A done counter rises by 1 (R242). -/
def Chip.raiseCounter (c : Chip) (b dc : Nat) : Chip :=
  (c.modBlock b fun k => { k with counters := Sparse.put k.counters dc (Sparse.get 0 k.counters dc + 1) }).ageWaiters b
    fun x => match x with | .counter _ d _ => d == dc | _ => false

/-- The local address of a ring's slot (R235). -/
def Ring.slotAddr (r : Ring) (n : Nat) : Word := BitVec.ofNat 32 (sharedStart + r.off + n * r.size)

/-- The slots claimed and not yet counted as filled, oldest first. -/
def Ring.open' (r : Ring) : List Nat :=
  (List.range (r.count - r.free - r.filled)).map fun i => (r.tail + r.count - (r.count - r.free - r.filled) + i) % r.count

/-- Claims the tail slot (R236). -/
def Ring.claim (r : Ring) : Ring := { r with free := r.free - 1, tail := (r.tail + 1) % r.count }

/-- Counts every leading committed slot as filled. -/
def Ring.fill : Nat → Ring → Ring
  | 0, r => r
  | n + 1, r =>
    match r.open' with
    | s :: _ => if r.committed.contains s then
        Ring.fill n { r with filled := r.filled + 1, committed := r.committed.erase s } else r
    | [] => r

/-- The slot is claimed and not committed. -/
def Ring.isOpen (r : Ring) (s : Nat) : Bool := r.open'.contains s && !r.committed.contains s

/-- Commits a claimed slot (R236). -/
def Ring.commit (r : Ring) (s : Nat) : Ring :=
  if r.isOpen s then Ring.fill r.count { r with committed := s :: r.committed } else r

/-- Releases the head slot; an empty ring is left as it is (R236). -/
def Ring.release (r : Ring) : Ring :=
  if r.filled = 0 then r
  else { r with head := (r.head + 1) % r.count, filled := r.filled - 1, free := r.free + 1 }

/-- The place of a claimant: the cycle it began to wait, jobs before groups, a job's number or a group's slot (R235). -/
def Claimant.place : Claimant → Nat × Nat × Nat
  | .job j t => (t, 0, j)
  | .group _ _ t order => (t, 1, order)

/-- A claimant takes its place among those waiting (R235), behind one of the same place (log entry 106). -/
def insertClaimant (x : Claimant) : List Claimant → List Claimant
  | [] => [x]
  | y :: r =>
    let a := x.place
    let b := y.place
    if decide (a.1 < b.1) || (a.1 == b.1 && (decide (a.2.1 < b.2.1) || (a.2.1 == b.2.1 && decide (a.2.2 < b.2.2)))) then
      x :: y :: r
    else y :: insertClaimant x r
def Ring.await (r : Ring) (x : Claimant) : Ring := { r with waiters := insertClaimant x r.waiters }

/-- Changes a ring of a block. -/
def Chip.modRing (c : Chip) (b n : Nat) (f : Ring → Ring) : Chip :=
  c.modBlock b fun k => { k with rings := Sparse.modify k.rings n f }

/-- Ring results of a block become known: those that `f` picks take the slot's address (R236). -/
def Chip.ringKnown (c : Chip) (b : Nat) (f : PendKind → Bool) (a : Word) : Chip :=
  let g (p : Pend) : Pend :=
    match p.kind with
    | .ring claim false n token =>
      if f p.kind then { p with kind := .ring claim true n token, cells := p.cells.map fun e => (e.1, ⟨a, false⟩) } else p
    | _ => p
  (c.block b).warps.foldl (fun c w => c.modWarp w fun wp =>
    { wp with threads := wp.threads.map fun e => (e.1, { e.2 with pend := e.2.pend.map g }) }) c

/-- A group still waits for a claim. -/
def Warp.claimWaits (wp : Warp) (n token : Nat) : Bool :=
  wp.threads.any fun e => e.2.pend.any fun p => p.kind == .ring true false n token

/-- Gives free slots to the waiting groups in order; a job at the front takes its slot by its own event (R235). -/
def Chip.grantClaims : Nat → Nat → Nat → Chip → Chip
  | 0, _, _, c => c
  | k + 1, b, n, c =>
    let r := Sparse.get Ring.blank (c.block b).rings n
    match r.waiters with
    | .group w token _ _ :: rest =>
      if !(c.warp w).claimWaits n token then
        Chip.grantClaims k b n (c.modRing b n fun r => { r with waiters := rest })
      else if r.free = 0 then c
      else
        let a := r.slotAddr r.tail
        let c := c.modRing b n fun r => { r.claim with waiters := rest }
        Chip.grantClaims k b n (c.ringKnown b (fun x => x == .ring true false n token) a)
    | _ => c

/-- After a change of a ring: readers take a filled head, claimants a free slot (R236). -/
def Chip.settleRing (c : Chip) (b n : Nat) : Chip :=
  let r := Sparse.get Ring.blank (c.block b).rings n
  let c :=
    if r.filled = 0 then c
    else c.ringKnown b (fun x => match x with | .ring false false m _ => m == n | _ => false) (r.slotAddr r.head)
  Chip.grantClaims (r.waiters.length + 1) b n c

/-! ## Submission -/

/-- The job a lane's staging registers describe, for a GO at a native and a guest PC. -/
def Chip.cardOf (c : Chip) (w l : Nat) (npc gpc rentry : Word) : Job :=
  let wp := c.warp w
  let t := wp.thread l
  { kind := .ladle, status := .waiting, context := wp.context, block := wp.block, warp := w, lane := l, lanes := bit l
    wid := t.wid, launch := wp.launch, npc := npc, word := 0, gpc := gpc, rentry := rentry, die := dieOf wp.core, cluster := clusterOf wp.core
    jc0 := t.jc0, jc1 := t.jc1, jc2 := t.jc2, jc3 := t.jc3, cursor := 0, claim := none, chunk := []
    fault := none, traced := false }

/-- A copy record of a job on channel 14 or 15: 3 issue, 4 first byte, 5 last byte (R380, R382). -/
def Chip.jobTrace (c : Chip) (j : Job) (type : Nat) : Chip :=
  match j.kind with
  | .rqt _ _ _ _ => c
  | .ladle =>
    if decide (14 ≤ j.chan) && (c.context j.context).trace.getLsbD 2 then
      { c with traceOut := c.traceOut ++ [(j.context, c.traceRecord j.context j.chan type (c.launch j.launch).ident.toNat
          j.wid j.npc j.gpc j.jc0 j.jc1 (BitVec.ofNat 64 (j.size % 2 ^ 32 + j.dc * 2 ^ 32)))] }
    else c

/-- What stops a lane at GO: an unwritten register or a card that breaks a rule, cause 3, or a local footprint that
violates a window, cause 2 (R238, R241). -/
def Chip.goStop (c : Chip) (w l : Nat) (npc gpc rentry : Word) : Option Stop :=
  let j := c.cardOf w l npc gpc rentry
  if ((c.warp w).thread l).jcw != 15 then some ⟨3, 4, 0, false⟩
  else
    match cardFault c j with
    | some f => some ⟨3, f, 0, false⟩
    | none => (footprintFault c j).map violation

/-- A job that moves no byte: it is accepted, and at once complete (R239, R241, R382). -/
def Chip.emptyJob (c : Chip) (j : Job) : Chip :=
  (((c.jobTrace j 3).jobTrace j 4).jobTrace j 5).raiseCounter j.block j.dc

/-- GO (R238): the lane's card is checked and submitted, and its written bits are cleared. An empty job raises its counter
at once (R239), and so does one whose footprint violates a window, which moves nothing (R241). A stop of its block asks the new
job too (R309). -/
def Chip.submit (c : Chip) (w l : Nat) (npc word gpc rentry : Word) : Chip :=
  let j := c.cardOf w l npc gpc rentry
  let d := c.modWarp w fun wp => wp.modThread l fun t => { t with jcw := 0 }
  match c.goStop w l npc gpc rentry with
  | some x =>
    let d := d.stopThread w l npc word x
    if x.cause = 2 then d.emptyJob j else d
  | none =>
    if j.size = 0 then d.emptyJob j
    else
      let d := d.jobTrace j 3
      let d := d.modBlock j.block fun b => if b.status = .stopping then { b with owed := b.owed ++ [(2, d.next)] } else b
      { d with jobs := Sparse.put d.jobs d.next j, next := d.next + 1 }

/-! ## Stores being performed -/

/-- A staging register written, with its written bit (R238). -/
def Thread.writeStaging (t : Thread) (k : Nat) (v : Dword) : Thread :=
  let t := { t with jcw := t.jcw ||| (1#4 <<< k) }
  match k with
  | 0 => { t with jc0 := v }
  | 1 => { t with jc1 := v }
  | 2 => { t with jc2 := v }
  | _ => { t with jc3 := v }

/-- One store leaves the queue and is performed (R285). -/
def Chip.performStore (c : Chip) (w : Nat) (x : Store) : Chip :=
  match x.kind with
  | .plain | .element => c.performAs w x.wid x.npc x.gpc x.addr x.bytes x.poison
  | .staging => c.modWarp w fun wp => wp.modThread x.lane fun t =>
      t.writeStaging ((x.addr.toNat - stagingStart) / 8) (BitVec.ofNat 64 (numOfBytes x.bytes))
  | .go => c.submit w x.lane x.npc x.word x.gpc x.rentry

/-- The oldest store of a warp is performed, unless its value is still to come. -/
def Chip.performHead (c : Chip) (w : Nat) : Chip :=
  match (c.warp w).storeQ with
  | [] => c
  | x :: r => if x.due.isSome then c else (c.modWarp w fun wp => { wp with storeQ := r }).performStore w x

/-- Every store of a warp's queue is performed, oldest first: before an atomic, a release, a sequential load, a fence
or a barrier (R231, R281; log entry 5). -/
def Chip.drain (c : Chip) (w : Nat) : Chip := repeatTimes (c.warp w).storeQ.length (fun c => c.performHead w) c

end Sys2Proof.Machine
end

