-- ==== Sys2Proof/Machine/ClusterWords.lean ====
section
/-!
DEFINITION. The words of the cluster: loads, stores, atomics, FX cells, fences and Tundish counters, 0x80 to 0x9D, and
done counters, rings and barriers, 0xD0 to 0xD9 (R225 to R237).
-/

namespace Sys2Proof.Machine

/-! ## Accesses -/

/-- The address of a lane's access. -/
def addrOf (i : Instr) (wp : Warp) (run : Run) (t : Thread) : Word :=
  match laneAccess wp run t i with
  | some x => x.1
  | none => 0

/-- The checks of a lane's access: a poisoned base register, then the window rules (R65, R254). -/
def accessStop (c : Chip) (w : Nat) (wp : Warp) (run : Run) (t : Thread) (a : Reg) (need : Need) (reads aligned : Bool)
    (x : Word) (n : Nat) : Option Stop :=
  if (wp.read run t a).p then some (Stop.of 5) else (c.check w need reads aligned x n).map violation

/-- The registers a load of n bytes at an address fills, four bytes to a register (R226). -/
def Chip.loadWords (c : Chip) (w : Nat) (x : Word) (n : Nat) : List Val :=
  (List.range (n / 4)).map fun i =>
    let bs := c.loadBytes w (x + BitVec.ofNat 32 (4 * i)) 4
    ⟨BitVec.ofNat 32 (numOfBytes bs.1), bs.2⟩

/-- A load of 4, 8 or 16 bytes, aligned or not (R226, R227). -/
def loadWordsOp (i : Instr) (d a : Reg) (n : Nat) (ordered : Bool) : Body := fun w rid c =>
  let c := c.lanesFault w rid fun wp run _ t =>
    let x := addrOf i wp run t
    accessStop c w wp run t a .load true (!ordered || x.toNat % n == 0) x n
  c.lanesDo w rid fun wp run _ t =>
    t.await .load ((regs d (n / 4)).map (wp.cellIn run t) |>.zip (c.loadWords w (addrOf i wp run t) n)) 0

/-- A load of 1 or 2 bytes, extended by f (R226). -/
def loadSmallOp (i : Instr) (d a : Reg) (n : Nat) (f : Nat → Word) : Body := fun w rid c =>
  let c := c.lanesFault w rid fun wp run _ t => accessStop c w wp run t a .load true true (addrOf i wp run t) n
  c.lanesDo w rid fun wp run _ t =>
    let bs := c.loadBytes w (addrOf i wp run t) n
    t.await .load [(wp.cellIn run t d, ⟨f (numOfBytes bs.1), bs.2⟩)] 0

/-- A sequential load follows every earlier store of its warp (R281). -/
def drainIf (b : Bool) (body : Body) : Body := fun w rid c => body w rid (if b then c.drain w else c)

/-- The bytes of registers from d on, four to a register, with whether any is poisoned. -/
def Warp.regBytes (wp : Warp) (run : Run) (t : Thread) (d : Reg) (n : Nat) : List Byte × Bool :=
  let vs := (regs d ((n + 3) / 4)).map (wp.read run t)
  ((vs.flatMap fun (v : Val) => bytesOfNum 4 v.v.toNat).take n, vs.any (·.p))

/-- A store of this size and address writes JC0 to JC3, or is a GO (R238). -/
def stagingStore (x : Word) (n : Nat) : Bool := n == 8 && isStaging x && x.toNat % 8 == 0 && x.toNat < goAddr
def goStore (x : Word) (n : Nat) : Bool := n == 4 && x.toNat == goAddr

/-- The lanes of a GO word that stop: each lane's card is judged as the warp's earlier stores leave it (R238, R241). A job
whose footprint violates a window moves nothing and is complete at once, whatever becomes of its lane. -/
def Chip.goFaults (c : Chip) (w rid : Nat) (ls : List Nat) : Chip :=
  let run := (c.warp w).run rid
  let d := c.drain w
  let stop (l : Nat) : Option (Nat × Stop) :=
    (d.goStop w l run.npc ((d.warp w).thread l).gpc ((d.warp w).thread l).rentry).map fun x => (l, x)
  let fs := ls.filterMap stop
  if fs.isEmpty then c
  else
    let outside := fs.filter fun f => f.2.cause == 2
    let jobs := outside.map fun f => d.cardOf w f.1 run.npc ((d.warp w).thread f.1).gpc ((d.warp w).thread f.1).rentry
    let d := (d.modWarp w fun wp => wp.mapLanes (outside.map (·.1)) fun _ t => { t with jcw := 0 }).applyFaults w rid fs
    jobs.foldl Chip.emptyJob d

/-- Stores join the warp's queue in lane order (R226, R285). Poisoned data bound for JC0 to JC3 kills (R238). -/
def storeOp (i : Instr) (d a : Reg) (n : Nat) (ordered : Bool) : Body := fun w rid c =>
  let c := c.lanesFault w rid fun wp run _ t =>
    let x := addrOf i wp run t
    let aligned := if touchesStaging x n then stagingStore x n || goStore x n else !ordered || x.toNat % n == 0
    (accessStop c w wp run t a .store false aligned x n).or
      (if stagingStore x n && (wp.regBytes run t d n).2 then some (Stop.of 8) else none)
  let c := c.goFaults w rid (((c.warp w).active ((c.warp w).run rid)).filter fun l =>
    goStore (addrOf i (c.warp w) ((c.warp w).run rid) ((c.warp w).thread l)) n)
  c.modWarp w fun wp =>
    let run := wp.run rid
    let xs := (wp.active run).map fun l =>
      let t := wp.thread l
      let x := addrOf i wp run t
      let bs := wp.regBytes run t d n
      let kind : StoreKind := if stagingStore x n then .staging else if goStore x n then .go else .plain
      (⟨l, kind, x, bs.1, bs.2, run.npc, run.raw, t.wid, t.gpc, t.rentry, none⟩ : Store)
    { wp with storeQ := wp.storeQ ++ xs }

/-! ## Atomics -/

/-- The new value of an atomic, on numbers of a width in bits (R228); for `acas` none when the bits differ. -/
def atomicNew (i : Instr) (bits m v v' : Nat) : Option Nat :=
  let s (x : Nat) : Int := (BitVec.ofNat bits x).toInt
  match i with
  | .aadd _ _ _ _ _ _ => some ((m + v) % 2 ^ bits)
  | .aand _ _ _ _ _ _ => some (m &&& v)
  | .aor _ _ _ _ _ _ => some (m ||| v)
  | .axor _ _ _ _ _ _ => some (m ^^^ v)
  | .amins _ _ _ _ _ _ => some (if s m ≤ s v then m else v)
  | .aminu _ _ _ _ _ _ => some (min m v)
  | .amaxs _ _ _ _ _ _ => some (if s v ≤ s m then m else v)
  | .amaxu _ _ _ _ _ _ => some (max m v)
  | .axch _ _ _ _ _ _ => some v
  | .acas _ _ _ _ _ _ => if m = v then some v' else none
  | _ => none

/-- The atomic compares before it writes. -/
def comparing : Instr → Bool
  | .acas _ _ _ _ _ _ => true
  | _ => false

/-- A number of n bytes read as memory holds it, with its poison. -/
def Chip.memNum (c : Chip) (w : Nat) (x : Word) (n : Nat) : Nat × Bool :=
  let bs := c.loadBytes w x n
  (numOfBytes bs.1, bs.2)

/-- One lane's atomic (R228): one step on memory, and the old value pending for d. -/
def Chip.atomicLane (c : Chip) (w rid l : Nat) (i : Instr) (d : Reg) (n : Nat) : Chip :=
  let wp := c.warp w
  let run := wp.run rid
  let t := wp.thread l
  let x := addrOf i wp run t
  let m := c.memNum w x n
  let v := wp.regBytes run t d n
  let v' := wp.regBytes run t (Reg.plus d (n / 4)) n
  let dp := m.2 || (comparing i && v.2)
  let cells := (regs d (n / 4)).map (wp.cellIn run t)
  let vals := (wordsOfBytes (bytesOfNum n m.1)).map fun x => (⟨x, dp⟩ : Val)
  let c := match atomicNew i (8 * n) m.1 (numOfBytes v.1) (numOfBytes v'.1) with
    | some r => c.performWrite w l run.npc x (bytesOfNum n r) (m.2 || v.2 || (comparing i && v'.2))
    | none => c
  c.modWarp w fun wp => wp.modThread l fun t => t.await .atomic (cells.zip vals) 0

/-- An integer atomic, lane by lane (R228). Earlier stores of the warp are performed first (log entry 5). -/
def atomicOp (i : Instr) (d a : Reg) (z : BitVec 1) : Body := fun w rid c =>
  let n := if z = 0 then 4 else 8
  let c := c.drain w
  let c := c.lanesFault w rid fun wp run _ t =>
    let x := addrOf i wp run t
    accessStop c w wp run t a .atomic true (x.toNat % n == 0) x n
  let wp := c.warp w
  (wp.active (wp.run rid)).foldl (fun c l => c.atomicLane w rid l i d n) c

/-! ## FX cells -/

/-- The fields of an FX cell (R229). -/
structure FxCell where
  val : BitVec 192
  lsb : Int
  rng : Bool
  nan : Bool
  inf : Bool
  deriving DecidableEq, Repr

def FxCell.ofNum (x : Nat) : FxCell :=
  let v : BitVec 256 := BitVec.ofNat 256 x
  ⟨v.extractLsb' 0 192, (v.extractLsb' 192 16).toInt, v.getLsbD 208, v.getLsbD 209, v.getLsbD 210⟩

def FxCell.toNum (x : FxCell) : Nat :=
  let b (p : Bool) (k : Nat) : Nat := if p then 2 ^ k else 0
  x.val.toNat + (BitVec.ofInt 16 x.lsb).toNat * 2 ^ 192 + b x.rng 208 + b x.nan 209 + b x.inf 210

/-- An addend on the cell's grid (R230). -/
def FxCell.add (x : FxCell) : FVal → FxCell
  | .nan _ => { x with nan := true }
  | .inf _ => { x with inf := true }
  | .num neg m e =>
    if m = 0 then x
    else if x.lsb + 176 ≤ (Nat.log2 m : Int) + e then { x with rng := true }
    else
      let r := (roundAt .rne neg m e x.lsb).1
      { x with val := if neg then x.val - BitVec.ofNat 192 r else x.val + BitVec.ofNat 192 r }

/-- The cell's value, rounded once (R230). -/
def FxCell.read (x : FxCell) (f : Fmt) : Nat :=
  if x.rng || x.nan || x.inf then f.nan
  else
    let v := x.val.toInt
    (sumRound f .rne [.num (decide (v < 0)) v.natAbs x.lsb]).1

/-- The format of an FX word's size. -/
def fxFmt (z : BitVec 1) : Fmt := if z = 0 then f32 else f64

/-- One lane's FX word (R230). -/
def Chip.fxLane (c : Chip) (w rid l : Nat) (i : Instr) : Chip :=
  let wp := c.warp w
  let run := wp.run rid
  let t := wp.thread l
  let x := addrOf i wp run t
  let m := c.memNum w x 32
  let cell := FxCell.ofNum m.1
  match i with
  | .afxa d _ _ _ z _ =>
    let v := wp.regBytes run t d (if z = 0 then 4 else 8)
    let cell := if v.2 then cell else cell.add ((fxFmt z).decode (numOfBytes v.1))
    c.performWrite w l run.npc x (bytesOfNum 32 cell.toNum) (m.2 || v.2)
  | .afxr d _ _ _ z _ =>
    let n := if z = 0 then 4 else 8
    let cells := (regs d (n / 4)).map (wp.cellIn run t)
    let vals := (wordsOfBytes (bytesOfNum n (cell.read (fxFmt z)))).map fun x => (⟨x, m.2⟩ : Val)
    (c.watchRead w l run.npc x 32).modWarp w fun wp => wp.modThread l fun t => t.await .atomic (cells.zip vals) 0
  | .afxz d _ _ _ _ =>
    let v := wp.read run t d
    let cell : FxCell := ⟨0, (v.v.extractLsb' 0 16).toInt, false, false, false⟩
    c.performWrite w l run.npc x (bytesOfNum 32 cell.toNum) v.p
  | _ => c

/-- An FX word, lane by lane (R230). `afxz` writes without reading (log entry 11). -/
def fxOp (i : Instr) (a : Reg) (reads : Bool) : Body := fun w rid c =>
  let c := c.drain w
  let c := c.lanesFault w rid fun wp run _ t =>
    let x := addrOf i wp run t
    accessStop c w wp run t a .atomic reads (x.toNat % 32 == 0) x 32
  let wp := c.warp w
  (wp.active (wp.run rid)).foldl (fun c l => c.fxLane w rid l i) c

/-- `fence` (R231): a release or full fence performs the warp's earlier stores. -/
def fenceOp (o : BitVec 2) : Body := fun w _ c => if o = 1 then c else c.drain w

/-! ## Tundish counters -/

/-- The fields of a counter under the clamps of `tinit` (R232): parts, minimum, maximum. -/
def clampParts (n : Nat) : Nat := max n 1
def clampMax (n : Nat) : Nat := max (n % 2 ^ 16) 1
def clampMin (n m : Nat) : Nat := min (max (n % 2 ^ 16) 1) m

/-- What a grab takes, from total, next, parts, minimum and maximum (R232). -/
def grab (total next parts mn mx : Nat) : Nat :=
  let left := total - next
  let share := (left + 2 * parts - 1) / (2 * parts)
  min (min mx (max mn share)) left

/-- The check of a counter's address (R232, R254). -/
def tundishStop (reads : Bool) (a : Reg) (c : Chip) (w : Nat) (wp : Warp) (run : Run) (t : Thread) : Option Stop :=
  let x := (wp.read run t a).v
  accessStop c w wp run t a .tundish reads (x.toNat % 16 == 0) x 16

/-- `tinit` (R232). -/
def tinitOp (a b : Reg) : Body := fun w rid c =>
  let c := c.drain w
  let c := c.lanesFault w rid fun wp run _ t => tundishStop false a c w wp run t
  let wp := c.warp w
  let run := wp.run rid
  (wp.active run).foldl (fun c l =>
    let t := wp.thread l
    let x := (wp.read run t a).v
    let r (k : Nat) := wp.read run t (Reg.plus b k)
    let mx := clampMax (r 3).v.toNat
    let mn := clampMin (r 2).v.toNat mx
    let c := c.performWrite w l run.npc x (bytesOfNum 4 0 ++ bytesOfNum 4 (r 0).v.toNat) (r 0).p
    c.performWrite w l run.npc (x + 8)
      (bytesOfNum 4 (clampParts (r 1).v.toNat) ++ bytesOfNum 2 mn ++ bytesOfNum 2 mx)
      ((r 1).p || (r 2).p || (r 3).p)) c

/-- `tgrab` (R232). It touches both words of the counter and writes `next` (R381; log entry 62). -/
def tgrabOp (d a : Reg) : Body := fun w rid c =>
  let c := c.drain w
  let c := c.lanesFault w rid fun wp run _ t => tundishStop true a c w wp run t
  let wp := c.warp w
  let run := wp.run rid
  (wp.active run).foldl (fun c l =>
    let t := wp.thread l
    let x := (wp.read run t a).v
    let f (k n : Nat) := (c.memNum w (x + BitVec.ofNat 32 k) n).1
    let p := (c.memNum w x 16).2
    let mx := clampMax (f 14 2)
    let n := grab (f 4 4) (f 0 4) (clampParts (f 8 4)) (clampMin (f 12 2) mx) mx
    let cells := (regs d 2).map (wp.cellIn run t)
    let vals : List Val := [⟨BitVec.ofNat 32 (f 0 4), p⟩, ⟨BitVec.ofNat 32 n, p⟩]
    let c := (c.performWrite w l run.npc x (bytesOfNum 4 (f 0 4 + n)) p).watchRead w l run.npc (x + 8) 8
    c.modWarp w fun wp => wp.modThread l fun t => t.await .tgrab (cells.zip vals) 0) c

/-! ## Done counters -/

/-- The counter is not allotted to the block (R234). -/
def noCounter (n : Reg) : UseCheck := fun w _ c => decide ((c.block (c.warp w).block).ndc ≤ n.toNat)

/-- `dwait` (R234): the group's next run waits for every issuing lane's target. -/
def dwaitOp (d a : Reg) : Body := fun w rid c =>
  let c := c.lanesFault w rid fun wp run _ t => poisonStop wp run t a 6
  c.modWarp w fun wp =>
    let run := wp.run rid
    let ws := (wp.active run).map fun l => Wait.counter l d.toNat (wp.read run (wp.thread l) a).v
    { wp with runs := Sparse.modify wp.runs rid fun r => { r with waits := r.waits ++ ws } }

/-- `dpoll` (R234). -/
def dpollOp (d a : Reg) : Body := fun w rid c =>
  let v := Sparse.get 0 (c.block (c.warp w).block).counters a.toNat
  c.lanesDo w rid fun wp run _ t => t.await .dpoll [(wp.cellIn run t d, ⟨v, false⟩)] 0

/-- `drst` (R234). -/
def drstOp (d : Reg) : Body := fun w _ c =>
  c.modBlock (c.warp w).block fun b => { b with counters := Sparse.put b.counters d.toNat 0 }

/-! ## Rings -/

/-- The ring is not allotted to the block (R236). -/
def noRing (n : Reg) : UseCheck := fun w _ c => (Sparse.find (c.block (c.warp w).block).rings n.toNat).isNone

/-- A ring result pending in every lane of the group. -/
def Chip.awaitRing (c : Chip) (w rid : Nat) (d : Reg) (kind : PendKind) (a : Word) : Chip :=
  c.lanesDo w rid fun wp run _ t => t.await kind [(wp.cellIn run t d, ⟨a, false⟩)] 0

/-- `rwait` (R236). -/
def rwaitOp (d a : Reg) : Body := fun w rid c =>
  let r := Sparse.get Ring.blank (c.block (c.warp w).block).rings a.toNat
  let (token, c) := c.fresh
  c.awaitRing w rid d (.ring false (decide (r.filled ≠ 0)) a.toNat token) (r.slotAddr r.head)

/-- `rclm` (R235, R236): the group takes its place behind those already waiting. -/
def rclmOp (d a : Reg) : Body := fun w rid c =>
  let b := (c.warp w).block
  let (token, c) := c.fresh
  let c := c.awaitRing w rid d (.ring true false a.toNat token) 0
  let wp := c.warp w
  let order := wp.slot * 64 + (wp.active (wp.run rid)).headD 0
  let c := c.modRing b a.toNat fun r => r.await (.group w token c.cycle order)
  c.settleRing b a.toNat

/-- `rrel` (R236). -/
def rrelOp (d : Reg) : Body := fun w _ c =>
  let b := (c.warp w).block
  ((c.drain w).modRing b d.toNat Ring.release).settleRing b d.toNat

/-- The claimed, uncommitted slot at an address (R236). -/
def Ring.slotAt (r : Ring) (a : Word) : Option Nat :=
  (List.range r.count).find? fun s => r.isOpen s && r.slotAddr s == a

/-- `rcmt` (R236): the lowest issuing lane's register names the slot. -/
def rcmtOp (d a : Reg) : Body := fun w rid c =>
  let wp := c.warp w
  let run := wp.run rid
  let b := wp.block
  let x := wp.read run (wp.thread ((wp.active run).headD 0)) a
  if x.p then c.lanesFault w rid fun _ _ _ _ => some (Stop.of 5)
  else
    match (Sparse.get Ring.blank (c.block b).rings d.toNat).slotAt x.v with
    | none => c.lanesFault w rid fun _ _ _ _ => some ⟨2, 6, x.v, false⟩
    | some s => ((c.drain w).modRing b d.toNat fun r => r.commit s).settleRing b d.toNat

/-! ## Barriers -/

/-- Arrivals of threads in a barrier's open generation, which the first of them opens (R237). -/
def Barrier.arrive (x : Barrier) (kind : BarKind) (ts : List Nat) : Barrier :=
  { x with
    opener := x.opener.or (some kind)
    arrived := x.arrived ++ ts.filter fun t => !x.arrived.contains t
    participants := x.participants ++ ts.filter fun t => !x.participants.contains t }

/-- `bar`, `bara` and `barw` (R237): the lanes of the group arrive together. A waiting word holds the group's next run
until the generation it arrived in completes. -/
def barOp (id : Reg) (count : Option Reg) (waits : Bool) : Body := fun w rid c =>
  let c := match count with
    | some a => c.lanesFault w rid fun wp run _ t => poisonStop wp run t a 6
    | none => c
  let c := c.drain w
  let wp := c.warp w
  let run := wp.run rid
  let ls := wp.active run
  if ls.isEmpty then c
  else
    let h := (c.launch wp.launch).header
    let kind : BarKind := match count with
      | some a => .counted (wp.read run (wp.thread (ls.headD 0)) a).v.toNat
      | none => .all
    let k := id.toNat
    let gen := (Sparse.get Barrier.fresh (c.block wp.block).bars k).gen
    let ts := ls.map fun l => h.threadIndex (wp.thread l).wid
    let c := c.modBlock wp.block fun b =>
      { b with bars := Sparse.put b.bars k ((Sparse.get Barrier.fresh b.bars k).arrive kind ts) }
    let c := if waits then
        c.modWarp w fun wp => { wp with
          runs := Sparse.modify wp.runs rid fun r => { r with waits := r.waits ++ [.barrier k gen] } }
      else c
    c.checkBarrier wp.block k

/-! ## Meanings -/

/-- `ldb` (R226). -/
def execLdb (d : Reg) (a : Reg) (i : Imm) (s : Stall) (σ : State) : Host.Outcome State Fault Refusal :=
  issue (.ldb d a i s) (loadSmallOp (.ldb d a i s) d a 1 (BitVec.ofNat 32)) σ

/-- `ldbs` (R226). -/
def execLdbs (d : Reg) (a : Reg) (i : Imm) (s : Stall) (σ : State) : Host.Outcome State Fault Refusal :=
  issue (.ldbs d a i s) (loadSmallOp (.ldbs d a i s) d a 1 (sextBytes 1)) σ

/-- `ldh` (R226). -/
def execLdh (d : Reg) (a : Reg) (i : Imm) (s : Stall) (σ : State) : Host.Outcome State Fault Refusal :=
  issue (.ldh d a i s) (loadSmallOp (.ldh d a i s) d a 2 (BitVec.ofNat 32)) σ

/-- `ldhs` (R226). -/
def execLdhs (d : Reg) (a : Reg) (i : Imm) (s : Stall) (σ : State) : Host.Outcome State Fault Refusal :=
  issue (.ldhs d a i s) (loadSmallOp (.ldhs d a i s) d a 2 (sextBytes 2)) σ

/-- `ldw` (R226). -/
def execLdw (d : Reg) (a : Reg) (i : Imm) (s : Stall) (σ : State) : Host.Outcome State Fault Refusal :=
  issue (.ldw d a i s) (loadWordsOp (.ldw d a i s) d a 4 false) σ

/-- `ldd` (R226). -/
def execLdd (d : Reg) (a : Reg) (i : Imm) (s : Stall) (σ : State) : Host.Outcome State Fault Refusal :=
  issue (.ldd d a i s) (loadWordsOp (.ldd d a i s) d a 8 false) σ

/-- `ldq` (R226). -/
def execLdq (d : Reg) (a : Reg) (i : Imm) (s : Stall) (σ : State) : Host.Outcome State Fault Refusal :=
  issue (.ldq d a i s) (loadWordsOp (.ldq d a i s) d a 16 false) σ

/-- `stb` (R226). -/
def execStb (d : Reg) (a : Reg) (i : Imm) (s : Stall) (σ : State) : Host.Outcome State Fault Refusal :=
  issue (.stb d a i s) (storeOp (.stb d a i s) d a 1 false) σ

/-- `sth` (R226). -/
def execSth (d : Reg) (a : Reg) (i : Imm) (s : Stall) (σ : State) : Host.Outcome State Fault Refusal :=
  issue (.sth d a i s) (storeOp (.sth d a i s) d a 2 false) σ

/-- `stw` (R226). -/
def execStw (d : Reg) (a : Reg) (i : Imm) (s : Stall) (σ : State) : Host.Outcome State Fault Refusal :=
  issue (.stw d a i s) (storeOp (.stw d a i s) d a 4 false) σ

/-- `std` (R226). -/
def execStd (d : Reg) (a : Reg) (i : Imm) (s : Stall) (σ : State) : Host.Outcome State Fault Refusal :=
  issue (.std d a i s) (storeOp (.std d a i s) d a 8 false) σ

/-- `stq` (R226). -/
def execStq (d : Reg) (a : Reg) (i : Imm) (s : Stall) (σ : State) : Host.Outcome State Fault Refusal :=
  issue (.stq d a i s) (storeOp (.stq d a i s) d a 16 false) σ

/-- `ldo` (R227). -/
def execLdo (d : Reg) (a : Reg) (c : BitVec 4) (o : BitVec 2) (z : BitVec 1) (s : Stall) (σ : State) : Host.Outcome State Fault Refusal :=
  issue (.ldo d a c o z s) (drainIf (o == 3) (loadWordsOp (.ldo d a c o z s) d a (if z = 0 then 4 else 8) true)) σ

/-- `sto` (R227). -/
def execSto (d : Reg) (a : Reg) (c : BitVec 4) (o : BitVec 2) (z : BitVec 1) (s : Stall) (σ : State) : Host.Outcome State Fault Refusal :=
  issue (.sto d a c o z s) (storeOp (.sto d a c o z s) d a (if z = 0 then 4 else 8) true) σ

/-- `aadd` (R228). -/
def execAadd (d : Reg) (a : Reg) (c : BitVec 4) (o : BitVec 2) (z : BitVec 1) (s : Stall) (σ : State) : Host.Outcome State Fault Refusal :=
  issue (.aadd d a c o z s) (atomicOp (.aadd d a c o z s) d a z) σ

/-- `aand` (R228). -/
def execAand (d : Reg) (a : Reg) (c : BitVec 4) (o : BitVec 2) (z : BitVec 1) (s : Stall) (σ : State) : Host.Outcome State Fault Refusal :=
  issue (.aand d a c o z s) (atomicOp (.aand d a c o z s) d a z) σ

/-- `aor` (R228). -/
def execAor (d : Reg) (a : Reg) (c : BitVec 4) (o : BitVec 2) (z : BitVec 1) (s : Stall) (σ : State) : Host.Outcome State Fault Refusal :=
  issue (.aor d a c o z s) (atomicOp (.aor d a c o z s) d a z) σ

/-- `axor` (R228). -/
def execAxor (d : Reg) (a : Reg) (c : BitVec 4) (o : BitVec 2) (z : BitVec 1) (s : Stall) (σ : State) : Host.Outcome State Fault Refusal :=
  issue (.axor d a c o z s) (atomicOp (.axor d a c o z s) d a z) σ

/-- `amins` (R228). -/
def execAmins (d : Reg) (a : Reg) (c : BitVec 4) (o : BitVec 2) (z : BitVec 1) (s : Stall) (σ : State) : Host.Outcome State Fault Refusal :=
  issue (.amins d a c o z s) (atomicOp (.amins d a c o z s) d a z) σ

/-- `aminu` (R228). -/
def execAminu (d : Reg) (a : Reg) (c : BitVec 4) (o : BitVec 2) (z : BitVec 1) (s : Stall) (σ : State) : Host.Outcome State Fault Refusal :=
  issue (.aminu d a c o z s) (atomicOp (.aminu d a c o z s) d a z) σ

/-- `amaxs` (R228). -/
def execAmaxs (d : Reg) (a : Reg) (c : BitVec 4) (o : BitVec 2) (z : BitVec 1) (s : Stall) (σ : State) : Host.Outcome State Fault Refusal :=
  issue (.amaxs d a c o z s) (atomicOp (.amaxs d a c o z s) d a z) σ

/-- `amaxu` (R228). -/
def execAmaxu (d : Reg) (a : Reg) (c : BitVec 4) (o : BitVec 2) (z : BitVec 1) (s : Stall) (σ : State) : Host.Outcome State Fault Refusal :=
  issue (.amaxu d a c o z s) (atomicOp (.amaxu d a c o z s) d a z) σ

/-- `axch` (R228). -/
def execAxch (d : Reg) (a : Reg) (c : BitVec 4) (o : BitVec 2) (z : BitVec 1) (s : Stall) (σ : State) : Host.Outcome State Fault Refusal :=
  issue (.axch d a c o z s) (atomicOp (.axch d a c o z s) d a z) σ

/-- `acas` (R228). -/
def execAcas (d : Reg) (a : Reg) (c : BitVec 4) (o : BitVec 2) (z : BitVec 1) (s : Stall) (σ : State) : Host.Outcome State Fault Refusal :=
  issue (.acas d a c o z s) (atomicOp (.acas d a c o z s) d a z) σ

/-- `afxa` (R230). -/
def execAfxa (d : Reg) (a : Reg) (c : BitVec 4) (o : BitVec 2) (z : BitVec 1) (s : Stall) (σ : State) : Host.Outcome State Fault Refusal :=
  issue (.afxa d a c o z s) (fxOp (.afxa d a c o z s) a true) σ

/-- `afxr` (R230). -/
def execAfxr (d : Reg) (a : Reg) (c : BitVec 4) (o : BitVec 2) (z : BitVec 1) (s : Stall) (σ : State) : Host.Outcome State Fault Refusal :=
  issue (.afxr d a c o z s) (fxOp (.afxr d a c o z s) a true) σ

/-- `afxz` (R230). -/
def execAfxz (d : Reg) (a : Reg) (c : BitVec 4) (o : BitVec 2) (s : Stall) (σ : State) : Host.Outcome State Fault Refusal :=
  issue (.afxz d a c o s) (fxOp (.afxz d a c o s) a false) σ

/-- `fence` (R231). -/
def execFence (c : BitVec 4) (o : BitVec 2) (s : Stall) (σ : State) : Host.Outcome State Fault Refusal :=
  issue (.fence c o s) (fenceOp o) σ

/-- `tgrab` (R232). -/
def execTgrab (d : Reg) (a : Reg) (s : Stall) (σ : State) : Host.Outcome State Fault Refusal :=
  issue (.tgrab d a s) (tgrabOp d a) σ

/-- `tinit` (R232). -/
def execTinit (a : Reg) (b : Reg) (s : Stall) (σ : State) : Host.Outcome State Fault Refusal :=
  issue (.tinit a b s) (tinitOp a b) σ

/-- `dwait` (R234). -/
def execDwait (d : Reg) (a : Reg) (s : Stall) (σ : State) : Host.Outcome State Fault Refusal :=
  issueIf (.dwait d a s) (noCounter d) (dwaitOp d a) σ

/-- `dpoll` (R234). -/
def execDpoll (d : Reg) (a : Reg) (s : Stall) (σ : State) : Host.Outcome State Fault Refusal :=
  issueIf (.dpoll d a s) (noCounter a) (dpollOp d a) σ

/-- `drst` (R234). -/
def execDrst (d : Reg) (s : Stall) (σ : State) : Host.Outcome State Fault Refusal :=
  issueIf (.drst d s) (noCounter d) (drstOp d) σ

/-- `rwait` (R236). -/
def execRwait (d : Reg) (a : Reg) (s : Stall) (σ : State) : Host.Outcome State Fault Refusal :=
  issueIf (.rwait d a s) (noRing a) (rwaitOp d a) σ

/-- `rrel` (R236). -/
def execRrel (d : Reg) (s : Stall) (σ : State) : Host.Outcome State Fault Refusal :=
  issueIf (.rrel d s) (noRing d) (rrelOp d) σ

/-- `rclm` (R236). -/
def execRclm (d : Reg) (a : Reg) (s : Stall) (σ : State) : Host.Outcome State Fault Refusal :=
  issueIf (.rclm d a s) (noRing a) (rclmOp d a) σ

/-- `rcmt` (R236). -/
def execRcmt (d : Reg) (a : Reg) (s : Stall) (σ : State) : Host.Outcome State Fault Refusal :=
  issueIf (.rcmt d a s) (noRing d) (rcmtOp d a) σ

/-- `bar` (R237). -/
def execBar (b : Reg) (s : Stall) (σ : State) : Host.Outcome State Fault Refusal :=
  issue (.bar b s) (barOp b none true) σ

/-- `bara` (R237). -/
def execBara (a : Reg) (b : Reg) (s : Stall) (σ : State) : Host.Outcome State Fault Refusal :=
  issue (.bara a b s) (barOp b (some a) false) σ

/-- `barw` (R237). -/
def execBarw (a : Reg) (b : Reg) (s : Stall) (σ : State) : Host.Outcome State Fault Refusal :=
  issue (.barw a b s) (barOp b (some a) true) σ

end Sys2Proof.Machine
end

