-- ==== Sys2Proof/Machine/Crucible.lean ====
section
/-!
DEFINITION. The Crucible: format words and their checks (R189 to R191), tiles and tables (R193, R194, R200, R201), the
narrow and the sliced product (R195 to R198, R211 to R215), the matrix queue (R187), the matrix words 0xC0 to 0xC9 and
the events that carry them out.
-/

namespace Sys2Proof.Machine

/-! ## Format words -/

/-- Reserved bits or codes of a product's format word (R191 step 3). -/
def fmtReserved (f : Word) : Bool :=
  f.extractLsb' 18 14 != 0 || fmtAcc f == 3 || decide (5 < fmtA f) || decide (5 < fmtB f)

/-- A B format with its slice count and scale flag is one of R190. -/
def tileLegal (b s : Nat) (scl : Bool) : Bool :=
  match b with
  | 0 => s == 0
  | 1 | 2 | 3 => s == 0 && !scl
  | 4 => decide (1 ≤ s ∧ s ≤ 5) && !scl
  | 5 => decide (1 ≤ s ∧ s ≤ 9) && !scl
  | _ => false

/-- A product's format word is a row of R190 allowed to the word. -/
def productLegal (i : Instr) (f : Word) : Bool :=
  fmtA f == fmtB f && tileLegal (fmtB f) (fmtS f) (fmtScl f) &&
    fmtAcc f == (match fmtA f with | 1 => 2 | 5 => 1 | _ => 0) &&
    match i with
    | .mma _ _ _ _ => decide (fmtA f ≤ 3)
    | .mmab _ _ _ _ => decide (1 ≤ fmtA f ∧ fmtA f ≤ 3)
    | .mmas _ _ _ _ => decide (4 ≤ fmtA f)
    | _ => false

/-! ## Votes -/

/-- What the checks of a matrix word give (R191). -/
inductive Vote where
  | ok
  | illegal (r : Reason)
  /-- A precise trap: event, reason and the info fields. -/
  | trap (event reason : Nat) (info0 info1 : Dword)
  deriving DecidableEq, Repr

/-- The voted registers of a matrix word, each with the cause a poisoned one kills with (R191 step 1). -/
def votedRegs : Instr → List (Reg × Nat)
  | .bld _ a b _ => [(a, 5), (b, 8)]
  | .cbl _ a _ => [(a, 5)]
  | .mma _ _ b _ | .mmab _ _ b _ | .mmas _ _ b _ => [(b, 8)]
  | .rqt d a b _ => [(a, 5), (b, 5), (d, 8)]
  | _ => []

/-- Step 1: the lanes whose voted register is poisoned. -/
def votePoison (i : Instr) (wp : Warp) (run : Run) (t : Thread) : Option Stop :=
  (votedRegs i).findSome? fun r => poisonStop wp run t r.1 r.2

/-- Step 2: the first voted register whose values differ, in the order of the fields. -/
def voteDiffers (wp : Warp) (run : Run) (i : Instr) : Option Vote :=
  let ls := wp.active run
  let vals (r : Reg) : List (Nat × Word) := ls.map fun l => (l, (wp.read run (wp.thread l) r).v)
  let order : List Reg := match i with | .rqt d a b _ => [d, a, b] | _ => (votedRegs i).map (·.1)
  order.findSome? fun r =>
    let v := ((vals r).map (·.2)).headD 0
    let bad := ((vals r).filter fun x => x.2 != v).map (·.1)
    if bad.isEmpty then none else some (.trap 4 0 (v.setWidth 64) (maskOf bad))

/-- The bits of a bank's tag as `mstat` gives them (R208). -/
def Tag.word (t : Tag) : Word :=
  let scl : BitVec 1 := if t.scl then 1 else 0
  (0 : BitVec 7) ++ scl ++ BitVec.ofNat 4 t.s ++ BitVec.ofNat 4 t.fmt ++ (0 : BitVec 2) ++ BitVec.ofNat 6 t.vn ++
    (0 : BitVec 2) ++ BitVec.ofNat 6 t.vk

/-- An empty bank (R185). -/
def Bank.empty : Bank where
  tag := ⟨15, 0, false, 0, 0⟩
  elems := []
  poison := []
  scales := []
  scalePoison := []

def Crucible.bank (x : Crucible) (k : Nat) : Bank := Sparse.get Bank.empty x.banks k

/-! ## Tiles -/

/-- An element of a tile as raw bits with its poison, through a byte reader (R193, R214). -/
def TileDesc.element (t : TileDesc) (read : Word → Byte × Bool) (fmt k n : Nat) : Nat × Bool :=
  if fmt = 0 then
    let b := read (t.row k + BitVec.ofNat 32 (n / 2))
    (if n % 2 = 0 then b.1.toNat % 16 else b.1.toNat / 16, b.2)
  else
    let size := elemBits fmt / 8
    let bs := (List.range size).map fun i => read (t.row k + BitVec.ofNat 32 (n * size + i))
    (numOfBytes (bs.map (·.1)), bs.any (·.2))

/-- The bank a tile gives (R200). -/
def TileDesc.load (t : TileDesc) (read : Word → Byte × Bool) (fmt s : Nat) (scl : Bool) : Bank :=
  let cells := (List.range t.vk).flatMap fun k => (List.range t.vn).map fun n => (k * 32 + n, t.element read fmt k n)
  let sc := if scl then (List.range t.vn).map fun n => (n, read (t.scales + BitVec.ofNat 32 n)) else []
  { tag := ⟨fmt, s, scl, t.vk, t.vn⟩
    elems := cells.map fun x => (x.1, x.2.1)
    poison := (cells.filter fun x => x.2.2).map (·.1)
    scales := sc.map fun x => (x.1, x.2.1.toNat)
    scalePoison := (sc.filter fun x => x.2.2).map (·.1) }

/-- What the reading of a tile gives: the rows it touches, and the bank or the fate of the issuing lanes (R200). -/
inductive TileRead where
  | bank (rows : List (Nat × Nat)) (b : Bank)
  | illegal
  | poisoned
  | violation (f : Nat × Word)
  deriving DecidableEq, Repr

/-- A tile read as plain loads of a warp (R200). -/
def Chip.readTile (c : Chip) (w : Nat) (a : Word) (fmt s : Nat) (scl : Bool) : TileRead :=
  match c.check w .load true (a.toNat % 16 == 0) a 16 with
  | some f => .violation f
  | none =>
    let v := c.loadWords w a 16
    let word (k : Nat) : Word := (v.getD k ⟨0, false⟩).v
    if v.any (·.p) then .poisoned
    else
      match TileDesc.of (word 0) (word 1) (word 2) (word 3) with
      | none => .illegal
      | some t =>
        let rows := t.ranges fmt scl
        match rows.findSome? fun r => c.check w .load true true (BitVec.ofNat 32 r.1) r.2 with
        | some f => .violation f
        | none => .bank ((a.toNat, 16) :: rows) (t.load (c.loadByte w) fmt s scl)

/-! ## Checks -/

/-- The extent of n registers from one on breaks R192: it must lie below W, at or below g119, and on no bound slot. -/
def extentBad (wp : Warp) (run : Run) (a : Reg) (n : Nat) : Bool :=
  decide (256 < a.toNat + n) ||
    (regs a n).any fun r => unnamed wp run r || isTemp run r || wp.boundSlots.contains r.toNat

/-- Steps 3 to 5 for a product word. An odd slot for FP64 (R224) is judged once the combination is legal and before the
extent (log entry 98). -/
def voteProduct (c : Chip) (wp : Warp) (run : Run) (i : Instr) (d : Reg) (f : Word) : Vote :=
  let trap (reason : Nat) : Vote := .trap 4 reason (f.setWidth 64) 0
  if fmtReserved f then trap 1
  else if !productLegal i f then trap 2
  else if fmtA f == 5 && d.getLsbD 0 then .illegal .reservedField
  else if (fragmentExtent wp run i).any fun x => extentBad wp run x.1 x.2 then .illegal .illegalUse
  else
    let t := ((c.crucible wp.core).bank (fmtBank f)).tag
    let info : Dword := f.setWidth 64 ||| ((t.word &&& 0x1FFFFFF).setWidth 64 <<< 32)
    if t.fmt = 15 then .trap 5 0 info 0
    else if t.fmt != fmtB f || t.s != fmtS f || t.scl != fmtScl f then .trap 5 1 info 0
    else .ok

/-- The checks of a matrix word once poisoned lanes are gone, from step 2 (R191, R206), and for `bld` that of its descriptor
(R210). -/
def vote (c : Chip) (w rid : Nat) (i : Instr) : Vote :=
  let wp := c.warp w
  let run := wp.run rid
  match (wp.active run).head? with
  | none => .ok
  | some l =>
    let val (r : Reg) : Word := (wp.read run (wp.thread l) r).v
    match voteDiffers wp run i with
    | some v => v
    | none =>
      match i with
      | .mma d _ b _ | .mmab d _ b _ | .mmas d _ b _ => voteProduct c wp run i d (val b)
      | .bld _ a b _ =>
        let f := val b
        let trap (reason : Nat) : Vote := .trap 4 reason (f.setWidth 64) 0
        if f.extractLsb' 18 14 != 0 || decide (5 < fmtB f) then trap 1
        else if !tileLegal (fmtB f) (fmtS f) (fmtScl f) then trap 2
        else if (c.readTile w (val a) (fmtB f) (fmtS f) (fmtScl f)) = .illegal then .illegal .illegalUse
        else .ok
      | .rqt d _ _ _ =>
        let f := val d
        if f.extractLsb' 11 21 != 0 || f.extractLsb' 6 2 != 0 then .trap 4 1 (f.setWidth 64) 0
        else if (c.block wp.block).ndc ≤ rqtDc f then .illegal .illegalUse
        else .ok
      | _ => .ok

/-- Issues a matrix word: its checks come before any effect (R191), a trap before any other. -/
def matrixGo (i : Instr) (body : Body) : Body := fun w rid c =>
  let c := c.begin w rid i
  let taken := c.takeElements w rid i
  let wp := taken.warp w
  let run := wp.run rid
  let kills : LaneStops := (wp.active run).filterMap fun l => (votePoison i wp run (wp.thread l)).map fun x => (l, x)
  let clean := taken.applyFaults w rid kills
  match vote clean w rid i with
  | .ok => (body w rid clean).finish w rid i
  | .illegal r => clean.illegal w rid r
  | .trap event reason i0 i1 => (c.applyFaults w rid kills).raise w rid event reason i0 i1 0

/-- Issues a matrix word. -/
def issueMatrix (i : Instr) (body : Body) (s : State) : Host.Outcome State Fault Refusal :=
  issueWith i anyUse (matrixGo i body) s

/-! ## The queue -/

/-- The slots a matrix word names (R208). -/
def slotsOf (f : Word) : Instr → List Nat
  | .mma d _ _ _ => [d.toNat]
  | .mmab d a _ _ => [d.toNat, a.toNat]
  | .mmas d _ _ _ => if fmtA f = 5 then [d.toNat, d.toNat + 1] else [d.toNat]
  | .drn _ a w _ _ => if w = 1 then [a.toNat, a.toNat + 1] else [a.toNat]
  | .acl d _ w _ _ => if w = 1 then [d.toNat, d.toNat + 1] else [d.toNat]
  | .acz d p _ => if p = 1 then [d.toNat, d.toNat + 1] else [d.toNat]
  | _ => []

/-- The bits of `mstat` selector 0 that are sampled when it is accepted (R208). -/
def Crucible.sample (x : Crucible) : Word :=
  let es := x.queue ++ (x.cur.map (·.entry)).toList
  let slots := es.flatMap fun e => slotsOf e.fmt e.word
  let banks := es.filterMap MatrixEntry.loads
  (List.range 8).foldl (fun v j =>
    v ||| (if slots.contains j then 1 <<< (16 + j) else 0) ||| (if banks.contains j then 1 <<< (8 + j) else 0)) 0

/-- A matrix word with nothing captured. -/
def Chip.matrixEntry (c : Chip) (w rid : Nat) (i : Instr) : MatrixEntry :=
  let wp := c.warp w
  let run := wp.run rid
  let l := (wp.active run).headD 0
  let val (r : Reg) : Word := (wp.read run (wp.thread l) r).v
  let f : Word := match i with
    | .bld _ _ b _ | .mma _ _ b _ | .mmab _ _ b _ | .mmas _ _ b _ => val b
    | .rqt d _ _ _ => val d
    | _ => 0
  let a : Word := match i with
    | .bld _ a _ _ | .cbl _ a _ | .rqt _ a _ _ => val a
    | _ => 0
  let a2 : Word := match i with | .rqt _ _ b _ => val b | _ => 0
  { word := i, warp := w, lanes := maskOf (wp.active run), npc := run.npc, raw := run.raw, fmt := f, addr := a
    addr2 := a2, frag := [], dest := [], load := .nothing, rows := [], sample := 0
    rentry := (wp.thread l).rentry, retry := (wp.thread l).retry, num := c.next }

/-- Accepts a word into the matrix queue (R187). -/
def Chip.accept (c : Chip) (e : MatrixEntry) : Chip :=
  let c := { c with next := c.next + 1 }
  let wp := c.warp e.warp
  let c := c.modCore wp.core fun k => { k with matrixAt := 4 * c.cycle + portOf wp.slot }
  c.modCrucible wp.core fun x => { x with queue := x.queue ++ [e] }

/-- Registers of the active lanes, captured at issue: lane · 128 + index. -/
def captureRegs (wp : Warp) (run : Run) (rs : List Reg) : Sparse Val :=
  (wp.active run).flatMap fun l => rs.zipIdx.map fun r => (l * 128 + r.2, wp.read run (wp.thread l) r.1)

/-- A product is accepted with its fragment; it holds its draw until it completes (R161, R202, R213). -/
def productOp (i : Instr) : Body := fun w rid c =>
  let wp := c.warp w
  let run := wp.run rid
  if (wp.active run).isEmpty then c
  else
    let c := c.accept { c.matrixEntry w rid i with frag := captureRegs wp run (fragment wp run i) }
    c.modWarp w fun wp => { wp with drawProduct := wp.drawProduct + i.drawUnits }

/-- `bld` is accepted, its tile read as it issues: no job in flight still writes its bytes (R200; log entry 12). Its descriptor
has been checked. -/
def bldOp (i : Instr) : Body := fun w rid c =>
  let wp := c.warp w
  let run := wp.run rid
  if (wp.active run).isEmpty then c
  else
    let e := c.matrixEntry w rid i
    match c.readTile w e.addr (fmtB e.fmt) (fmtS e.fmt) (fmtScl e.fmt) with
    | .illegal => c
    | .poisoned => c.lanesFault w rid fun _ _ _ _ => some (Stop.of 5)
    | .violation f => (c.lanesFault w rid fun _ _ _ _ => some (violation f)).accept { e with load := .failed }
    | .bank rows b => c.accept { e with load := .bank b, rows := rows }

/-- `cbl` is accepted with its table (R201). -/
def cblOp (i : Instr) : Body := fun w rid c =>
  let wp := c.warp w
  let run := wp.run rid
  if (wp.active run).isEmpty then c
  else
    let e := c.matrixEntry w rid i
    match c.check w .load true (e.addr.toNat % 4 == 0) e.addr 32 with
    | some f => c.lanesFault w rid fun _ _ _ _ => some (violation f)
    | none =>
      let xs := (List.range 16).map fun k =>
        let bs := c.loadBytes w (e.addr + BitVec.ofNat 32 (2 * k)) 2
        (⟨BitVec.ofNat 32 (numOfBytes bs.1), bs.2⟩ : Val)
      c.accept { e with load := .table xs }

/-- `drn` and `mstat` are accepted with their destinations pending (R204, R208). -/
def readingOp (i : Instr) (kind : PendKind) (rs : List Reg) : Body := fun w rid c =>
  let wp := c.warp w
  let run := wp.run rid
  let dest := (wp.active run).map fun l => (l, rs.map (wp.cellIn run (wp.thread l)))
  if dest.isEmpty then c
  else
    let c := c.accept { c.matrixEntry w rid i with dest := dest, sample := (c.crucible wp.core).sample }
    c.lanesDo w rid fun wp run _ t => t.await kind (rs.map fun r => (wp.cellIn run t r, ⟨0, false⟩)) 0

/-- `acl` is accepted with its registers, `acz` with nothing more (R204, R205). -/
def movingOp (i : Instr) (rs : List Reg) : Body := fun w rid c =>
  let wp := c.warp w
  let run := wp.run rid
  if (wp.active run).isEmpty then c
  else c.accept { c.matrixEntry w rid i with frag := captureRegs wp run rs }

/-! ## Element values -/

/-- The value of a codebook entry scaled (R194). -/
def cb4Value (entry : Word) (scale : Nat) : FVal :=
  match bf16.decode (entry.toNat % 2 ^ 16) with
  | .nan s => .nan s
  | .inf n => if scale = 255 then .nan false else .inf n
  | .num n m x => if scale = 255 then .nan false else .num n m (x + (scale : Int) - 127)

/-- Codebook entry of a table. -/
def Crucible.entry (x : Crucible) (table code : Nat) : Val := Sparse.get ⟨0, false⟩ x.tables (table * 16 + code)

/-- Exact zero. -/
def zeroVal : FVal := .num false 0 0

/-- The format of a float code of R189. -/
def floatFmt (fmt : Nat) : Fmt :=
  match fmt with
  | 2 => bf16
  | 3 => f16
  | 4 => f32
  | _ => f64

/-- Element (k, n) of a bank as a value (R193, R194). -/
def Crucible.bElem (x : Crucible) (b : Bank) (k n : Nat) : FVal :=
  match Sparse.find b.elems (k * 32 + n) with
  | none => zeroVal
  | some v =>
    if b.tag.fmt = 0 then cb4Value (x.entry 1 v).v (if b.tag.scl then Sparse.get 0 b.scales n else 127)
    else (floatFmt b.tag.fmt).decode v

/-- A signed byte. -/
def int8 (v : Nat) : Int := (BitVec.ofNat 8 v).toInt
def Crucible.bInt (_ : Crucible) (b : Bank) (k n : Nat) : Int := int8 (Sparse.get 0 b.elems (k * 32 + n))

/-- Column n of a bank holds poison, or decodes a poisoned table entry (R198, R201). -/
def Crucible.bPoison (x : Crucible) (b : Bank) (n : Nat) : Bool :=
  b.scalePoison.contains n ||
    (List.range 32).any fun k =>
      b.poison.contains (k * 32 + n) ||
        (b.tag.fmt == 0 && match Sparse.find b.elems (k * 32 + n) with
          | some v => (x.entry 1 v).p
          | none => false)

/-- Bits of a captured fragment: n bits of element k. -/
def fragBits (frag : Sparse Val) (l : Nat) (bits k : Nat) : Nat :=
  let reg (r : Nat) : Nat := (Sparse.get ⟨0, false⟩ frag (l * 128 + r)).v.toNat
  if bits = 64 then reg (2 * k) + 2 ^ 32 * reg (2 * k + 1)
  else if bits = 32 then reg k
  else reg (k * bits / 32) / 2 ^ (k * bits % 32) % 2 ^ bits

/-- A accumulator element's key. -/
def accKey (slot l n : Nat) : Nat := (slot * 64 + l) * 32 + n
def Crucible.accVal (x : Crucible) (slot l n : Nat) : Val := Sparse.get ⟨0, false⟩ x.acc (accKey slot l n)
def Crucible.setAcc (x : Crucible) (slot l n : Nat) (v : Val) : Crucible :=
  { x with acc := Sparse.set ⟨0, false⟩ x.acc (accKey slot l n) v }

/-- One row of A: its values, its integers for INT8, and whether anything it read is poisoned. -/
structure ARow where
  vals : List FVal
  ints : List Int
  poison : Bool
  deriving DecidableEq, Repr

/-- Row l of A from captured registers (R192, R194, R213). -/
def Crucible.rowOf (x : Crucible) (frag : Sparse Val) (fmt l : Nat) (scl : Bool) : ARow :=
  let bits := elemBits fmt
  let raw := (List.range 32).map (fragBits frag l bits)
  let regsRead := 32 * bits / 32 + (if scl then 1 else 0)
  let p := (List.range regsRead).any fun r => (Sparse.get ⟨0, false⟩ frag (l * 128 + r)).p
  if fmt = 0 then
    let scale := if scl then (Sparse.get ⟨0, false⟩ frag (l * 128 + 4)).v.toNat % 256 else 127
    ⟨raw.map fun v => cb4Value (x.entry 0 v).v scale, [], p || raw.any fun v => (x.entry 0 v).p⟩
  else if fmt = 1 then ⟨[], raw.map int8, p⟩
  else ⟨raw.map (floatFmt fmt).decode, [], p⟩

/-- Row l of A from a slot (R203). -/
def Crucible.rowFromSlot (x : Crucible) (slot fmt l : Nat) : ARow :=
  let es := (List.range 32).map fun n => x.accVal slot l n
  let p := es.any (·.p)
  if fmt = 1 then ⟨[], es.map fun v => max (-128) (min 127 v.v.toInt), p⟩
  else
    let f := floatFmt fmt
    ⟨es.map fun v => f.decode (sumRound f .rne [f32.decode v.v.toNat]).1, [], p⟩

/-! ## The narrow sum -/

/-- The exponent of an operand element (R195); a subnormal of a format has its least normal exponent. -/
def expoOf (fmt : Nat) (m : Nat) (x : Int) : Int :=
  let e := (Nat.log2 m : Int) + x
  if fmt = 2 then max e (-126) else if fmt = 3 then max e (-14) else e

/-- The greatest exponent of a list of elements, 0 if none is finite and non-zero. -/
def maxExpo (fmt : Nat) (xs : List FVal) : Int :=
  (xs.foldl (fun r v => match v with
    | .num _ m x => if m = 0 then r else some (max (r.getD (expoOf fmt m x)) (expoOf fmt m x))
    | _ => r) none).getD 0

/-- An element as the integer the macros multiply, truncated in magnitude against a common exponent (R195). -/
def alignedInt (fmt : Nat) (emax : Int) : FVal → Int
  | .num neg m x =>
    if m = 0 then 0
    else
      let e := expoOf fmt m x
      let v := m * 2 ^ (x + 13 - e).toNat / 2 ^ (emax - e).toNat
      if neg then -(v : Int) else v
  | _ => 0

/-- The special result of an element, if any (R196). -/
def specialResult (as bs : List FVal) (c : FVal) : Option FVal :=
  let ps := as.zip bs
  let clash := ps.any fun p => (p.1.isInf true || p.1.isInf false) && p.2.isZero ||
    (p.2.isInf true || p.2.isInf false) && p.1.isZero
  let prods := ps.map fun p => p.1.mul p.2
  let neg := prods.any (FVal.isInf true) || c.isInf true
  let pos := prods.any (FVal.isInf false) || c.isInf false
  if as.any FVal.isNan || bs.any FVal.isNan || c.isNan || clash || (neg && pos) then some (.nan false)
  else if neg then some (.inf true)
  else if pos then some (.inf false)
  else none

/-- A special value's bits. -/
def FVal.bits (f : Fmt) : FVal → Nat
  | .nan _ => f.nan
  | .inf n => f.signed n f.inf
  | .num _ _ _ => 0

/-- C plus an exact term, rounded once; a zero term leaves C's sign (R195, R215). -/
def addTerm (f : Fmt) (c : FVal) (s : Int) (x : Int) : Nat :=
  (sumRound f .rne (if s = 0 then [c] else [c, .num (decide (s < 0)) s.natAbs x])).1

/-- One element of a narrow float product (R195, R196). -/
def narrowSum (fmt : Nat) (as bs : List FVal) (c : Nat) : Nat :=
  let cv := f32.decode c
  match specialResult as bs cv with
  | some v => v.bits f32
  | none =>
    let ea := maxExpo fmt as
    let eb := maxExpo fmt bs
    let s := ((as.map (alignedInt fmt ea)).zip (bs.map (alignedInt fmt eb))).foldl (fun t p => t + p.1 * p.2) 0
    addTerm f32 cv s (ea + eb - 26)

/-- The values of bank column n. -/
def Crucible.column (x : Crucible) (b : Bank) (n : Nat) : List FVal := (List.range 32).map fun k => x.bElem b k n

/-- One element of a narrow product into a slot (R195 to R198). -/
def Crucible.narrowElem (x : Crucible) (b : Bank) (r : ARow) (slot l n : Nat) : Val :=
  let c := x.accVal slot l n
  let p := r.poison || x.bPoison b n || c.p
  if b.tag.fmt = 1 then
    let s := r.ints.zipIdx.foldl (fun (t : Int) v => t + v.1 * x.bInt b v.2 n) 0
    ⟨c.v + BitVec.ofInt 32 s, p⟩
  else ⟨BitVec.ofNat 32 (narrowSum b.tag.fmt r.vals (x.column b n) c.v.toNat), p⟩

/-- The result of the product in progress, as the slot elements it commits (R195, R203). -/
def Crucible.narrowResult (x : Crucible) (e : MatrixEntry) : List (Nat × Nat × Nat × Val) :=
  let b := x.bank (fmtBank e.fmt)
  let rows (slot : Nat) (row : Nat → ARow) :=
    e.lanes.lanes.flatMap fun l =>
      let r := row l
      (List.range 32).map fun n => (slot, l, n, x.narrowElem b r slot l n)
  match e.word with
  | .mma d _ _ _ => rows d.toNat fun l => x.rowOf e.frag (fmtA e.fmt) l (fmtScl e.fmt)
  | .mmab d a _ _ => rows d.toNat fun l => x.rowFromSlot a.toNat (fmtA e.fmt) l
  | _ => []

/-- Slot elements committed. -/
def Crucible.commit (x : Crucible) (vs : List (Nat × Nat × Nat × Val)) : Crucible :=
  vs.foldl (fun x v => x.setAcc v.1 v.2.1 v.2.2.1 v.2.2.2) x

/-! ## The sliced sum -/

/-- The scale exponent of a row or column (R212). -/
def scaleExp (xs : List FVal) : Int :=
  (xs.foldl (fun r v => match v with
    | .num _ m x => if m = 0 then r else
      let e := (Nat.log2 m : Int) + x + 1
      some (max (r.getD e) e)
    | _ => r) none).getD 0

/-- Slice p of s of an element against a scale exponent (R211): base-128 digits of the magnitude, truncated. -/
def sliceOf (s p : Nat) (e : Int) : FVal → Int
  | .num neg m x =>
    let k := x + 7 * (s : Int) - e
    let t := if 0 ≤ k then m * 2 ^ k.toNat else m / 2 ^ (-k).toNat
    let d := t / 128 ^ (s - p) % 128
    if neg then -(d : Int) else d
  | _ => 0

/-- What pass p adds to the sum of an element (R215). -/
def passSum (s p : Nat) (as bs : List FVal) : Int :=
  let ea := scaleExp as
  let eb := scaleExp bs
  (List.range (s + 1 - p)).foldl (fun t i =>
    let q := i + 1
    let d := (as.zip bs).foldl (fun t x => t + sliceOf s p ea x.1 * sliceOf s q eb x.2) 0
    t + d * 2 ^ (7 * (s + 1 - p - q))) 0

/-- The sums after one more pass, for every active row and column. -/
def Crucible.runPass (x : Crucible) (u : Product) : Product :=
  let e := u.entry
  let b := x.bank (fmtBank e.fmt)
  let s := fmtS e.fmt
  let p := u.pass + 1
  let sums := e.lanes.lanes.foldl (fun sums l =>
    let r := x.rowOf e.frag (fmtA e.fmt) l false
    (List.range 32).foldl (fun sums n =>
      let k := l * 32 + n
      Sparse.set 0 sums k (Sparse.get 0 sums k + passSum s p r.vals (x.column b n))) sums) u.sums
  { u with pass := p, sums := sums }

/-- The old accumulator value and its poison, in the format of a sliced product. -/
def Crucible.oldWide (x : Crucible) (wide : Bool) (slot l n : Nat) : Nat × Bool :=
  let lo := x.accVal slot l n
  if wide then
    let hi := x.accVal (slot + 1) l n
    (lo.v.toNat + 2 ^ 32 * hi.v.toNat, lo.p || hi.p)
  else (lo.v.toNat, lo.p)

/-- The committed elements of a finished sliced product (R215, R219). -/
def Crucible.slicedResult (x : Crucible) (u : Product) : List (Nat × Nat × Nat × Val) :=
  let e := u.entry
  let b := x.bank (fmtBank e.fmt)
  let wide := fmtA e.fmt == 5
  let f := if wide then f64 else f32
  match e.word with
  | .mmas d _ _ _ =>
    e.lanes.lanes.flatMap fun l =>
      let r := x.rowOf e.frag (fmtA e.fmt) l false
      (List.range 32).flatMap fun n =>
        let c := x.oldWide wide d.toNat l n
        let col := x.column b n
        let v := match specialResult r.vals col (f.decode c.1) with
          | some v => v.bits f
          | none => addTerm f (f.decode c.1) (Sparse.get 0 u.sums (l * 32 + n))
              (scaleExp r.vals + scaleExp col - 7 * ((fmtS e.fmt : Int) + 1))
        let p := r.poison || x.bPoison b n || c.2
        (d.toNat, l, n, (⟨BitVec.ofNat 32 v, p⟩ : Val)) ::
          (if wide then [(d.toNat + 1, l, n, (⟨BitVec.ofNat 32 (v / 2 ^ 32), p⟩ : Val))] else [])
  | _ => []

/-! ## Resume state -/

/-- The cursor word of a stopped product (R220). -/
def Product.cursorWord (u : Product) : Nat :=
  let e := u.entry
  let slot := match e.word with | .mmas d _ _ _ => d.toNat | _ => 0
  2 ^ 20 * (u.pass + 1) + 2 ^ 16 * fmtS e.fmt + 2 ^ 12 * fmtA e.fmt + 2 ^ 8 * slot + 2 ^ 4 * fmtBank e.fmt

/-- A signed number in n bytes, two's complement. -/
def bytesOfInt (n : Nat) (v : Int) : List Byte := bytesOfNum n (v % 2 ^ (8 * n)).toNat

/-- The flags of an element of a stopped product: bit 0 its poison, bit 1 a special value among its operands (R220; log
entry 100). -/
def Crucible.resumeFlags (x : Crucible) (r : ARow) (b : Bank) (n : Nat) : Nat :=
  let special := (r.vals ++ x.column b n).any fun v => match v with | .num _ _ _ => false | _ => true
  (if r.poison || x.bPoison b n then 1 else 0) + if special then 2 else 0

/-- The resume state of a product stopped after a pass (R220): cursor word, active mask, row exponents, the slices still to
come, partial sums, flags. Within a row the slices stand one after the other, each over the row's elements (log entry 100). -/
def Crucible.resumeState (x : Crucible) (u : Product) : List Byte :=
  let e := u.entry
  let ls := e.lanes.lanes
  let b := x.bank (fmtBank e.fmt)
  let s := fmtS e.fmt
  let row (l : Nat) : ARow := x.rowOf e.frag (fmtA e.fmt) l false
  bytesOfNum 4 u.cursorWord ++ bytesOfNum 8 e.lanes.toNat ++
    ((List.range 64).flatMap fun l => bytesOfInt 2 (if ls.contains l then scaleExp (row l).vals else 0)) ++
    (ls.flatMap fun l => (List.range (s - u.pass)).flatMap fun i =>
      (row l).vals.flatMap fun v => bytesOfInt 1 (sliceOf s (u.pass + 1 + i) (scaleExp (row l).vals) v)) ++
    (ls.flatMap fun l => (List.range 32).flatMap fun n => bytesOfInt 12 (Sparse.get 0 u.sums (l * 32 + n))) ++
    ls.flatMap fun l => (List.range 32).flatMap fun n => bytesOfNum 1 (x.resumeFlags (row l) b n)

/-! ## Moving accumulators -/

/-- `acl` copies captured registers to its columns (R204). -/
def Crucible.loadAcc (x : Crucible) (e : MatrixEntry) (slot g : Nat) (wide : Bool) : Crucible :=
  let get (l r : Nat) : Val := Sparse.get ⟨0, false⟩ e.frag (l * 128 + r)
  x.commit (e.lanes.lanes.flatMap fun l => (List.range 8).flatMap fun j =>
    if wide then [(slot, l, 8 * g + j, get l (2 * j)), (slot + 1, l, 8 * g + j, get l (2 * j + 1))]
    else [(slot, l, 8 * g + j, get l j)])

/-- `acz` (R205). -/
def Crucible.zeroAcc (x : Crucible) (e : MatrixEntry) (slots : List Nat) : Crucible :=
  x.commit (e.lanes.lanes.flatMap fun l => slots.flatMap fun s => (List.range 32).map fun n => (s, l, n, ⟨0, false⟩))

/-- What `drn` gives a lane (R204). -/
def Crucible.drained (x : Crucible) (slot g : Nat) (wide : Bool) (l : Nat) : List Val :=
  (List.range 8).flatMap fun j =>
    if wide then [x.accVal slot l (8 * g + j), x.accVal (slot + 1) l (8 * g + j)] else [x.accVal slot l (8 * g + j)]

/-- What `mstat` gives (R208). -/
def Crucible.status (x : Crucible) (selector : Nat) (sample : Word) : Word :=
  if selector = 0 then
    (List.range 8).foldl (fun v j => v ||| (if (x.bank j).tag.fmt != 15 then 1 <<< j else 0)) sample
  else (x.bank (selector - 1)).tag.word

/-! ## Delivery -/

/-- Drops the first element a test picks. -/
def eraseFirst {α : Type} (f : α → Bool) : List α → List α
  | [] => []
  | x :: r => if f x then r else x :: eraseFirst f r

/-- A matrix result reaches a lane, if the lane still waits for it. -/
def Chip.deliverMatrix (c : Chip) (e : MatrixEntry) (kind : PendKind) (l : Nat) (vals : List Val) : Chip :=
  let cells := Sparse.get [] e.dest l
  let hit (p : Pend) : Bool := p.kind == kind && p.cells.map (·.1) == cells
  if ((c.warp e.warp).thread l).pend.any hit then
    let c := c.modWarp e.warp fun wp => wp.modThread l fun t => { t with pend := eraseFirst hit t.pend }
    c.landCells e.warp l (cells.zip vals)
  else c

/-! ## The queue's events -/

/-- The status of the block an entry belongs to. -/
def Chip.entryBlock (c : Chip) (e : MatrixEntry) : Block := c.block (c.warp e.warp).block

/-- The Crucible of a core works on for an entry's block: the block runs, or is being stopped and the Crucible has not
acknowledged (R309). -/
def Chip.matrixServes (c : Chip) (core : Nat) (e : MatrixEntry) : Bool :=
  let b := c.entryBlock e
  b.status == .running || (b.status == .stopping && b.owed.contains (1, core))

/-- A run's next word waits for what only the Crucible gives: its draw, or a place in the matrix queue (R161, R187). -/
def Chip.matrixStall (c : Chip) (w rid : Nat) : Bool :=
  match c.prepare w rid with
  | .word d i =>
    match gate d w rid i with
    | .wait leaf => queued i && (leaf == 11 || (d.peek w rid i).matrixWait w rid i)
    | _ => false
  | _ => false

/-- A block's warps on a core. -/
def Chip.blockOn (c : Chip) (core b : Nat) : List (Nat × Warp) :=
  c.warps.filter fun e => e.2.block == b && e.2.core == core && !e.2.offCore

/-- The Crucible of a core stops for a block: at once as it is asked, but it goes on while a group of the block there waits for
it within a run, which R310 does not cut short (R220, R309; log entry 99). -/
def Chip.matrixStopped (c : Chip) (core b : Nat) : Bool :=
  (c.block b).status == .stopping && !((c.blockOn core b).any fun e => e.2.runs.any fun r => c.matrixStall e.1 r.1)

/-- The head of a core's queue while no product runs. -/
def Chip.matrixFirst (c : Chip) (core : Nat) : Option MatrixEntry :=
  let x := c.crucible core
  if x.cur.isSome then none else x.queue.head?.filter (c.matrixServes core)

/-- The head of a core's queue that may begin: none of a block whose stop the Crucible has (R209, R220). -/
def Chip.matrixHead (c : Chip) (core : Nat) : Option MatrixEntry :=
  (c.matrixFirst core).filter fun e => !c.matrixStopped core (c.warp e.warp).block

/-- The head of a core's queue whose result may be delivered: not once its warp's stop is acknowledged, for which the result
counts as delivered (R309, R316). -/
def Chip.matrixReads (c : Chip) (core : Nat) : Option MatrixEntry :=
  (c.matrixFirst core).filter fun e =>
    (c.entryBlock e).status == .running || (c.entryBlock e).owed.contains (0, e.warp)

/-- The product in progress, unless a stop holds it (R220). -/
def Chip.matrixCur (c : Chip) (core : Nat) : Option Product :=
  (c.crucible core).cur.filter fun u =>
    c.matrixServes core u.entry && !(u.held && c.matrixStopped core (c.warp u.entry.warp).block)

/-- With no product left, the words of a restored image are accepted again in their order (R209, R221). -/
def Crucible.readmit (x : Crucible) : Crucible :=
  if x.cur.isSome then x
  else x.saved.foldl (fun x e => { x with queue := x.queue ++ [{ e with sample := x.sample }] }) { x with saved := [] }

/-- The product in progress is over. -/
def Crucible.endProduct (x : Crucible) : Crucible := { x with cur := none }.readmit

/-- Drops the head of a core's queue. -/
def Chip.popMatrix (c : Chip) (core : Nat) : Chip := c.modCrucible core fun x => { x with queue := x.queue.drop 1 }

/-- The job of an `rqt`, in the hazard unit from its acceptance (R206). -/
def Chip.rqtJob (c : Chip) (e : MatrixEntry) : Job :=
  let wp := c.warp e.warp
  let l := e.lanes.lanes.headD 0
  let t := wp.thread l
  { kind := .rqt e.fmt e.addr e.addr2 none, status := .waiting, context := wp.context
    block := wp.block, warp := e.warp, lane := l, lanes := e.lanes, wid := t.wid, launch := wp.launch, npc := e.npc, word := e.raw
    gpc := t.gpc, rentry := e.rentry, die := dieOf wp.core, cluster := clusterOf wp.core, jc0 := 0, jc1 := 0, jc2 := 0
    jc3 := BitVec.ofNat 64 (rqtDc e.fmt), cursor := 0, claim := none, chunk := [], fault := none
    traced := false }

/-- `rqt` is accepted, and its job enters the hazard unit under the entry's number (R206). A stop of its block asks this
Crucible too (R309). -/
def rqtOp (i : Instr) : Body := fun w rid c =>
  let c := c.drain w
  let wp := c.warp w
  if (wp.active (wp.run rid)).isEmpty then c
  else
    let e := c.matrixEntry w rid i
    let c := c.accept e
    let c := c.modBlock wp.block fun b =>
      if b.status = .stopping && !b.owed.contains (1, wp.core) then { b with owed := b.owed ++ [(1, wp.core)] } else b
    { c with jobs := Sparse.put c.jobs e.num (c.rqtJob e) }

/-- A job whose `rqt` has its turn in the queue reads the tables as they stand (R207). -/
def Job.tabled (j : Job) (tables : Sparse Val) : Job :=
  match j.kind with
  | .rqt ctl src dst _ => { j with kind := .rqt ctl src dst (some tables) }
  | .ladle => j

/-- The Crucible begins the next word (R187): a product starts, `acz` and `acl` act, `rqt` goes to the cluster's RQT. -/
def Chip.startMatrix (c : Chip) (core : Nat) : Option Chip :=
  (c.matrixHead core).bind fun e =>
    match e.word with
    | .mma _ _ _ _ | .mmab _ _ _ _ | .mmas _ _ _ _ =>
      some ((c.popMatrix core).modCrucible core fun x => { x with cur := some ⟨e, 0, false, []⟩ })
    | .acz d p _ =>
      some ((c.popMatrix core).modCrucible core fun x =>
        x.zeroAcc e (if p = 1 then [d.toNat, d.toNat + 1] else [d.toNat]))
    | .acl d _ w g _ => some ((c.popMatrix core).modCrucible core fun x => x.loadAcc e d.toNat g.toNat (w == 1))
    | .rqt _ _ _ _ =>
      let tables := (c.crucible core).tables
      let c := c.popMatrix core
      some { c with jobs := Sparse.modify c.jobs e.num fun j => j.tabled tables }
    | _ => none

/-- A product gives its draw back to its warp (R161). -/
def Chip.releaseDraw (c : Chip) (e : MatrixEntry) : Chip :=
  c.modWarp e.warp fun wp => { wp with drawProduct := wp.drawProduct - e.word.drawUnits }

/-- A checksum mismatch discards the product and raises a pipeline error (R199, R222): the lanes go back to the region
entry that the word issued in, so that the retry issues it again, and the attempt is one of that region (R306). -/
def Chip.discardProduct (c : Chip) (core : Nat) (e : MatrixEntry) (unit : Nat) : Chip :=
  let c := (c.modCrucible core Crucible.endProduct).releaseDraw e
  let ls := (e.lanes &&& (c.warp e.warp).liveMask).lanes
  (c.mismatch e.warp ls e.npc e.raw unit (e.retry + 1) fun _ => e.rentry).modWarp e.warp fun wp =>
    wp.mapLanes ls fun _ t => { t with rentry := e.rentry, rtime := c.ns }

/-- A narrow product completes: its check, then its commit (R195, R199). -/
def Chip.completeNarrow (c : Chip) (core : Nat) : Option Chip :=
  (c.matrixCur core).bind fun u =>
    match u.entry.word with
    | .mma _ _ _ _ | .mmab _ _ _ _ =>
      match c.inject with
      | some unit => some (c.discardProduct core u.entry unit)
      | none => some ((c.modCrucible core fun x =>
          (x.commit (x.narrowResult u.entry)).endProduct).releaseDraw u.entry)
    | _ => none

/-- A sliced pass ends; the last one commits the slot (R219). A stop holds the product there (R220). -/
def Chip.completePass (c : Chip) (core : Nat) : Option Chip :=
  (c.matrixCur core).bind fun u =>
    match u.entry.word with
    | .mmas _ _ _ _ =>
      match c.inject with
      | some unit => some (c.discardProduct core u.entry unit)
      | none =>
        let u := (c.crucible core).runPass u
        if u.pass < fmtS u.entry.fmt then
          let held := c.matrixStopped core (c.warp u.entry.warp).block
          some (c.modCrucible core fun x => { x with cur := some { u with held := held } })
        else some ((c.modCrucible core fun x =>
          (x.commit (x.slicedResult u)).endProduct).releaseDraw u.entry)
    | _ => none

/-- A bank takes a tile, or becomes empty. -/
def Chip.setBank (c : Chip) (core k : Nat) (b : Bank) : Chip :=
  c.modCrucible core fun x => { x with banks := Sparse.put x.banks k b }

/-- A bank load completes (R200). -/
def Chip.completeBld (c : Chip) (core : Nat) : Option Chip :=
  (c.matrixHead core).bind fun e =>
    match e.word, e.load with
    | .bld k _ _ _, .bank b => some ((c.popMatrix core).setBank core k.toNat b)
    | .bld k _ _ _, _ => some ((c.popMatrix core).setBank core k.toNat Bank.empty)
    | _, _ => none

/-- A codebook load completes (R201). -/
def Chip.completeCbl (c : Chip) (core : Nat) : Option Chip :=
  (c.matrixHead core).bind fun e =>
    match e.word, e.load with
    | .cbl t _ _, .table xs =>
      some ((c.popMatrix core).modCrucible core fun x =>
        { x with tables := xs.zipIdx.foldl (fun m v => Sparse.set ⟨0, false⟩ m (t.toNat * 16 + v.2) v.1) x.tables })
    | _, _ => none

/-- Drained values reach their registers (R204). -/
def Chip.deliverDrain (c : Chip) (core : Nat) : Option Chip :=
  (c.matrixReads core).bind fun e =>
    match e.word with
    | .drn _ a w g _ =>
      let x := c.crucible core
      some (e.lanes.lanes.foldl (fun c l => c.deliverMatrix e .drain l (x.drained a.toNat g.toNat (w == 1) l))
        (c.popMatrix core))
    | _ => none

/-- The `mstat` value is delivered (R208). -/
def Chip.deliverMstat (c : Chip) (core : Nat) : Option Chip :=
  (c.matrixReads core).bind fun e =>
    match e.word with
    | .mstat _ b _ =>
      let v := (c.crucible core).status b.toNat e.sample
      some (e.lanes.lanes.foldl (fun c l => c.deliverMatrix e .mstat l [⟨v, false⟩]) (c.popMatrix core))
    | _ => none

/-! ## Meanings -/

/-- `bld` (R200). -/
def execBld (k : Reg) (a : Reg) (b : Reg) (s : Stall) (σ : State) : Host.Outcome State Fault Refusal :=
  issueMatrix (.bld k a b s) (bldOp (.bld k a b s)) σ

/-- `cbl` (R201). -/
def execCbl (t : Reg) (a : Reg) (s : Stall) (σ : State) : Host.Outcome State Fault Refusal :=
  issueMatrix (.cbl t a s) (cblOp (.cbl t a s)) σ

/-- `mma` (R202). -/
def execMma (d : Reg) (a : Reg) (b : Reg) (s : Stall) (σ : State) : Host.Outcome State Fault Refusal :=
  issueMatrix (.mma d a b s) (productOp (.mma d a b s)) σ

/-- `mmab` (R203). -/
def execMmab (d : Reg) (a : Reg) (b : Reg) (s : Stall) (σ : State) : Host.Outcome State Fault Refusal :=
  issueMatrix (.mmab d a b s) (productOp (.mmab d a b s)) σ

/-- `mmas` (R223). -/
def execMmas (d : Reg) (a : Reg) (b : Reg) (s : Stall) (σ : State) : Host.Outcome State Fault Refusal :=
  issueMatrix (.mmas d a b s) (productOp (.mmas d a b s)) σ

/-- `drn` (R204). -/
def execDrn (d : Reg) (a : Reg) (w : BitVec 1) (g : BitVec 2) (s : Stall) (σ : State) : Host.Outcome State Fault Refusal :=
  issueMatrix (.drn d a w g s) (readingOp (.drn d a w g s) .drain (regs d (if w = 1 then 16 else 8))) σ

/-- `acz` (R205). -/
def execAcz (d : Reg) (p : BitVec 1) (s : Stall) (σ : State) : Host.Outcome State Fault Refusal :=
  issueMatrix (.acz d p s) (movingOp (.acz d p s) []) σ

/-- `acl` (R204). -/
def execAcl (d : Reg) (a : Reg) (w : BitVec 1) (g : BitVec 2) (s : Stall) (σ : State) : Host.Outcome State Fault Refusal :=
  issueMatrix (.acl d a w g s) (movingOp (.acl d a w g s) (regs a (if w = 1 then 16 else 8))) σ

/-- `rqt` (R206). -/
def execRqt (d : Reg) (a : Reg) (b : Reg) (s : Stall) (σ : State) : Host.Outcome State Fault Refusal :=
  issueMatrix (.rqt d a b s) (rqtOp (.rqt d a b s)) σ

/-- `mstat` (R208). -/
def execMstat (d : Reg) (b : Reg) (s : Stall) (σ : State) : Host.Outcome State Fault Refusal :=
  issueMatrix (.mstat d b s) (readingOp (.mstat d b s) .mstat [d]) σ

/-- MATRIX_PRODUCT_START (R187). -/
def execMatrixProductStart (core : Nat) (σ : State) : Host.Outcome State Fault Refusal := chipEvent (fun c => c.startMatrix core) σ

/-- NARROW_PRODUCT_COMPLETE (R195). -/
def execNarrowProductComplete (core : Nat) (σ : State) : Host.Outcome State Fault Refusal := chipEvent (fun c => c.completeNarrow core) σ

/-- SLICED_PASS_COMPLETE (R219). -/
def execSlicedPassComplete (core : Nat) (σ : State) : Host.Outcome State Fault Refusal := chipEvent (fun c => c.completePass core) σ

/-- BLD_COMPLETE (R200). -/
def execBldComplete (core : Nat) (σ : State) : Host.Outcome State Fault Refusal := chipEvent (fun c => c.completeBld core) σ

/-- CBL_COMPLETE (R201). -/
def execCblComplete (core : Nat) (σ : State) : Host.Outcome State Fault Refusal := chipEvent (fun c => c.completeCbl core) σ

/-- DRAIN_RESULT_DELIVER (R204). -/
def execDrainResultDeliver (core : Nat) (σ : State) : Host.Outcome State Fault Refusal := chipEvent (fun c => c.deliverDrain core) σ

/-- MSTAT_RESULT_DELIVER (R208). -/
def execMstatResultDeliver (core : Nat) (σ : State) : Host.Outcome State Fault Refusal := chipEvent (fun c => c.deliverMstat core) σ

end Sys2Proof.Machine
end

