-- ==== Sys2Proof/Machine/Sys.lean ====
section
/-!
DEFINITION. Special registers, time, the top-down counters and markers: 0xE0 to 0xE4 (R63, R375 to R379).
-/

namespace Sys2Proof.Machine

/-! ## Special registers -/

/-- The entries of R63, by selector. -/
inductive SpecialReg where
  | lane | lid (k : Nat) | wf (k : Nat) | role | core | ncores | wbase | alloc
  | gpc | gcb | htb | gop | glen | gmode
  | frm | fflags
  /-- Low (0) and high (1) halves of the warp's masks. -/
  | memb (k : Nat) | fmask (k : Nat) | entries | mthr | gang (k : Nat)
  | absent | draw | fsm | pgen
  deriving DecidableEq, Repr

/-- The entry a selector names, if R63 lists it. -/
def SpecialReg.of (sel : Nat) : Option SpecialReg :=
  match sel with
  | 0x00 => some .lane
  | 0x01 => some (.lid 0)
  | 0x02 => some (.lid 1)
  | 0x03 => some (.wf 0)
  | 0x04 => some (.wf 1)
  | 0x05 => some (.wf 2)
  | 0x06 => some (.wf 3)
  | 0x07 => some (.wf 4)
  | 0x08 => some (.wf 5)
  | 0x09 => some .role
  | 0x0A => some .core
  | 0x0B => some .ncores
  | 0x0C => some .wbase
  | 0x0D => some .alloc
  | 0x10 => some .gpc
  | 0x11 => some .gcb
  | 0x12 => some .htb
  | 0x13 => some .gop
  | 0x14 => some .glen
  | 0x15 => some .gmode
  | 0x18 => some .frm
  | 0x19 => some .fflags
  | 0x1A => some (.memb 0)
  | 0x1B => some (.memb 1)
  | 0x1C => some (.fmask 0)
  | 0x1D => some (.fmask 1)
  | 0x1E => some .entries
  | 0x1F => some .mthr
  | 0x20 => some (.gang 0)
  | 0x21 => some (.gang 1)
  | 0x22 => some .absent
  | 0x30 => some .draw
  | 0x38 => some .fsm
  | 0x39 => some .pgen
  | _ => none

/-- The entry can be written (R57, R63). -/
def SpecialReg.writable : SpecialReg → Bool
  | .gpc | .gcb | .htb | .gmode | .frm | .fflags | .memb _ | .mthr => true
  | _ => false

/-- A half of a 64-bit value. -/
def halfOf (v : Dword) (k : Nat) : Word := if k = 0 then loHalf v else hiHalf v
/-- A 64-bit value with one half replaced. -/
def withHalf (v : Dword) (k : Nat) (x : Word) : Dword := if k = 0 then pairOf x (hiHalf v) else pairOf (loHalf v) x

/-- The value of a work-identifier field (R55, R63); 0 for an undeclared field. -/
def fieldValue : List (Nat × Nat) → Nat → Nat → Word
  | [], _, _ => 0
  | (w, _) :: _, 0, wid => BitVec.ofNat 32 (wid % 2 ^ w)
  | (w, _) :: r, k + 1, wid => fieldValue r k (wid / 2 ^ w)

/-- What `srd` gives a lane (R375, R63). -/
def SpecialReg.read (r : SpecialReg) (c : Chip) (wp : Warp) (run : Run) (l : Nat) (t : Thread) : Word :=
  let n := c.launch wp.launch
  match r with
  | .lane => BitVec.ofNat 32 l
  | .lid k => halfOf t.wid k
  | .wf k => fieldValue n.header.fields k t.wid.toNat
  | .role => BitVec.ofNat 32 wp.role
  | .core => BitVec.ofNat 32 wp.core
  | .ncores => BitVec.ofNat 32 (8 * ((List.range 24).filter n.header.cmask.getLsbD).length)
  | .wbase => BitVec.ofNat 32 (if wp.alloc = 0 then 0 else t.base % wp.alloc)
  | .alloc => BitVec.ofNat 32 wp.alloc
  | .gpc => t.gpc
  | .gcb => t.gcb
  | .htb => t.htb
  | .gop => t.gop.setWidth 32
  | .glen => t.glen.setWidth 32
  | .gmode => t.gmode.setWidth 32
  | .frm => t.frm.setWidth 32
  | .fflags => t.fflags.setWidth 32
  | .memb k => halfOf wp.memb k
  | .fmask k => halfOf wp.fmask k
  | .entries => wp.entries
  | .mthr => BitVec.ofNat 32 wp.mthr
  | .gang k => halfOf run.lanes k
  | .absent => t.absent.setWidth 32
  | .draw => BitVec.ofNat 32 wp.draw
  | .fsm => (if wp.stallchk then 1 else 0) ||| (if n.replayable then 2 else 0) ||| 0x10
  | .pgen => BitVec.ofNat 32 (65536 * run.bank + run.gen % 65536)

/-- A thread's own entry written (R57). -/
def SpecialReg.writeThread (r : SpecialReg) (t : Thread) (v : Word) : Thread :=
  match r with
  | .gpc => { t with gpc := v }
  | .gcb => { t with gcb := v }
  | .htb => { t with htb := v &&& ~~~(7#32) }
  | .gmode => { t with gmode := v.extractLsb' 0 2 }
  | .frm => { t with frm := v.extractLsb' 0 2 }
  | .fflags => { t with fflags := v.extractLsb' 0 5 }
  | _ => t

/-- A warp's entry written; lane slots that do not exist keep their bits 0 (R375). -/
def SpecialReg.writeWarp (r : SpecialReg) (wp : Warp) (v : Word) : Warp :=
  match r with
  | .memb k => { wp with memb := withHalf wp.memb k v &&& maskOf (List.range wp.lanes) }
  | .mthr => { wp with mthr := min v.toNat 64 }
  | _ => wp

/-- The selector names no entry (R375). -/
def badSelector (b : Reg) : UseCheck := fun _ _ _ => (SpecialReg.of b.toNat).isNone

/-- `srd` (R375). -/
def srdOp (d b : Reg) : Body := fun w rid c =>
  match SpecialReg.of b.toNat with
  | some r => c.lanesDo w rid fun wp run l t => wp.write run t d ⟨r.read c wp run l t, false⟩
  | none => c

/-- The selector names no entry that can be written, or `gmode` would take its reserved value (R57, R375). -/
def badWrite (a b : Reg) : UseCheck := fun w rid c =>
  match SpecialReg.of b.toNat with
  | none => true
  | some r =>
    let wp := c.warp w
    let run := wp.run rid
    !r.writable ||
      (r == .gmode && (wp.active run).any fun l =>
        let x := wp.read run (wp.thread l) a
        !x.p && x.v.extractLsb' 0 2 == 3)

/-- `swr` (R375). A lane whose value is poisoned is killed first (R65); a write of `memb` or `mthr` takes the value of the
lowest lane that is left (log entry 105). -/
def swrOp (a b : Reg) : Body := fun w rid c =>
  let c := c.lanesFault w rid fun wp run _ t => poisonStop wp run t a 8
  match SpecialReg.of b.toNat with
  | none => c
  | some r =>
    let c := c.lanesDo w rid fun wp run _ t => r.writeThread t (wp.read run t a).v
    c.modWarp w fun wp =>
      let run := wp.run rid
      match (wp.active run).head? with
      | some l => r.writeWarp wp (wp.read run (wp.thread l) a).v
      | none => wp

/-! ## The top-down tree -/

/-- A leaf of a port; leaf 15 is every cycle counted to the others (R379). -/
def Core.leaf (k : Core) (port leaf : Nat) : Nat :=
  let g (n : Nat) := Sparse.get 0 k.leaves (leafKey port n)
  if leaf = 15 then (g 0 + g 1) / 32 + ((List.range 12).map fun i => g (i + 2)).foldl (· + ·) 0 else g leaf

/-- The counter a selector value names, 0 outside the table (R376, R379). -/
def Core.counter (k : Core) (a : Word) : Dword :=
  let leaf := (a.extractLsb' 0 4).toNat
  let port := (a.extractLsb' 4 2).toNat
  if a.extractLsb' 7 25 != 0 then 0
  else if a.getLsbD 6 then
    if port != 0 then 0 else BitVec.ofNat 64 (((List.range 4).map fun p => k.leaf p leaf).foldl (· + ·) 0)
  else BitVec.ofNat 64 (k.leaf port leaf)

/-- A pair that arrives later with one poison bit (R89, R376). -/
def Thread.awaitPair (t : Thread) (wp : Warp) (run : Run) (d : Reg) (v : Dword) (p : Bool) : Thread :=
  t.await .clock [(wp.cellIn run t d, ⟨loHalf v, p⟩), (wp.cellIn run t (d + 1), ⟨hiHalf v, p⟩)] 0

/-- `pcrd` (R376, R379). -/
def pcrdOp (d a : Reg) : Body := fun w rid c =>
  let core := (c.warp w).core
  let k := c.core core
  c.lanesDo w rid fun wp run _ t =>
    let x := wp.read run t a
    t.awaitPair wp run d (k.counter x.v) x.p

/-- `time` (R376). -/
def timeOp (d : Reg) : Body := fun w rid c =>
  let v : Dword := BitVec.ofNat 64 c.ns
  c.lanesDo w rid fun wp run _ t => t.awaitPair wp run d v false

/-- `tmrk` (R377). -/
def tmrkOp (i : Imm14) : Body := fun w rid c =>
  let wp := c.warp w
  let run := wp.run rid
  if (c.context wp.context).trace.getLsbD 0 then
    { c with traceOut := c.traceOut ++ (wp.active run).map fun l =>
        let t := wp.thread l
        (wp.context, c.traceRecord wp.context 0 1 (c.launch wp.launch).ident.toNat t.wid run.npc t.gpc
          (i.setWidth 64) 0 0) }
  else c

/-! ## Meanings -/

/-- `srd` (R375). -/
def execSrd (d : Reg) (b : Reg) (s : Stall) (σ : State) : Host.Outcome State Fault Refusal :=
  issueIf (.srd d b s) (badSelector b) (srdOp d b) σ

/-- `swr` (R375). -/
def execSwr (a : Reg) (b : Reg) (s : Stall) (σ : State) : Host.Outcome State Fault Refusal :=
  issueIf (.swr a b s) (badWrite a b) (swrOp a b) σ

/-- `pcrd` (R376). -/
def execPcrd (d : Reg) (a : Reg) (s : Stall) (σ : State) : Host.Outcome State Fault Refusal :=
  issue (.pcrd d a s) (pcrdOp d a) σ

/-- `tmrk` (R377). -/
def execTmrk (i : Imm14) (s : Stall) (σ : State) : Host.Outcome State Fault Refusal :=
  issue (.tmrk i s) (tmrkOp i) σ

/-- `time` (R376). -/
def execTime (d : Reg) (s : Stall) (σ : State) : Host.Outcome State Fault Refusal :=
  issue (.time d s) (timeOp d) σ

end Sys2Proof.Machine
end

