-- ==== Sys2Proof/Machine/WarpWide.lean ====
section
/-!
DEFINITION. Warp-wide words, 0xA0 to 0xAF (R163 to R184): collectives and their delivery, group-local words, streams,
queue registers, explicit spill and fill.
-/

namespace Sys2Proof.Machine

/-! ## Collectives -/

/-- The opcode of a collective word (R164). -/
def collCode : Instr → Nat
  | .vote _ _ _ _ => 0xA0
  | .shfi _ _ _ _ => 0xA1
  | .shfu _ _ _ _ => 0xA2
  | .shfd _ _ _ _ => 0xA3
  | .shfx _ _ _ _ => 0xA4
  | .redf _ _ _ _ => 0xA5
  | .redi _ _ _ _ => 0xA6
  | .scni _ _ _ _ _ => 0xA7
  | .matchw _ _ _ => 0xA8
  | _ => 0

/-- A group issues a collective word (R164, R165): its lanes contribute to the open instance at this PC, or open one,
and its next run waits for the delivery. -/
def collOp (i : Instr) (a : Reg) (b : Option Reg) (dest : List Reg) : Body := fun w rid c =>
  let wp := c.warp w
  let run := wp.run rid
  let ls := wp.active run
  let given := ls.map fun l =>
    let t := wp.thread l
    (l, (⟨wp.read run t a, (b.map (wp.read run t)).getD ⟨0, false⟩⟩ : Contribution))
  let dests := ls.map fun l => (l, dest.map (wp.cellIn run (wp.thread l)))
  let m := maskOf ls
  let open' := wp.colls.find? fun x => x.pc == run.pc && collCode x.word == collCode i && x.issued &&& m == 0
  let (n, c) := match open' with
    | some x => (x.num, c)
    | none => c.fresh
  c.modWarp w fun wp =>
    let colls := match open' with
      | some x => wp.colls.map fun y => if y.num = x.num then
          { y with issued := y.issued ||| m, given := y.given ++ given, dest := y.dest ++ dests } else y
      | none => wp.colls ++ [⟨n, run.pc, run.raw, i, wp.memb, m, given, dests⟩]
    { wp with
      colls := colls
      runs := Sparse.modify wp.runs rid fun r => { r with
        waits := .collective n :: r.waits
        collCells := (dests.flatMap fun x => x.2.map (collKey x.1)) ++ r.collCells } }

/-- The live members of an instance (R163), ascending. A member whose slot holds no thread counts as one that is absent (log
entry 116). -/
def Coll.live (x : Coll) (wp : Warp) : List Nat :=
  (x.members &&& maskOf (List.range wp.lanes)).lanes.filter fun l => (wp.thread l).live

/-- Every live member has issued (R164). -/
def Coll.complete (x : Coll) (wp : Warp) : Bool := (x.live wp).all x.issued.getLsbD

/-- What a collective gives one issuing lane: values for its destinations, flags, and the bit of `absent` it writes
(R167). -/
structure CollResult where
  vals : List Val
  flags : Flags
  absentBit : Nat
  absent : Bool
  deriving DecidableEq, Repr

/-- The operations of `redi` and `scni` with their identities (R171). -/
def redOp (mode : Nat) : Word → Word → Word :=
  match mode with
  | 0 => (· + ·)
  | 1 => (· &&& ·)
  | 2 => (· ||| ·)
  | 3 => (· ^^^ ·)
  | 4 => minsW
  | _ => maxsW
def redIdentity (mode : Nat) : Word :=
  match mode with
  | 1 => 0xFFFFFFFF
  | 4 => 0x7FFFFFFF
  | 5 => 0x80000000
  | _ => 0

/-- One level of the tree of R170: values and flags. -/
def treeLevel (op : Nat → Nat → Nat × Flags) : List Nat → List Nat × Flags
  | x :: y :: r =>
    let v := op x y
    let u := treeLevel op r
    (v.1 :: u.1, v.2 ||| u.2)
  | xs => (xs, noFlags)

/-- The levels of the tree, with the union of the flags. -/
def tree (op : Nat → Nat → Nat × Flags) : Nat → List Nat → Nat × Flags
  | 0, xs => (xs.headD 0, noFlags)
  | k + 1, xs =>
    let u := treeLevel op xs
    let v := tree op k u.1
    (v.1, u.2 ||| v.2)

/-- The node operation of `redf`, and its identity (R170). -/
def redfOp (mode : Nat) (x y : Nat) : Nat × Flags :=
  if mode = 0 then addF f32 .rne [x, y] else fminmax f32 (mode == 1) x y
def redfIdentity (mode : Nat) : Nat := if mode = 0 then 0x80000000 else 0x7FC00000

/-- The contribution of a lane. -/
def Coll.a (x : Coll) (l : Nat) : Val := (Sparse.get ⟨⟨0, false⟩, ⟨0, false⟩⟩ x.given l).a
def Coll.b (x : Coll) (l : Nat) : Val := (Sparse.get ⟨⟨0, false⟩, ⟨0, false⟩⟩ x.given l).b

/-- The source slot of a shuffle's lane, or none when it takes its own value (R169). -/
def shuffleSource (i : Instr) (lanes l : Nat) (b : Word) : Option Nat :=
  match i with
  | .shfi _ _ _ _ => some (b.extractLsb' 0 6).toNat
  | .shfu _ _ n _ => if l < n.toNat then none else some (l - n.toNat)
  | .shfd _ _ n _ => if lanes ≤ l + n.toNat then none else some (l + n.toNat)
  | .shfx _ _ n _ => some (l ^^^ n.toNat)
  | _ => none

/-- What an issuing lane receives (R168 to R173). -/
def Coll.result (x : Coll) (wp : Warp) (l : Nat) : CollResult :=
  let live := x.live wp
  let members := (x.members &&& maskOf (List.range wp.lanes)).lanes
  let missing := decide (live.length < members.length)
  let poison := live.any fun k => (x.a k).p
  let one (v : Word) (p : Bool) : CollResult := ⟨[⟨v, p⟩], noFlags, 1, missing⟩
  let pair (v : Dword) (p : Bool) : CollResult := ⟨[⟨loHalf v, p⟩, ⟨hiHalf v, p⟩], noFlags, 1, missing⟩
  let yes := live.filter fun k => (x.a k).v != 0
  match x.word with
  | .vote _ _ m _ =>
    if m = 0 then one (flag (yes.length == members.length)) poison
    else if m = 1 then one (flag (!yes.isEmpty)) poison
    else if m = 2 then pair (maskOf yes) poison
    else if m = 3 then one (BitVec.ofNat 32 yes.length) poison
    else one (flag (!missing && live.all fun k => live.all fun j => (x.a k).v == (x.a j).v)) poison
  | .redf _ _ m _ =>
    let leaf (k : Nat) := if live.contains k then (x.a k).v.toNat else redfIdentity m.toNat
    let r := tree (redfOp m.toNat) 6 ((List.range 64).map leaf)
    ⟨[⟨BitVec.ofNat 32 r.1, poison⟩], r.2, 1, missing⟩
  | .redi _ _ m _ =>
    one (live.foldl (fun v k => redOp m.toNat v (x.a k).v) (redIdentity m.toNat)) poison
  | .scni _ _ e o _ =>
    let upTo := live.filter fun k => decide (k < l) || (k == l && e == 0)
    one (upTo.foldl (fun v k => redOp o.toNat v (x.a k).v) (redIdentity o.toNat)) (upTo.any fun k => (x.a k).p)
  | .matchw _ _ _ =>
    pair (maskOf (live.filter fun k => (x.a k).v == (x.a l).v)) (poison || (x.a l).p)
  | i =>
    match shuffleSource i wp.lanes l (x.b l).v with
    | none => ⟨[x.a l], noFlags, 0, false⟩
    | some s =>
      if live.contains s then ⟨[⟨(x.a s).v, (x.a s).p || (x.b l).p⟩], noFlags, 0, false⟩
      else ⟨[⟨0, (x.b l).p⟩], noFlags, 0, true⟩

/-- A bit of a two-bit register set or cleared. -/
def setBit2 (v : BitVec 2) (k : Nat) (b : Bool) : BitVec 2 := if b then v ||| (1#2 <<< k) else v &&& ~~~(1#2 <<< k)

/-- A lane's result of an instance lands: registers, flags and `absent` (R165, R167). -/
def Chip.collDeliver (c : Chip) (w : Nat) (x : Coll) (l : Nat) (r : CollResult) : Chip :=
  if !((c.warp w).thread l).live then c
  else
    let c := c.landCells w l ((Sparse.get [] x.dest l).zip r.vals)
    c.modWarp w fun wp => wp.modThread l fun t =>
      { t with fflags := t.fflags ||| r.flags, absent := setBit2 t.absent r.absentBit r.absent }

/-- Completes an instance: every issuing lane receives its result in the same cycle, and the lanes go on together once
they are all past their trailers (R164). All results are read from the warp as it stands at completion. -/
def Chip.completeColl (c : Chip) (w : Nat) (x : Coll) : Chip :=
  let wp := c.warp w
  let rs := x.issued.lanes.map fun l => (l, x.result wp l)
  let c := rs.foldl (fun c r => c.collDeliver w x r.1 r.2) c
  c.modWarp w fun wp => Warp.settleColls { wp with
    colls := wp.colls.filter fun y => y.num != x.num, delivered := wp.delivered ++ [(x.num, x.issued)] }

/-! ## Group-local words -/

/-- `elect` (R174). -/
def electOp (d : Reg) : Body := fun w rid c =>
  c.lanesDo w rid fun wp run l t => wp.write run t d ⟨flag ((wp.active run).headD 64 == l), false⟩

/-- `qswz` (R175). -/
def qswzOp (d a b : Reg) : Body := fun w rid c =>
  c.lanesDo w rid fun wp run l t =>
    let y := wp.read run t b
    let s := 4 * (l / 4) + (y.v.extractLsb' 0 2).toNat
    if (wp.active run).contains s then
      let x := wp.read run (wp.thread s) a
      { wp.write run t d ⟨x.v, x.p || y.p⟩ with absent := setBit2 t.absent 0 false }
    else { wp.write run t d ⟨0, y.p⟩ with absent := setBit2 t.absent 0 true }

/-! ## Streams and queues -/

/-- The lane whose descriptor `sbind` takes: the lowest one that poison does not kill (R177, R65). -/
def bindingLane (wp : Warp) (run : Run) (a : Reg) : Option Nat :=
  (wp.active run).find? fun l => !((regs a 4).any fun r => (wp.read run (wp.thread l) r).p)

/-- A descriptor with an illegal value, or a base whose window disagrees with its space (R176). -/
def badDescriptor (base count ctl : Word) : Bool :=
  count == 0 || ctl.extractLsb' 7 25 != 0 || ctl.extractLsb' 2 2 != 0 || ctl.extractLsb' 0 2 == 3 ||
    (if ctl.getLsbD 6 then windowOf base != 15 else decide (14 ≤ windowOf base))

/-- The slot is bound to another stream or to a queue, or to another queue or to a stream (R177, R180). -/
def Warp.slotTaken (wp : Warp) (slot : Nat) (stream queue : Option Nat) : Bool :=
  (wp.streams.any fun e => e.2.slot == slot && stream != some e.1) ||
    (wp.queues.any fun e => e.2.slot == some slot && queue != some e.1)

/-- Illegal uses of `sbind` (R176, R177). -/
def badBind (n a b : Reg) : UseCheck := fun w rid c =>
  let wp := c.warp w
  let run := wp.run rid
  if b = 127 then (Sparse.find wp.streams n.toNat).isNone
  else
    wp.slotTaken b.toNat (some n.toNat) none ||
      match bindingLane wp run a with
      | none => false
      | some l =>
        let r (k : Nat) := (wp.read run (wp.thread l) (Reg.plus a k)).v
        badDescriptor (r 0) (r 2) (r 3)

/-- `sbind` (R177): lanes below the one that gives the descriptor hold a poisoned one and are killed with cause 5. -/
def sbindOp (n a b : Reg) : Body := fun w rid c =>
  let k := n.toNat
  if b = 127 then c.modWarp w fun wp => { wp with streams := Sparse.erase wp.streams k }
  else
    let from' := bindingLane (c.warp w) ((c.warp w).run rid) a
    let values := from'.map fun l =>
      let wp := c.warp w
      fun (j : Nat) => (wp.read (wp.run rid) (wp.thread l) (Reg.plus a j)).v
    let c := c.lanesFault w rid fun _ _ l _ =>
      if decide (l < from'.getD 64) then some (Stop.of 5) else none
    match values with
    | none => c
    | some r =>
      let (m, c) := c.fresh
      c.modWarp w fun wp =>
        let wp := wp.mapLanes (List.range wp.lanes) fun _ t =>
          { t with spos := Sparse.put t.spos k 0, selem := Sparse.erase t.selem k }
        { wp with streams := Sparse.put wp.streams k ⟨b.toNat, r 0, r 1, (r 2).toNat, r 3, m⟩ }

/-- `spos` of a stream that is not bound (R179). -/
def unboundStream (n : BitVec 3) : UseCheck := fun w _ c => (Sparse.find (c.warp w).streams n.toNat).isNone

/-- `spos` (R179). Elements read ahead for the old position are dropped when the position is set (R178). -/
def sposOp (d a : Reg) (t' : BitVec 1) (n : BitVec 3) : Body := fun w rid c =>
  let k := n.toNat
  let c := if t' = 1 then c.lanesFault w rid fun wp run _ t => poisonStop wp run t a 5 else c
  c.lanesDo w rid fun wp run _ t =>
    let x := (wp.read run t a).v
    let t := wp.write run t d ⟨BitVec.ofNat 32 (Sparse.get 0 t.spos k), false⟩
    if t' = 1 then { t with spos := Sparse.put t.spos k x.toNat, selem := Sparse.erase t.selem k } else t

/-- Illegal uses of `qbind` (R177, R180). -/
def badQueue (q b : Reg) : UseCheck := fun w _ c =>
  let wp := c.warp w
  if b = 127 then (Sparse.get Queue.blank wp.queues q.toNat).slot.isNone
  else wp.slotTaken b.toNat none (some q.toNat)

/-- `qbind` (R180): the FIFO keeps its contents, and each lane its place in it (log entry 117). -/
def qbindOp (q b : Reg) : Body := fun w _ c =>
  c.modWarp w fun wp =>
    let x := Sparse.get Queue.blank wp.queues q.toNat
    { wp with queues := Sparse.put wp.queues q.toNat { x with slot := if b = 127 then none else some b.toNat } }

/-! ## Explicit spill and fill -/

/-- `wspl` would raise the floor above the base (R182). -/
def badSpill (k : Reg) : UseCheck := fun w rid c =>
  let wp := c.warp w
  (wp.active (wp.run rid)).any fun l =>
    let t := wp.thread l
    decide (t.base < t.floor + 8 * spillUnits t k)

/-- `wspl` (R182). -/
def wsplOp (k : Reg) : Body := fun w rid c =>
  let wp := c.warp w
  let run := wp.run rid
  (wp.active run).foldl
    (fun c l => repeatTimes (spillUnits (wp.thread l) k) (fun c => c.spillUnit w l run.npc run.raw) c) c

/-- `wfil` has too few units, or the allotment no room (R182). -/
def badFill (k : Reg) : UseCheck := fun w rid c =>
  let wp := c.warp w
  (wp.active (wp.run rid)).any fun l =>
    let t := wp.thread l
    let n := fillUnits t k
    decide (t.floor < 8 * n ∨ wp.alloc < t.base + window wp.alloc - (t.floor - 8 * n))

/-- `wfil` (R182). -/
def wfilOp (k : Reg) : Body := fun w rid c =>
  let wp := c.warp w
  (wp.active (wp.run rid)).foldl (fun c l => repeatTimes (fillUnits (wp.thread l) k) (fun c => c.fillUnit w l) c) c

/-! ## Meanings -/

/-- `vote` (R168). -/
def execVote (d : Reg) (a : Reg) (m : Reg) (s : Stall) (σ : State) : Host.Outcome State Fault Refusal :=
  issue (.vote d a m s) (collOp (.vote d a m s) a none (regs d (if m = 2 then 2 else 1))) σ

/-- `shfi` (R169). -/
def execShfi (d : Reg) (a : Reg) (b : Reg) (s : Stall) (σ : State) : Host.Outcome State Fault Refusal :=
  issue (.shfi d a b s) (collOp (.shfi d a b s) a (some b) [d]) σ

/-- `shfu` (R169). -/
def execShfu (d : Reg) (a : Reg) (n : Reg) (s : Stall) (σ : State) : Host.Outcome State Fault Refusal :=
  issue (.shfu d a n s) (collOp (.shfu d a n s) a none [d]) σ

/-- `shfd` (R169). -/
def execShfd (d : Reg) (a : Reg) (n : Reg) (s : Stall) (σ : State) : Host.Outcome State Fault Refusal :=
  issue (.shfd d a n s) (collOp (.shfd d a n s) a none [d]) σ

/-- `shfx` (R169). -/
def execShfx (d : Reg) (a : Reg) (n : Reg) (s : Stall) (σ : State) : Host.Outcome State Fault Refusal :=
  issue (.shfx d a n s) (collOp (.shfx d a n s) a none [d]) σ

/-- `redf` (R170). -/
def execRedf (d : Reg) (a : Reg) (m : Reg) (s : Stall) (σ : State) : Host.Outcome State Fault Refusal :=
  issue (.redf d a m s) (collOp (.redf d a m s) a none [d]) σ

/-- `redi` (R171). -/
def execRedi (d : Reg) (a : Reg) (m : Reg) (s : Stall) (σ : State) : Host.Outcome State Fault Refusal :=
  issue (.redi d a m s) (collOp (.redi d a m s) a none [d]) σ

/-- `scni` (R172). -/
def execScni (d : Reg) (a : Reg) (x : BitVec 1) (o : BitVec 3) (s : Stall) (σ : State) : Host.Outcome State Fault Refusal :=
  issue (.scni d a x o s) (collOp (.scni d a x o s) a none [d]) σ

/-- `match` (R173). -/
def execMatchw (d : Reg) (a : Reg) (s : Stall) (σ : State) : Host.Outcome State Fault Refusal :=
  issue (.matchw d a s) (collOp (.matchw d a s) a none (regs d 2)) σ

/-- `elect` (R174). -/
def execElect (d : Reg) (s : Stall) (σ : State) : Host.Outcome State Fault Refusal :=
  issue (.elect d s) (electOp d) σ

/-- `qswz` (R175). -/
def execQswz (d : Reg) (a : Reg) (b : Reg) (s : Stall) (σ : State) : Host.Outcome State Fault Refusal :=
  issue (.qswz d a b s) (qswzOp d a b) σ

/-- `sbind` (R177). -/
def execSbind (n : Reg) (a : Reg) (b : Reg) (s : Stall) (σ : State) : Host.Outcome State Fault Refusal :=
  issueIf (.sbind n a b s) (badBind n a b) (sbindOp n a b) σ

/-- `spos` (R179). -/
def execSpos (d : Reg) (a : Reg) (t : BitVec 1) (n : BitVec 3) (s : Stall) (σ : State) : Host.Outcome State Fault Refusal :=
  issueIf (.spos d a t n s) (unboundStream n) (sposOp d a t n) σ

/-- `qbind` (R180). -/
def execQbind (q : Reg) (b : Reg) (s : Stall) (σ : State) : Host.Outcome State Fault Refusal :=
  issueIf (.qbind q b s) (badQueue q b) (qbindOp q b) σ

/-- `wspl` (R182). -/
def execWspl (k : Reg) (s : Stall) (σ : State) : Host.Outcome State Fault Refusal :=
  issueIf (.wspl k s) (badSpill k) (wsplOp k) σ

/-- `wfil` (R182). -/
def execWfil (k : Reg) (s : Stall) (σ : State) : Host.Outcome State Fault Refusal :=
  issueIf (.wfil k s) (badFill k) (wfilOp k) σ

end Sys2Proof.Machine
end

