-- ==== Sys2Proof/Machine/Deliver.lean ====
section
/-!
DEFINITION. Results that arrive (R153): the events that deliver a pending result, perform a store (R155, R285), read a
parked `spinw` again (R129), bring a stream element (R160) and complete a collective (R165).
-/

namespace Sys2Proof.Machine

/-- Pending result n of a live lane, of a kind that a test picks, reaches its registers and raises its flags. -/
def Chip.deliver (c : Chip) (f : PendKind → Bool) (w l n : Nat) : Option Chip :=
  let t := (c.warp w).thread l
  match t.pend[n]? with
  | none => none
  | some p =>
    if t.live && f p.kind then
      let c := c.modWarp w fun wp => wp.modThread l fun t =>
        { t with pend := t.pend.eraseIdx n, fflags := t.fflags ||| p.flags }
      some (c.landCells w l p.cells)
    else none

/-- A ring result whose slot is known. -/
def ringReady : PendKind → Bool
  | .ring _ known _ _ => known
  | _ => false

/-- The oldest store of a warp's queue, of a kind that a test picks, is performed once its value has come. -/
def Chip.performNext (c : Chip) (kind : StoreKind → Bool) (w : Nat) : Option Chip :=
  match (c.warp w).storeQ.head? with
  | some x => if kind x.kind && x.due.isNone then some (c.performHead w) else none
  | none => none

/-- The address, value, cell and origin of a parked `spinw`. -/
def Thread.spinning (t : Thread) : Option (Word × Word × Nat × Word × Word) :=
  t.waits.findSome? fun x => match x with
    | .spin a v k npc raw => some (a, v, k, npc, raw)
    | _ => none

/-- A lane's `spinw` waits no more: it issues again when its lane comes back to it. -/
def Warp.dropSpin (wp : Warp) (l k : Nat) : Warp :=
  (wp.takeBackCells l [k]).modThread l fun t => { t with waits := t.waits.filter fun z => z.spinCell != some k }

/-- A parked lane's word is read again (R129): a value that differs is written and the lane proceeds. Nothing is read while the
block is stopped or off its core, or an earlier element of the warp is still to come. A violation has the fate of one at
issue (R325). -/
def Chip.reread (c : Chip) (w l : Nat) : Option Chip :=
  let wp := c.warp w
  (wp.thread l).spinning.bind fun (a, v, k, npc, raw) =>
    if wp.offCore || (c.block wp.block).status != .running || wp.owesIn a 4 then none
    else match c.check w .load true (a.toNat % 4 == 0) a 4 with
    | some f =>
      if c.lateWait w [l] raw 1 then none
      else some ((c.modWarp w fun wp => wp.dropSpin l k).lateFault w [l] npc raw (violation f))
    | none =>
      let x := c.loadBytes w a 4
      let y : Word := BitVec.ofNat 32 (numOfBytes x.1)
      if x.2 then some (c.stopThread w l npc raw (Stop.of 6))
      else if y = v then some c
      else
        let c := c.modWarp w fun wp => wp.modThread l fun t =>
          { t with waits := t.waits.filter fun z => z != .spin a v k npc raw, since := c.cycle }
        some (c.landCells w l [(k, ⟨y, false⟩)])

/-- An element of a stream as a register value (R176). -/
def Stream.value (s : Stream) (bytes : List Byte) : Word :=
  if s.ctl.getLsbD 4 && s.esize != 4 then sextBytes s.esize (numOfBytes bytes) else BitVec.ofNat 32 (numOfBytes bytes)

/-- The next element of a lane's load stream arrives (R160, R178), once the lane's `rwait`s are delivered (R288) and no earlier
element of the warp for its bytes is still to come (R285). -/
def Chip.elementArrive (c : Chip) (w l n : Nat) : Option Chip :=
  let wp := c.warp w
  let t := wp.thread l
  match Sparse.find wp.streams n with
  | none => none
  | some s =>
    let p := Sparse.get 0 t.spos n + (Sparse.get [] t.selem n).length
    if !t.live || s.ctl.getLsbD 5 || decide (s.count ≤ p) || (c.elementFault w s l p).isSome || t.acquiring ||
        wp.owesIn (s.addr l p) s.esize then none
    else
      let x := c.loadBytes w (s.addr l p) s.esize
      some (c.modWarp w fun wp => wp.modThread l fun t =>
        { t with selem := Sparse.put t.selem n (Sparse.get [] t.selem n ++ [⟨s.value x.1, x.2⟩]) })

/-- A collective that every live member has issued delivers (R164, R165). -/
def Chip.deliverColl (c : Chip) (w n : Nat) : Option Chip :=
  match (c.warp w).colls.find? fun x => x.num == n with
  | some x => if x.complete (c.warp w) then some (c.completeColl w x) else none
  | none => none

/-- The results of `time` and `pcrd` arrive by this act of the model's own (R376). -/
def Chip.deliverClock (c : Chip) (w l n : Nat) : Option Chip := c.deliver (· == .clock) w l n

/-! ## Meanings -/

/-- LOAD_RESULT_DELIVER (R153). -/
def execLoadResultDeliver (w l n : Nat) (σ : State) : Host.Outcome State Fault Refusal :=
  chipEvent (fun c => c.deliver (· == .load) w l n) σ

/-- STORE_PERFORMED (R155). -/
def execStorePerformed (w : Nat) (σ : State) : Host.Outcome State Fault Refusal :=
  chipEvent (fun c => c.performNext StoreKind.writes w) σ

/-- ATOMIC_RESULT_DELIVER (R228). -/
def execAtomicResultDeliver (w l n : Nat) (σ : State) : Host.Outcome State Fault Refusal :=
  chipEvent (fun c => c.deliver (· == .atomic) w l n) σ

/-- DIVIDE_RESULT_DELIVER (R72). -/
def execDivideResultDeliver (w l n : Nat) (σ : State) : Host.Outcome State Fault Refusal :=
  chipEvent (fun c => c.deliver (· == .divide) w l n) σ

/-- FDIV_RESULT_DELIVER (R97). -/
def execFdivResultDeliver (w l n : Nat) (σ : State) : Host.Outcome State Fault Refusal :=
  chipEvent (fun c => c.deliver (· == .fdiv) w l n) σ

/-- GUEST_LOAD_DELIVER (R134). -/
def execGuestLoadDeliver (w l n : Nat) (σ : State) : Host.Outcome State Fault Refusal :=
  chipEvent (fun c => c.deliver (· == .guest) w l n) σ

/-- RPUT_WRITE_DELIVER (R126). -/
def execRputWriteDeliver (w l n : Nat) (σ : State) : Host.Outcome State Fault Refusal :=
  chipEvent (fun c => c.deliver (· == .rput) w l n) σ

/-- SPINW_REREAD (R129). -/
def execSpinwReread (w l : Nat) (σ : State) : Host.Outcome State Fault Refusal :=
  chipEvent (fun c => c.reread w l) σ

/-- DPOLL_RESULT_DELIVER (R234). -/
def execDpollResultDeliver (w l n : Nat) (σ : State) : Host.Outcome State Fault Refusal :=
  chipEvent (fun c => c.deliver (· == .dpoll) w l n) σ

/-- TGRAB_RESULT_DELIVER (R232). -/
def execTgrabResultDeliver (w l n : Nat) (σ : State) : Host.Outcome State Fault Refusal :=
  chipEvent (fun c => c.deliver (· == .tgrab) w l n) σ

/-- RING_SLOT_DELIVER (R236). -/
def execRingSlotDeliver (w l n : Nat) (σ : State) : Host.Outcome State Fault Refusal :=
  chipEvent (fun c => c.deliver ringReady w l n) σ

/-- STREAM_ELEMENT_ARRIVE (R160). -/
def execStreamElementArrive (w l n : Nat) (σ : State) : Host.Outcome State Fault Refusal :=
  chipEvent (fun c => c.elementArrive w l n) σ

/-- COLLECTIVE_RESULT_DELIVER (R165). -/
def execCollectiveResultDeliver (w n : Nat) (σ : State) : Host.Outcome State Fault Refusal :=
  chipEvent (fun c => c.deliverColl w n) σ

/-- STAGING_REGISTER_WRITE (R238). -/
def execStagingRegisterWrite (w : Nat) (σ : State) : Host.Outcome State Fault Refusal :=
  chipEvent (fun c => c.performNext (· == .staging) w) σ

/-- GO (R238). -/
def execGo (w : Nat) (σ : State) : Host.Outcome State Fault Refusal :=
  chipEvent (fun c => c.performNext (· == .go) w) σ

end Sys2Proof.Machine
end

