-- ==== Sys2Proof/Machine/Rings.lean ====
section
/-!
DEFINITION. Host memory and the rings that live in it (R346, R347), the entries the Ferryman posts to completion rings
(R307, R308, R350, R392), trace rings (R380) and fence notices (R295).
-/

namespace Sys2Proof.Machine

/-! ## Host memory -/

/-- The host address space of a context (R349, R345). -/
def State.asid (s : State) (ctx : Nat) : Nat := if ctx = 0 then s.regBlock.casid else (s.chip.context ctx).asid

/-- Bytes of host memory, an address space's addresses running modulo 2^64. -/
def State.hostRead (s : State) (asid a n : Nat) : List Byte :=
  let m := Sparse.get [] s.host asid
  (List.range n).map fun i => Memory.read m ((a + i) % 2 ^ 64)
def State.hostNum (s : State) (asid a n : Nat) : Nat := numOfBytes (s.hostRead asid a n)

/-- Bytes written to host memory. -/
def State.hostWrite (s : State) (asid a : Nat) (bs : List Byte) : State :=
  { s with host := Sparse.put s.host asid (bs.zipIdx.foldl (fun m x => Memory.write m ((a + x.2) % 2 ^ 64) x.1)
      (Sparse.get [] s.host asid)) }

/-- Changes the chip. -/
def State.onChip (s : State) (f : Chip → Chip) : State := { s with chip := f s.chip }

/-! ## Rings -/

/-- The bytes of a unit of a ring kind (R346). -/
def unitBytes (kind : Nat) : Nat := if kind = 0 ∨ kind = 3 ∨ kind = 5 then 64 else 32

/-- Units in use of a ring, and whether some more fit. -/
def HostRing.used (r : HostRing) : Nat := (r.tail + 2 ^ 32 - r.head) % 2 ^ 32
def HostRing.fits (r : HostRing) (n : Nat) : Bool := decide (r.used + n ≤ 2 ^ r.size)

/-- The address of a unit. -/
def HostRing.unitAddr (r : HostRing) (bytes i : Nat) : Nat := r.base + i % 2 ^ r.size * bytes

/-- A context's ring of a kind. -/
def State.ring (s : State) (ctx kind : Nat) : Option HostRing := Sparse.find (s.chip.context ctx).rings kind
def State.setRing (s : State) (ctx kind : Nat) (r : HostRing) : State :=
  s.onChip fun c => c.modContext ctx fun x => { x with rings := Sparse.put x.rings kind r }

/-- The units of an entry, the last one padded with 0. -/
def unitsOf (bytes : Nat) : Nat → List Byte → List (List Byte)
  | 0, _ => []
  | n + 1, bs => (bs.take bytes ++ List.replicate (bytes - bs.length) 0) :: unitsOf bytes n (bs.drop bytes)

/-- An entry written to a device-produced ring with its new tail at the index word, when the ring is defined, has room and
the Slipway is up (R347, R343). -/
def State.ringPut (s : State) (ctx kind : Nat) (bs : List Byte) : Option State :=
  match s.ring ctx kind with
  | none => none
  | some r =>
    let u := unitBytes kind
    let n := (bs.length + u - 1) / u
    if s.slipwayFenced || !r.fits n then none
    else
      let asid := s.asid ctx
      let s := (unitsOf u n bs).zipIdx.foldl (fun s x => s.hostWrite asid (r.unitAddr u (r.tail + x.2)) x.1) s
      let tail := (r.tail + n) % 2 ^ 32
      some ((s.setRing ctx kind { r with tail := tail }).hostWrite asid r.index (bytesOfNum 4 tail))

/-- The next unit of a host-produced ring, with more units of the same entry behind it (R347). -/
def State.ringPeek (s : State) (ctx kind n : Nat) : Option (Nat × List Byte) :=
  match s.ring ctx kind with
  | none => none
  | some r =>
    if s.slipwayFenced || decide (r.used < n) || n = 0 then none
    else
      let u := unitBytes kind
      some (r.head, (List.range n).flatMap fun i => s.hostRead (s.asid ctx) (r.unitAddr u (r.head + i)) u)

/-- Units of a host-produced ring consumed, with the new head at the index word (R347). -/
def State.ringTake (s : State) (ctx kind n : Nat) : State :=
  match s.ring ctx kind with
  | none => s
  | some r =>
    let head := (r.head + n) % 2 ^ 32
    (s.setRing ctx kind { r with head := head }).hostWrite (s.asid ctx) r.index (bytesOfNum 4 head)

/-! ## Completion entries -/

/-- A launch record is complete: its completion record has been posted (R263, R265). -/
def LaunchQueue.complete (q : LaunchQueue) (seq : Nat) : LaunchQueue :=
  if seq = q.completedBelow then
    let xs := q.completed
    let rec settle : Nat → Nat → Nat
      | 0, k => k
      | n + 1, k => if xs.contains k then settle n (k + 1) else k
    let k := settle (xs.length + 1) (seq + 1)
    { q with completedBelow := k, completed := xs.filter fun x => decide (k ≤ x) }
  else if seq < q.completedBelow then q
  else { q with completed := insertNum seq q.completed }

/-- A record has completed. -/
def LaunchQueue.done (q : LaunchQueue) (seq : Nat) : Bool := decide (seq < q.completedBelow) || q.completed.contains seq

def State.queue (s : State) (q : Nat) : LaunchQueue := Sparse.get LaunchQueue.blank s.queues q
def State.modQueue (s : State) (q : Nat) (f : LaunchQueue → LaunchQueue) : State :=
  { s with queues := Sparse.put s.queues q (f (s.queue q)) }

/-- The generation an activation makes current (R327). -/
def Chip.nextGen (c : Chip) : Nat := (c.gen + 1) % 65536

/-- An activation ends as its completion record is posted (R328, R329): its bank is current, its queue and binding go on. -/
def State.endActivation (s : State) : State :=
  match s.activation with
  | none => s
  | some a =>
    let s := s.onChip fun c => { c with bank := a.bank, gen := c.nextGen }
    { s with activation := none }.modQueue a.queue fun x => { (x.complete a.seq) with heldBy := none }

/-- What follows once an entry is posted. -/
def State.settleDue (s : State) : Option Due → State
  | none => s
  | some (.record q seq) => s.modQueue q fun x => x.complete seq
  | some (.counter b dc) => s.onChip fun c => c.raiseCounter b dc
  | some .activation => s.endActivation

/-- Entries go to their rings in order, each context's as far as its ring has room (R347, R302). -/
def State.flushEntries (s : State) : State :=
  let (s, left) := s.outbox.foldl (fun (acc : State × List OutEntry) e =>
    if acc.2.any fun x => x.context == e.context then (acc.1, acc.2 ++ [e])
    else match acc.1.ringPut e.context 2 e.bytes with
      | none => (acc.1, acc.2 ++ [e])
      | some s => (s.settleDue e.due, acc.2)) ({ s with outbox := [] }, [])
  { s with outbox := left }

/-- An entry for a context's completion ring. -/
def State.postEntry (s : State) (ctx : Nat) (bs : List Byte) (due : Option Due) : State :=
  State.flushEntries { s with outbox := s.outbox ++ [⟨ctx, bs, due⟩] }

/-- Flags of an entry at bits 8 and up of its first word. -/
def entryHead (type flags ctx : Nat) : List Byte := bytesOfNum 1 type ++ bytesOfNum 1 flags ++ bytesOfNum 2 ctx

/-- A bit as a number. -/
def b2n (b : Bool) (k : Nat) : Nat := if b then 2 ^ k else 0

/-- A block completion record (R307). -/
def blockEntry (ctx launch : Nat) (b : Block) (replayed aborted : Bool) : List Byte :=
  let soff := b.soff
  entryHead 1 (b2n b.nonReplayable 0 + b2n aborted 1 + b2n replayed 2) ctx ++ bytesOfNum 4 launch ++
    bytesOfNum 8 b.bwid.toNat ++ bytesOfNum 2 b.exited ++ bytesOfNum 2 soff ++ bytesOfNum 2 b.killed ++
    bytesOfNum 2 b.stops.length ++ bytesOfNum 8 0 ++
    b.stops.flatMap fun x => bytesOfNum 8 x.wid.toNat ++ bytesOfNum 1 x.cause ++ bytesOfNum 1 x.detail ++ bytesOfNum 2 0 ++
      bytesOfNum 4 x.npc.toNat

/-- A launch completion record, or the entry that replaces it (R308). -/
def launchEntry (type ctx launch q seq blocks stopped why : Nat) (x : Context) (replayed aborted : Bool) : List Byte :=
  entryHead type (b2n aborted 0 + b2n replayed 1 + b2n x.stickyIe 2 + b2n x.stickyPe 3) ctx ++ bytesOfNum 4 launch ++
    bytesOfNum 8 (q + seq * 2 ^ 16) ++ bytesOfNum 4 blocks ++ bytesOfNum 4 stopped ++ bytesOfNum 8 why

/-- A type-4 entry: a window is open, or its opening failed (R350). -/
def openEntry (ctx win : Nat) (x : Context) (failed : Bool) : List Byte :=
  entryHead 4 (b2n x.stickyIe 2 + b2n x.stickyPe 3) ctx ++ bytesOfNum 4 (win + b2n failed 8) ++ bytesOfNum 24 0

/-- A type-5 entry: source, reason and index (R350). -/
def refusalEntry (ctx source reason index : Nat) (x : Context) : List Byte :=
  entryHead 5 (b2n x.stickyIe 2 + b2n x.stickyPe 3) ctx ++
    bytesOfNum 4 (index % 2 ^ 24 + reason * 2 ^ 24 + source * 2 ^ 28) ++ bytesOfNum 24 0
def State.refuseEntry (s : State) (ctx source reason index : Nat) : State :=
  s.postEntry ctx (refusalEntry ctx source reason index (s.chip.context ctx)) none

/-- A type-6 entry (R392). -/
def errorEntry (ctx kind launch : Nat) (wid : Dword) (die cluster unit dc : Nat) (pw : Bool) (aux addr : Nat) : List Byte :=
  entryHead 6 kind ctx ++ bytesOfNum 4 launch ++ bytesOfNum 8 wid.toNat ++ bytesOfNum 1 die ++ bytesOfNum 1 cluster ++
    bytesOfNum 1 unit ++ bytesOfNum 1 (dc + b2n pw 6) ++ bytesOfNum 4 aux ++ bytesOfNum 8 addr

/-! ## Trace rings -/

/-- After room frees, one record counts the records dropped (R380). -/
def State.traceNotice (s : State) (ctx : Nat) : State :=
  let x := s.chip.context ctx
  if x.dropped = 0 then s
  else
    match s.ringPut ctx 5 (s.chip.traceRecord ctx 0 15 0 0 0 0 (BitVec.ofNat 64 x.dropped) 0 0) with
    | none => s
    | some s => s.onChip fun c => c.modContext ctx fun x => { x with dropped := 0 }

/-- Trace records go to their rings, or are dropped and counted (R380). -/
def State.flushTrace (s : State) : State :=
  s.chip.traceOut.foldl (fun s x =>
    let s := s.traceNotice x.1
    match (if (s.chip.context x.1).dropped = 0 then s.ringPut x.1 5 x.2 else none) with
    | some s => s
    | none => s.onChip fun c => c.modContext x.1 fun y => { y with dropped := y.dropped + 1 })
    (s.onChip fun c => { c with traceOut := [] })

/-! ## Fence notices -/

/-- The event-10 record of a fenced unit (R295, R301); its core is the fenced one (log entry 48). -/
def fenceRecord (num ctx reason unit die : Nat) : TrapRec where
  num := num
  event := 10
  reason := reason
  context := ctx
  launch := 0
  warp := 0
  die := die
  core := if reason = 0 then unit else 0
  wslot := 0
  npc := 0
  word := 0
  rentry := 0
  entries := 0
  lmask := 0
  wids := []
  info0 := BitVec.ofNat 64 (unit % 256)
  info1 := 0
  info2 := 0
  job := none
  seq := none

/-- A notice for each context with work on the unit, and for context 0 when its trap ring is defined (R295). -/
def Chip.notice (c : Chip) (ctxs : List Nat) (reason unit die : Nat) : Chip :=
  let zero := if (Sparse.find (c.context 0).rings 0).isSome then [0] else []
  ((ctxs ++ zero).eraseDups).foldl (fun c x => c.post (fenceRecord c.next x reason unit die)) c

/-- A unit is fenced: its notices, and an entry of the error log (R295, R302). -/
def State.notify (s : State) (ctxs : List Nat) (reason unit die : Nat) : State :=
  { s with chip := s.chip.notice ctxs reason unit die, errorLog := s.errorLog ++ [.fence reason unit die] }

end Sys2Proof.Machine
end

