-- ==== Sys2Proof/Machine/JobEvents.lean ====
section
/-!
DEFINITION. Jobs at work (R241 to R245): the hazard unit, chunks, translation (R337 to R340), shadow versions (R341),
peers (R387 to R390), completion and stops, the requantising transpose (R207), and the failures of a cluster.
-/

namespace Sys2Proof.Machine

def State.job (s : State) (j : Nat) : Option Job := Sparse.find s.chip.jobs j
def State.modJob (s : State) (j : Nat) (f : Job → Job) : State :=
  s.onChip fun c => { c with jobs := Sparse.modify c.jobs j f }

/-- A job of the Ladle, or of the RQT. -/
def Job.isRqt (j : Job) : Bool :=
  match j.kind with
  | .rqt _ _ _ _ => true
  | .ladle => false

/-- A cluster of the package, 0 to 23. -/
def Job.unit (j : Job) : Nat := j.die * 6 + j.cluster

/-! ## Chunks -/

/-- The chunk a job stands at (R244). -/
def Job.chunkIndex (j : Job) : Nat := j.cursor / 4096

/-- The bytes left of the present chunk. -/
def Job.chunkLeft (j : Job) : Nat := min (4096 - j.cursor % 4096) (j.size - j.cursor)

/-- The address of byte n of a side, n counted over its rows; a ring or a queue side is contiguous (R240). -/
def Job.srcAddr (j : Job) (n : Nat) : Nat := sideByte j.jc0 j.sstr (n / j.rowb) (n % j.rowb)
def Job.dstAddr (j : Job) (n : Nat) : Nat := sideByte j.jc1 j.dstr (n / j.rowb) (n % j.rowb)

/-- The first byte of a ring job's claimed slot. -/
def State.slotBase (s : State) (j : Job) : Nat :=
  ((Sparse.get Ring.blank (s.chip.block j.block).rings (sideRing j.jc1)).slotAddr (j.claim.getD 0)).toNat

/-- The first entry of a queue register whose value is still to come. -/
def Queue.firstDue (x : Queue) : Nat := (x.due.map fun e => e.2.2).foldl min (x.first + x.fifo.length)

/-- Entries of a store queue that every live lane has pushed, none of them still to come, and free entries of a load queue, those that every live lane
has popped among them (R180). -/
def Warp.drainable (wp : Warp) (q : Nat) : Nat :=
  let x := Sparse.get Queue.blank wp.queues q
  wp.liveLanes.foldl (fun n l => min n (Sparse.get x.first (wp.thread l).qptr q - x.first)) (min x.fifo.length (x.firstDue - x.first))
def Warp.fillable (wp : Warp) (q : Nat) : Nat := 16 - (Sparse.get Queue.blank wp.freeEntries.queues q).fifo.length

/-- The bytes a job can move now: what is left of its chunk, in whole entries of a queue side as they are available; a chunk
that a peer did not take is sent again (R387). -/
def State.movable (s : State) (j : Job) : Nat :=
  let wp := s.chip.warp j.warp
  if !j.chunk.isEmpty then j.chunk.length else
  let n := if sideSpace j.jc0 = 5 then min j.chunkLeft (256 * wp.drainable (sideQueue j.jc0)) else j.chunkLeft
  if sideSpace j.jc1 = 5 then min n (256 * wp.fillable (sideQueue j.jc1)) else n

/-! ## Translation -/

/-- Installed main memory (R336). -/
def installed : Nat := 0x3000000000

/-- What a walk finds (R337). -/
inductive Walk where
  | page (phys : Nat) (read write : Bool)
  | fault
  | malformed (poison : Bool)
  deriving DecidableEq, Repr

/-- Index bits of a level and the bytes a leaf there maps. -/
def levelIndex (level va : Nat) : Nat := if level = 0 then va / 2 ^ 16 % 32 else va / 2 ^ (12 + 9 * level) % 512
def leafBytes (level : Nat) : Nat := if level = 0 then 2 ^ 16 else 2 ^ (12 + 9 * level)

/-- One level of a walk from a node, then those below it (R337; log entry 17). -/
def State.walkFrom (s : State) (va : Nat) (needR needW : Bool) : Nat → Nat → Bool → Bool → Walk
  | level, node, r, w =>
    let a := node + 8 * levelIndex level va
    let e := BitVec.ofNat 64 (Memory.num s.main.bytes a 8)
    let addr := (e.extractLsb' 8 40).toNat * 256
    let leaf := e.getLsbD 1
    let r := r && e.getLsbD 2
    let w := w && e.getLsbD 3
    let align := if leaf then leafBytes level else if level = 1 then 256 else 4096
    if installed ≤ a then .malformed false
    else if s.main.poisoned a then .malformed true
    else if !e.getLsbD 0 then .fault
    else if e.extractLsb' 48 16 != 0 || e.extractLsb' 4 4 != 0 || decide (installed ≤ addr) ||
        (!(leaf && decide (3 ≤ level)) && addr % align != 0) || (level = 0 && !leaf) then .malformed false
    else if (leaf && decide (3 ≤ level)) || (needR && !r) || (needW && !w) then .fault
    else if leaf then .page (addr / 2 ^ 16 + va % leafBytes level / 2 ^ 16) r w
    else
      match level with
      | 0 => .malformed false
      | k + 1 => s.walkFrom va needR needW k addr r w

/-- A walk of a context's tables; a context with no root has no page. -/
def State.walk (s : State) (ctx va : Nat) (needR needW : Bool) : Walk :=
  let root := (s.chip.context ctx).root
  if root = 0 then .fault else s.walkFrom va needR needW 4 root true true

/-- The cached walk that grants an access, in a Ladle's own cache or its die's (R339). -/
def State.cached (s : State) (unit ctx page : Nat) (needR needW : Bool) : Option TlbEntry :=
  s.tlb.find? fun e => (e.cache == unit || e.cache == 24 + unit / 6) && e.context == ctx && e.page == page &&
    (!needR || e.read) && (!needW || e.write)

/-- Entries a cache holds at most: a Ladle's own, or a die's shared one (R339). -/
def tlbSize (cache : Nat) : Nat := if cache < 24 then 4096 else 65536

/-- An entry goes into a cache. A full one gives up an entry of the machine's choice, none of the pages `keep` (log
entry 101). -/
def State.addTlb (s : State) (keep : List Nat) (x : TlbEntry) : State :=
  let s := { s with tlb := s.tlb.filter fun e => !(e.cache == x.cache && e.context == x.context && e.page == x.page) }
  let own := s.tlb.filter fun e => e.cache == x.cache
  let out := own.filter fun e => !(e.context == x.context && keep.contains e.page)
  if own.length < tlbSize x.cache || out.isEmpty then { s with tlb := s.tlb ++ [x] }
  else
    let (k, c) := s.chip.choose out.length
    { s with chip := c, tlb := s.tlb.filter (fun e => some e != out[k]?) ++ [x] }

/-- The main-memory pages the next n bytes of a job touch, with a first address of each and the access it needs. -/
def Job.pages (j : Job) (n : Nat) : List (Nat × Nat × Bool × Bool) :=
  let of (f : Nat → Nat) (r w : Bool) : List (Nat × Nat × Bool × Bool) :=
    let xs := (List.range n).map fun i => f (j.cursor + i)
    ((xs.map (· / 2 ^ 16)).eraseDups).map fun p => (p, (xs.find? fun a => a / 2 ^ 16 == p).getD 0, r, w)
  (if sideSpace j.jc0 = 1 then of j.srcAddr true false else []) ++
    (if sideSpace j.jc1 = 1 then of j.dstAddr (j.op == 2) true else [])

/-- The first page of a job's next bytes that is not cached. -/
def State.unmapped (s : State) (j : Job) (n : Nat) : Option (Nat × Nat × Bool × Bool) :=
  (j.pages n).find? fun p => (s.cached j.unit j.context p.1 p.2.2.1 p.2.2.2).isNone

/-- The Ladle's own cache holds what its chunk found in the die's (R339). -/
def State.fillTlb (s : State) (j : Job) (n : Nat) : State :=
  let ps := j.pages n
  ps.foldl (fun s p =>
    match s.cached j.unit j.context p.1 p.2.2.1 p.2.2.2 with
    | some e => if e.cache = j.unit then s else s.addTlb (ps.map (·.1)) { e with cache := j.unit }
    | none => s) s

/-- The physical address of a job's access, in the launch's shadow version when the region has one (R341). -/
def State.physical (s : State) (j : Job) (va : Nat) (needR needW : Bool) : Nat :=
  let page := ((s.cached j.unit j.context (va / 2 ^ 16) needR needW).map TlbEntry.phys).getD 0
  (Sparse.get page (s.chip.launch j.launch).shadowMain page) * 2 ^ 16 + va % 2 ^ 16

/-- A record of event 9 for a job (R301, R340). -/
def Chip.jobRecord (c : Chip) (id : Nat) (j : Job) (space addr : Nat) (write : Bool) : TrapRec :=
  let wp := c.warp j.warp
  { fenceRecord c.next j.context 0 0 j.die with
    event := 9, launch := (c.launch j.launch).ident, warp := j.warp
    core := if (Sparse.find c.warps j.warp).isSome then wp.core else 8 * j.unit
    wslot := wp.slot, rentry := j.rentry, entries := wp.entries
    lmask := bit j.lane, wids := [j.wid]
    info0 := BitVec.ofNat 64 (space * 2 ^ 60 + addr)
    info1 := BitVec.ofNat 64 (j.dc + j.chan * 2 ^ 6 + j.op * 2 ^ 10 + b2n write 12)
    info2 := BitVec.ofNat 64 j.chunkIndex, job := some id }

/-- A job parks on a fault at its chunk (R244, R340). Entries that it has taken from a store queue for a peer stay with it (log
entry 103). -/
def State.parkJob (s : State) (id : Nat) (j : Job) (space addr : Nat) (write : Bool) : State :=
  let r := s.chip.jobRecord id j space addr write
  (s.onChip fun c => c.post r).modJob id fun x => { x with status := .parked, fault := some r.num, chunk := if sideSpace j.jc0 = 5 then j.chunk else [] }

/-! ## Ends of jobs -/

/-- The job's claimed slot is committed as it ends; a job still waiting for one gives up its place (R241). -/
def Chip.endClaim (c : Chip) (id : Nat) (j : Job) : Chip :=
  if sideSpace j.jc1 != 4 || j.isRqt then c
  else
    let n := sideRing j.jc1
    let c := c.modRing j.block n fun r =>
      let r := { r with waiters := r.waiters.filter fun x => match x with | .job k _ => k != id | _ => true }
      match j.claim with
      | some k => r.commit k
      | none => r
    c.settleRing j.block n

/-- A job ends (R242, R244): its last trace record, its slot, its done counter. -/
def Chip.endJob (c : Chip) (id : Nat) (j : Job) : Chip :=
  let c := (if j.traced then c else c.jobTrace j 4).jobTrace j 5
  let c := (c.endClaim id j).raiseCounter j.block j.dc
  { c with jobs := Sparse.erase c.jobs id }

/-- The error entry of a job that stops: kinds 2 to 5 (R392). -/
def State.jobEntry (s : State) (j : Job) (kind unit : Nat) (pw : Bool) (aux addr : Nat) (due : Option Due) : State :=
  s.postEntry j.context (errorEntry j.context kind (s.chip.launch j.launch).ident.toNat j.wid j.die j.cluster unit j.dc pw
    aux addr) due

/-- A job stops with an error entry; once that is posted its counter is raised (R244, R245, R391, R392). -/
def State.stopJob (s : State) (id : Nat) (j : Job) (kind unit : Nat) (pw : Bool) (aux addr : Nat) : State :=
  let s := s.onChip fun c =>
    let c := (c.jobTrace j 5).endClaim id j
    { c with jobs := Sparse.erase c.jobs id }
  s.jobEntry j kind unit pw aux addr (some (.counter j.block j.dc))

/-- A fatal fault (R244). -/
def State.fatalJob (s : State) (id : Nat) (j : Job) (space addr : Nat) (pw : Bool) : State :=
  s.stopJob id j 2 0 pw j.chunkIndex (space * 2 ^ 60 + addr)

/-- The space and address of a job's next destination byte, 0 for a side without addresses. -/
def Job.dstPlace (j : Job) : Nat :=
  if sideSpace j.jc1 ≤ 3 then sideSpace j.jc1 * 2 ^ 60 + j.dstAddr j.cursor % 2 ^ 57 else sideSpace j.jc1 * 2 ^ 60

/-- A job stopped by a link's fence (R391). -/
def State.linkStop (s : State) (id : Nat) (j : Job) (link : Nat) : State :=
  s.stopJob id j 5 link false j.chunkIndex j.dstPlace

/-- The live thread of a block with a work identifier: its warp and lane. -/
def Chip.threadOf (c : Chip) (b : Nat) (wid : Dword) : Option (Nat × Nat) :=
  (c.block b).warps.findSome? fun w =>
    ((c.warp w).liveLanes.find? fun l => ((c.warp w).thread l).wid == wid).map fun l => (w, l)

/-- Poison bound off the device stops the job and kills its submitter with cause 7 (R244). Where that thread has stopped already,
nothing more names it (log entry 120). -/
def State.poisonStop (s : State) (id : Nat) (j : Job) : State :=
  s.onChip fun c =>
    let c := (c.jobTrace j 5).endClaim id j
    let c := { (c.raiseCounter j.block j.dc) with jobs := Sparse.erase c.jobs id }
    match c.threadOf j.block j.wid with
    | some (w, l) => c.stopThread w l j.npc 0 (Stop.of 7)
    | none => c

/-! ## Reading and writing sides -/

/-- A byte with its poison. -/
abbrev PByte := Byte × Bool

/-- The main memory of a peer's context, by its key (R387; log entry 34). -/
def peerMemory (peer ctx : Nat) : Nat := peer * 2 ^ 32 + ctx

/-- The memory of the peer context a link is bound to for a context, by its key (R387). -/
def State.peerKey (s : State) (ctx link : Nat) : Option Nat :=
  let t := Sparse.get Towline.untrained s.chip.towlines link
  (Sparse.find t.bound ctx).map (peerMemory t.peer)
def State.peerRam (s : State) (ctx link : Nat) : Ram := (s.peerKey ctx link).elim Ram.empty (Sparse.get Ram.empty s.peers)
/-- A change of a peer's memory. -/
def State.onPeer (s : State) (k : Nat) (f : Ram → Ram) : State :=
  { s with peers := Sparse.put s.peers k (f (Sparse.get Ram.empty s.peers k)) }
def State.setPeer (s : State) (ctx link : Nat) (f : Ram → Ram) : State :=
  match s.peerKey ctx link with
  | none => s
  | some k => s.onPeer k f

/-- A byte of an addressed side. -/
def State.sideRead (s : State) (j : Job) (v : Dword) (a : Nat) (needW : Bool) : PByte :=
  match sideSpace v with
  | 0 => s.chip.readByte j.context j.launch j.block (BitVec.ofNat 32 a)
  | 1 =>
    let p := s.physical j a true needW
    (s.main.bytes.read p, s.main.poisoned p)
  | 2 => ((s.hostRead (s.asid j.context) a 1).headD 0, false)
  | _ => let r := s.peerRam j.context (sideLink v)
    (r.bytes.read a, r.poisoned a)

/-- A byte of an entry of a store queue; a lane that has not pushed the entry gives a free value (R180; log entry 15). -/
def State.queueByte (s : State) (j : Job) (n : Nat) : PByte :=
  let wp := s.chip.warp j.warp
  let q := sideQueue j.jc0
  let x := Sparse.get Queue.blank wp.queues q
  let e := n / 256
  let l := n % 256 / 4
  let v : Val := if Sparse.get x.first (wp.thread l).qptr q ≤ x.first + e then
      ⟨Config.freeWord (s.chip.freeCount + 64 * e + l), false⟩
    else Sparse.get ⟨0, false⟩ (x.fifo.getD e []) l
  ((bytesOfNum 4 v.v.toNat).getD (n % 4) 0, v.p)

/-- The next n source bytes of a job. -/
def State.sourceBytes (s : State) (j : Job) (n : Nat) : List PByte :=
  (List.range n).map fun i =>
    let k := j.cursor + i
    match sideSpace j.jc0 with
    | 5 => s.queueByte j i
    | 6 => ((bytesOfNum 4 (sideAddr' j.jc0)).getD (k % j.rowb % 4) 0, false)
    | _ => s.sideRead j j.jc0 (j.srcAddr k) false
where
  sideAddr' (v : Dword) : Nat := (v.extractLsb' 0 32).toNat

/-- FP32 reduce-add of one element (R241): rounded to nearest even, a canonical NaN, no flags. -/
def reduceAdd (d x : List PByte) : List PByte :=
  let n (b : List PByte) : Nat := numOfBytes (b.map (·.1))
  let p := d.any (·.2) || x.any (·.2)
  (bytesOfNum 4 (addF f32 .rne [n d, n x]).1).map fun b => (b, p)

/-- Elements of four bytes added pairwise. -/
def reduceAll : Nat → List PByte → List PByte → List PByte
  | 0, _, _ => []
  | k + 1, d, x => if x.isEmpty then [] else reduceAdd (d.take 4) (x.take 4) ++ reduceAll k (d.drop 4) (x.drop 4)

/-- Bytes at addresses gathered into pieces within one 8-byte word each, poisoned if any byte of the piece is. -/
def pieces : List (Nat × PByte) → List (Nat × List Byte × Bool)
  | [] => []
  | (a, b, p) :: r =>
    match pieces r with
    | (a', bs, p') :: t => if a' = a + 1 ∧ a' / 8 = a / 8 then (a, b :: bs, p || p') :: t else (a, [b], p) :: (a', bs, p') :: t
    | [] => [(a, [b], p)]

/-- The destination bytes of an addressed side or a ring, at their addresses. -/
def State.placed (s : State) (j : Job) (bs : List PByte) : List (Nat × PByte) :=
  bs.zipIdx.map fun x =>
    let k := j.cursor + x.2
    (if sideSpace j.jc1 = 4 then s.slotBase j + k else j.dstAddr k, x.1)

/-- Entries pushed into a load queue by a job (R180). -/
def pushEntries (q : Queue) (bs : List PByte) : Queue :=
  { q with fifo := q.fifo ++ (List.range (bs.length / 256)).map fun e =>
      (List.range 64).foldl (fun m l =>
        let w := (bs.drop (256 * e + 4 * l)).take 4
        Sparse.set ⟨0, false⟩ m l ⟨BitVec.ofNat 32 (numOfBytes (w.map (·.1))), w.any (·.2)⟩) [] }

/-- Destination bytes written. -/
def State.writeChunk (s : State) (j : Job) (bs : List PByte) : State :=
  match sideSpace j.jc1 with
  | 0 | 4 => s.onChip fun c => (pieces (s.placed j bs)).foldl (fun c x =>
      c.writeLocal j.context j.launch j.block (BitVec.ofNat 32 x.1) x.2.1 x.2.2) c
  | 1 => (pieces (s.placed j bs)).foldl (fun s x =>
      { s with main := s.main.store (s.physical j x.1 (j.op == 2) true) x.2.1 x.2.2 }) s
  | 2 => (pieces (s.placed j bs)).foldl (fun s x => s.hostWrite (s.asid j.context) x.1 x.2.1) s
  | 3 =>
    s.setPeer j.context (sideLink j.jc1) fun r => (pieces (s.placed j bs)).foldl (fun r x => r.store x.1 x.2.1 x.2.2) r
  | _ => s.onChip fun c => c.modWarp j.warp fun wp =>
      let q := sideQueue j.jc1
      let wp := wp.freeEntries
      { wp with queues := Sparse.put wp.queues q (pushEntries (Sparse.get Queue.blank wp.queues q) bs) }

/-- The bytes of a reduce-add: each element is one step on the bytes that stand (R241, R388). -/
def State.addChunk (s : State) (j : Job) (x : List PByte) : State :=
  (List.range (x.length / 4)).foldl (fun s i =>
    let k := { j with cursor := j.cursor + 4 * i }
    let d := (List.range 4).map fun b => s.sideRead k k.jc1 (k.dstAddr (k.cursor + b)) true
    s.writeChunk k (reduceAdd d ((x.drop (4 * i)).take 4))) s

/-- Entries of a store queue that a job reads are taken (R180); those of a chunk for a peer as it is sent. -/
def State.takeEntries (s : State) (j : Job) (n : Nat) : State :=
  if sideSpace j.jc0 = 5 then
    s.onChip fun c => c.modWarp j.warp fun wp =>
      let q := sideQueue j.jc0
      let x := Sparse.get Queue.blank wp.queues q
      { wp with queues := Sparse.put wp.queues q { x with fifo := x.fifo.drop (n / 256), first := x.first + n / 256 } }
  else s

/-- Free values of the lanes that have not pushed an entry are drawn once (log entry 15). -/
def State.drawEntries (s : State) (j : Job) (n : Nat) : State :=
  if sideSpace j.jc0 = 5 then s.onChip fun c => { c with freeCount := c.freeCount + 64 * (n / 256) } else s

/-- The next bytes of a job bound for main memory, host memory or a peer are poisoned (R244). -/
def State.poisonBound (s : State) (j : Job) (x : List PByte) : Bool :=
  [1, 2, 3].contains (sideSpace j.jc1) && (x.any (·.2) || (j.op == 2 && sideSpace j.jc1 == 1 &&
    (List.range x.length).any fun i => (s.sideRead j j.jc1 (j.dstAddr (j.cursor + i)) true).2))

/-! ## Shadow versions -/

/-- Pool pages of a context that no shadow version uses, in units of 64 KiB (R341). -/
def State.freePages (s : State) (ctx : Nat) : List Nat :=
  let used := s.chip.launches.flatMap fun e => if e.2.context = ctx then e.2.shadowMain.map (·.2) else []
  let pages := (s.chip.context ctx).pool.flatMap fun r => (List.range (r.2 / 2 ^ 16)).map fun i => r.1 / 2 ^ 16 + i
  pages.filter fun p => !used.contains p

/-- A page of main memory copied, poison marks included. -/
def Ram.copyPage (r : Ram) (src dst : Nat) : Ram :=
  let r' := r.clear (dst * 2 ^ 16) (2 ^ 16)
  let bs := r.bytes.filter fun e => e.1 / 2 ^ 16 = src
  let ms := r.marks.filter fun k => k / 2 ^ 13 = src
  { bytes := bs.foldl (fun m e => Memory.write m (dst * 2 ^ 16 + e.1 % 2 ^ 16) e.2) r'.bytes
    marks := ms.foldl (fun m k => insertNum (dst * 2 ^ 13 + k % 2 ^ 13) m) r'.marks }

/-- The regions a job's next n bytes write that have no shadow version yet, each with an address (R341). -/
def State.unshadowed (s : State) (j : Job) (n : Nat) : List (Nat × Nat) :=
  let x := s.chip.launch j.launch
  if sideSpace j.jc1 != 1 || !x.replayable then []
  else
    let as := (List.range n).map fun i => j.dstAddr (j.cursor + i)
    let rs := as.map fun a => (((s.cached j.unit j.context (a / 2 ^ 16) (j.op == 2) true).map TlbEntry.phys).getD 0, a)
    (rs.map (·.1)).eraseDups.filterMap fun r =>
      if (Sparse.find x.shadowMain r).isSome then none else rs.find? fun y => y.1 == r

/-- Shadow versions made for regions as far as the pool reaches; the address of the first region without one. -/
def State.makeShadows (s : State) (j : Job) : List (Nat × Nat) → State × Option Nat
  | [] => (s, none)
  | (r, a) :: rest =>
    match (s.freePages j.context).head? with
    | none => (s, some a)
    | some p =>
      let s := { s with main := s.main.copyPage r p }
      State.makeShadows (s.onChip fun c => c.modLaunch j.launch fun x =>
        { x with shadowMain := Sparse.put x.shadowMain r p }) j rest

/-- A write to host memory or a peer ends replay (R341). -/
def State.endReplay (s : State) (j : Job) : State :=
  if (s.chip.launch j.launch).replayable then
    s.onChip fun c => (c.modLaunch j.launch fun n => { n with replayable := false }).modBlock j.block fun b =>
      { b with nonReplayable := true }
  else s

/-! ## The hazard unit -/

/-- Two jobs have an edge (R243). -/
def Chip.jobEdge (c : Chip) (k j : Job) : Bool :=
  rangesMeet (c.jobWrites k) (c.jobReads j) || rangesMeet (c.jobReads k) (c.jobWrites j) ||
    rangesMeet (c.jobWrites k) (c.jobWrites j)

/-- A bank load accepted before a job that reads bytes the job writes has not completed (R200, R243). -/
def Chip.bldEdge (c : Chip) (id : Nat) (j : Job) : Bool :=
  c.crucibles.any fun x => x.2.queue.any fun e =>
    e.loads.isSome && decide (e.num < id) && dieOf x.1 == j.die && rangesMeet (c.localRanges e.warp e.rows) (c.jobWrites j)

/-- Nothing earlier at the die holds a job back (R243). -/
def Chip.jobFree (c : Chip) (id : Nat) (j : Job) : Bool :=
  !(c.jobs.any fun e => decide (e.1 < id) && e.2.die == j.die && c.onDie e.2 && c.jobEdge e.2 j) && !c.bldEdge id j

/-- An earlier job of the same channel has not started, waits for its ring slot, or is stopped (R241, R243, R309). -/
def Chip.channelHeld (c : Chip) (id : Nat) (j : Job) : Bool :=
  c.jobs.any fun e => decide (e.1 < id) && !e.2.isRqt && c.onDie e.2 && e.2.unit == j.unit && e.2.chan == j.chan &&
    (e.2.status == .waiting || e.2.status == .claiming || e.2.status == .saved)

/-- The links a job names. -/
def Job.links (j : Job) : List Nat := [j.jc0, j.jc1].filterMap fun v => if sideSpace v = 3 then some (sideLink v) else none

/-- The fenced link a job names, if any (R391). -/
def Chip.fencedLink (c : Chip) (j : Job) : Option Nat :=
  j.links.find? fun k => (Sparse.get Towline.untrained c.towlines k).fenced

/-- An earlier job of the same channel has chunks to send on a link of the job (R390). -/
def Chip.linkHeld (c : Chip) (id : Nat) (j : Job) : Bool :=
  c.jobs.any fun e => decide (e.1 < id) && !e.2.isRqt && c.onDie e.2 && e.2.unit == j.unit && e.2.chan == j.chan &&
    decide (e.2.cursor + (if e.2.status == .peer then e.2.chunk.length else 0) < e.2.size) && e.2.links.any j.links.contains

/-- A started job claims its ring slot, or waits for one in ring order (R235, R241). A job that was stopped keeps the
slot it holds and its place among the claimants (R312). -/
def Chip.beginJob (c : Chip) (id : Nat) (j : Job) : Chip :=
  let set (c : Chip) (f : Job → Job) : Chip := { c with jobs := Sparse.modify c.jobs id f }
  if sideSpace j.jc1 != 4 then set c fun x => { x with status := .running }
  else
    let n := sideRing j.jc1
    let r := Sparse.get Ring.blank (c.block j.block).rings n
    if j.claim.isSome then set c fun x => { x with status := .running }
    else if r.waiters.any fun x => match x with | .job k _ => k == id | _ => false then
      set c fun x => { x with status := .claiming }
    else if r.free = 0 || !r.waiters.isEmpty then
      set (c.modRing j.block n fun r => r.await (.job id c.cycle)) fun x => { x with status := .claiming }
    else
      set (c.modRing j.block n Ring.claim) fun x => { x with status := .running, claim := some r.tail }

/-- JOB_START: a job that names a fenced channel or link stops instead (R245, R391). -/
def State.jobStart (s : State) (id : Nat) : Option State :=
  (s.job id).bind fun j =>
    if j.isRqt || j.status != .waiting || !s.chip.onDie j || !s.chip.jobFree id j || s.chip.channelHeld id j then none
    else
      match s.chip.fencedLink j with
      | some k => some (s.linkStop id j k)
      | none =>
        if s.chip.fencedChannels.contains (j.unit * 16 + j.chan) then some (s.stopJob id j 3 j.chan false j.chunkIndex 0)
        else some (s.onChip fun c => c.beginJob id j)

/-- JOB_RING_CLAIM: the job at the front of a ring's claimants takes a freed slot (R235, R241). -/
def Chip.jobClaim (c : Chip) (id : Nat) : Option Chip :=
  (Sparse.find c.jobs id).bind fun j =>
    let n := sideRing j.jc1
    let r := Sparse.get Ring.blank (c.block j.block).rings n
    if j.isRqt || j.status != .claiming || r.free = 0 || !(match r.waiters.head? with | some (.job k _) => k == id | _ => false) then
      none
    else
      let c := c.modRing j.block n fun r => { r.claim with waiters := r.waiters.drop 1 }
      some ({ c with jobs := Sparse.modify c.jobs id fun x => { x with status := .running, claim := some r.tail } }.settleRing
        j.block n)

/-- A link is up and holds a binding for a job's context (R386, R391). -/
def State.linkBound (s : State) (j : Job) (link : Nat) : Bool :=
  !(Sparse.get Towline.untrained s.chip.towlines link).fenced && (s.peerKey j.context link).isSome

/-- The links a job names are up and hold a binding for its context, and the Slipway is up when it names host memory (R343,
R386, R391). -/
def State.linksUp (s : State) (j : Job) : Bool :=
  (([j.jc0, j.jc1].all fun v => sideSpace v != 2) || !s.slipwayFenced) &&
    j.links.all (s.linkBound j)

/-- Bytes of a chunk stand at the destination, sums for a reduce-add (R241, R341). -/
def State.performChunk (s : State) (j : Job) (x : List PByte) : State :=
  let s := if sideSpace j.jc1 = 2 ∨ sideSpace j.jc1 = 3 then s.endReplay j else s
  if j.op = 2 then s.addChunk j x else s.writeChunk j x

/-- Bytes of a chunk are written and the cursor moves on (R244, R382). -/
def State.advanceJob (s : State) (id : Nat) (j : Job) (x : List PByte) : State :=
  let s := s.performChunk j x
  let s := if j.traced then s else s.onChip fun c => c.jobTrace j 4
  s.modJob id fun k => { k with cursor := k.cursor + x.length, traced := true, chunk := [], status := .running }

/-- The bytes of the chunk on its way to a peer. -/
def Job.sent (j : Job) : List PByte := j.chunk.map fun b => (b, false)

/-- JOB_CHUNK_COMPLETE (R244): the bytes of a chunk are written; to a peer they are sent and await its acknowledgement. -/
def State.chunkComplete (s : State) (id : Nat) : Option State :=
  (s.job id).bind fun j =>
    let n := s.movable j
    if j.isRqt || j.status != .running || !s.chip.onDie j || n = 0 || (s.unmapped j n).isSome || !s.linksUp j || s.chip.linkHeld id j then none
    else
      let s := s.fillTlb j n
      let again := !j.chunk.isEmpty
      let x := if again then j.sent else s.sourceBytes j n
      if s.poisonBound j x then some (s.poisonStop id j)
      else
        let s := if again then s else s.drawEntries j n
        let (s, short) := s.makeShadows j (s.unshadowed j n)
        match short with
        | some a => some (s.parkJob id j 1 a true)
        | none =>
          let s := if again then s else s.takeEntries j n
          if sideSpace j.jc1 = 3 then some (s.modJob id fun k => { k with status := .peer, chunk := x.map (·.1) })
          else some (s.advanceJob id j x)

/-- PEER_CHUNK_ACK (R388): the peer has performed a chunk at its main memory. A reduce-add adds there. -/
def State.peerAck (s : State) (id : Nat) : Option State :=
  (s.job id).bind fun j => if j.status != .peer || !s.linksUp j then none else some (s.advanceJob id j j.sent)

/-- Words of one memory taken from another as the machine chooses, each whole or not at all, and whether any was. -/
def Ram.tear (new : Ram) : List Nat → Chip → Ram → Bool → Ram × Chip × Bool
  | [], c, r, some' => (r, c, some')
  | k :: rest, c, r, some' =>
    let (n, c) := c.choose 2
    if n = 1 then new.tear rest c (r.store (8 * k) (new.bytes.readBytes (8 * k) 8) (new.poisoned (8 * k))) true
    else new.tear rest c r some'

/-- Bytes of the chunk on its way to a peer as its link is fenced: each aligned 8-byte word is old or new, as the machine
chooses (R391). The first bytes that a job writes so have their trace record (R382). -/
def State.tearChunk (s : State) (j : Job) : State :=
  if j.status != .peer then s
  else
    let link := sideLink j.jc1
    let new := (s.performChunk j j.sent).peerRam j.context link
    let words := ((s.placed j j.sent).map fun x => x.1 / 8).eraseDups
    let (r, c, wrote) := new.tear words s.chip (s.peerRam j.context link) false
    let c := if wrote && !j.traced then c.jobTrace j 4 else c
    (State.endReplay { s with chip := c } j).setPeer j.context link fun _ => r

/-- PAGE_WALK_COMPLETE (R337, R339, R340): the walk for the first page that a job's chunk has in no cache. -/
def State.walkComplete (s : State) (id : Nat) : Option State :=
  (s.job id).bind fun j =>
    if j.isRqt || j.status != .running || !s.chip.onDie j then none
    else
      let n := s.movable j
      (s.unmapped j n).map fun p =>
        match s.walk j.context p.2.1 p.2.2.1 p.2.2.2 with
        | .page phys r w =>
          let e : TlbEntry := ⟨j.unit, j.context, p.1, phys, r, w⟩
          let keep := (j.pages n).map (·.1)
          (s.addTlb keep e).addTlb keep { e with cache := 24 + j.die }
        | .fault => s.parkJob id j 1 p.2.1 p.2.2.2
        | .malformed poison => s.fatalJob id j 1 p.2.1 poison

/-- JOB_COMPLETE (R242). -/
def Chip.jobComplete (c : Chip) (id : Nat) : Option Chip :=
  (Sparse.find c.jobs id).bind fun j =>
    if j.isRqt || j.status != .running || decide (j.cursor < j.size) then none else some (c.endJob id j)

/-- PEER_FAULT_RETURN (R387): a fault of the peer's walk parks the job (`why` even), or stops it when the peer declares it
fatal (odd); with both sides at peers, `why` of 2 and 3 is the source's fault, which no chunk has left. The address is one of
the chunk's, as the machine chooses (R301; log entry 103). -/
def State.peerFault (s : State) (id why : Nat) : Option State :=
  (s.job id).bind fun j =>
    let write := sideSpace j.jc1 == 3 && !(sideSpace j.jc0 == 3 && j.status == .running && decide (2 ≤ why))
    let n := s.movable j
    if j.isRqt || !(write || sideSpace j.jc0 == 3) || !(j.status == .running || j.status == .peer) || n = 0 ||
        !s.linkBound j (sideLink (if write then j.jc1 else j.jc0)) then none
    else
      let (k, c) := s.chip.choose n
      let s := { s with chip := c }
      let a := if write then j.dstAddr (j.cursor + k) else j.srcAddr (j.cursor + k)
      if why % 2 = 0 then some (s.parkJob id j 3 a write) else some (s.fatalJob id j 3 a false)

/-! ## The requantising transpose -/

/-- A table entry as a finite value: sign, magnitude, exponent. -/
def finiteEntry (v : Word) : Option (Bool × Nat × Int) :=
  match bf16.decode (v.toNat % 2 ^ 16) with
  | .num n m x => some (n, m, x)
  | _ => none

/-- A finite value on the grid 2^q, which lies on or below it. -/
def onGrid (q : Int) (v : Bool × Nat × Int) : Int :=
  let m := v.2.1 * 2 ^ (v.2.2 - q).toNat
  if v.1 then -(m : Int) else m

/-- The greatest magnitude of some finite values, or none when all are 0 (R207). -/
def tmax (vs : List (Bool × Nat × Int)) : Option (Nat × Int) :=
  vs.foldl (fun best v =>
    if v.2.1 = 0 then best
    else match best with
      | none => some v.2
      | some b =>
        let q := min b.2 v.2.2
        if onGrid q (false, b.1, b.2) < onGrid q (false, v.2.1, v.2.2) then some v.2 else some b) none

/-- The finite value of an element. -/
def FVal.finite : FVal → Option (Bool × Nat × Int)
  | .num n m x => some (n, m, x)
  | _ => none

/-- The scale of a destination column (R207). -/
def columnScale (top : Option (Nat × Int)) (ws : List FVal) : Nat :=
  match top, ws.mapM FVal.finite with
  | some t, some vs =>
    ((List.range 255).find? fun (e : Nat) => vs.all fun v =>
      let x : Int := t.2 + Int.ofNat e - 127
      let q := min x v.2.2
      decide (onGrid q (false, v.2.1, v.2.2) ≤ onGrid q (false, t.1, x))).getD 255
  | _, _ => 255

/-- The code of the finite entry nearest to a value over a scale, ties to the lower code; none when the spec gives none
(R207). -/
def nearestCode (entries : List (Nat × Bool × Nat × Int)) (scale : Nat) (w : FVal) : Option Nat :=
  w.finite.bind fun v =>
    let v : Bool × Nat × Int := (v.1, v.2.1, v.2.2 + 127 - (scale : Int))
    let q := entries.foldl (fun q e => min q e.2.2.2) v.2.2
    let dist (e : Nat × Bool × Nat × Int) : Nat := (onGrid q e.2 - onGrid q v).natAbs
    (entries.foldl (fun best e => match best with
      | none => some e
      | some b => if dist e < dist b then some e else some b) none).map (·.1)

/-- A requantised tile: a code by row and column, and each column's scale with its poison. -/
structure Requant where
  codes : List (List Nat)
  scales : List (Nat × Bool)
  deriving DecidableEq, Repr

/-- The requantised tile of a source bank under a job's tables (R207). A column's scale and codes are poisoned by any source
element, scale or entry behind it and by any entry of the encode table (log entry 118). `free` numbers the codes the spec leaves open. -/
def requantise (src : Bank) (tables : Sparse Val) (ctl : Word) (dst : TileDesc) (free : Nat) : Requant :=
  let entry (t k : Nat) : Val := Sparse.get ⟨0, false⟩ tables (t * 16 + k)
  let es := (List.range 16).filterMap fun k => (finiteEntry (entry (rqtEtab ctl) k).v).map fun v => (k, v)
  let tabPoison := (List.range 16).any fun k => (entry (rqtEtab ctl) k).p
  let top := tmax (es.map (·.2))
  let elem (k n : Nat) : FVal :=
    match Sparse.find src.elems (k * 32 + n) with
    | none => zeroVal
    | some c => cb4Value (entry (rqtDtab ctl) c).v (if src.tag.scl then Sparse.get 0 src.scales n else 127)
  let bad (k n : Nat) : Bool :=
    src.poison.contains (k * 32 + n) || src.scalePoison.contains n ||
      match Sparse.find src.elems (k * 32 + n) with
      | some c => (entry (rqtDtab ctl) c).p
      | none => false
  let scales := (List.range dst.vn).map fun j =>
    (columnScale top ((List.range 32).map fun i => elem j i), tabPoison || (List.range 32).any fun i => bad j i)
  { scales := scales
    codes := (List.range dst.vk).map fun i => (List.range dst.vn).map fun j =>
      (nearestCode es (scales.getD j (0, false)).1 (elem j i)).getD
        ((Config.freeWord (free + 32 * i + j)).toNat % 16) }

/-- A row of codes packed two to a byte over the bytes that stand there (R193). -/
def packRow (old : List Byte) (codes : List (Nat × Bool)) : List PByte :=
  old.zipIdx.map fun x =>
    let lo := codes[2 * x.2]?
    let hi := codes[2 * x.2 + 1]?
    let nib (o : Option (Nat × Bool)) (was : Nat) : Nat := match o with | some v => v.1 | none => was
    (BitVec.ofNat 8 (nib lo (x.1.toNat % 16) + 16 * nib hi (x.1.toNat / 16)),
      (lo.elim false (·.2)) || (hi.elim false (·.2)))

/-- Bytes written for a job in local memory. -/
def Chip.writeBytes (c : Chip) (j : Job) (a : Word) (bs : List PByte) : Chip :=
  (pieces (bs.zipIdx.map fun x => (a.toNat + x.2, x.1))).foldl (fun c x =>
    c.writeLocal j.context j.launch j.block (BitVec.ofNat 32 x.1) x.2.1 x.2.2) c

/-- The tile written (R207). -/
def Chip.writeRequant (c : Chip) (j : Job) (dst : TileDesc) (r : Requant) : Chip :=
  let c := r.codes.zipIdx.foldl (fun c x =>
    let a := dst.row x.2
    let old := (List.range ((dst.vn + 1) / 2)).map fun i => (c.readByte j.context j.launch j.block (a + BitVec.ofNat 32 i)).1
    c.writeBytes j a (packRow old (x.1.zip (r.scales.map (·.2))))) c
  c.writeBytes j dst.scales (r.scales.map fun x => (BitVec.ofNat 8 x.1, x.2))

/-- The issuing lanes of an `rqt` that are still live. -/
def Chip.rqtLanes (c : Chip) (j : Job) : List Nat := (j.lanes &&& (c.warp j.warp).liveMask).lanes

/-- The first violation of an `rqt` job's accesses: the descriptors, the source tile, the destination tile (R207). -/
def Chip.rqtFault (c : Chip) (j : Job) (reads : List (Nat × Nat)) (writes : List (Nat × Nat)) : Option (Nat × Word) :=
  (rowsFault c j .jobRead reads).or (rowsFault c j .jobWrite writes)

/-- RQT_JOB_COMPLETE (R207): the cluster's RQT takes its jobs in order; every window is checked before a byte is written,
and the done counter rises in every case. The Mould is asked about a fault as at issue (R325). -/
def Chip.rqtComplete (c : Chip) (id : Nat) : Option Chip :=
  (Sparse.find c.jobs id).bind fun j =>
    match j.kind with
    | .ladle => none
    | .rqt _ _ _ none => none
    | .rqt ctl src dst (some tables) =>
      let ls := c.rqtLanes j
      if !c.onDie j || !c.jobFree id j || c.fencedRqt.contains j.unit || j.status != .waiting ||
          c.jobs.any fun e => decide (e.1 < id) && e.2.isRqt && c.onDie e.2 && e.2.unit == j.unit then none
      else
        let stop (x : Stop) : Option Chip :=
          if x.cause = 2 && c.lateWait j.warp ls j.word 1 then none
          else some ((c.lateFault j.warp ls j.npc j.word x).endJob id j)
        let sv := c.descAt j.context j.launch j.block src
        let dv := c.descAt j.context j.launch j.block dst
        let bad (a : Word) : Option (Nat × Word) :=
          c.fault j.context j.launch j.block .jobRead Need.jobRead.reads (a.toNat % 16 == 0) a 16
        match (bad src).or (bad dst) with
        | some f => stop (violation f)
        | none =>
          if (sv ++ dv).any (·.p) then stop (Stop.of 5)
          else
            match descOf sv, descOf dv with
            | some s, some d =>
              let scl := rqtSscl ctl
              match c.rqtFault j (s.ranges 0 scl) (d.ranges 0 true) with
              | some f => stop (violation f)
              | none =>
                let b := s.load (c.readByte j.context j.launch j.block) 0 0 scl
                let r := requantise b tables ctl d c.freeCount
                some ({ (c.writeRequant j d r) with freeCount := c.freeCount + 1024 }.endJob id j)
            | _, _ =>
              if c.lateWait j.warp ls j.word 0 then none
              else some ((c.lateIllegal j.warp ls j.npc j.word j.rentry .illegalUse).endJob id j)

/-! ## Failures of the cluster -/

/-- Jobs in flight or queued on the Ladle channel of a cluster of the package. -/
def Chip.channelJobs (c : Chip) (cluster channel : Nat) : List (Nat × Job) :=
  c.jobs.filter fun e => !e.2.isRqt && c.onDie e.2 && e.2.unit == cluster && e.2.chan == channel

/-- LADLE_CHANNEL_ERROR (R245): the channel is fenced, its jobs stop with entries of kind 3. -/
def State.channelError (s : State) (cluster channel : Nat) : Option State :=
  if 24 ≤ cluster ∨ 16 ≤ channel ∨ s.chip.fencedChannels.contains (cluster * 16 + channel) then none
  else
    let js := s.chip.channelJobs cluster channel
    let s := (s.notify (js.map (·.2.context)) 1 (cluster % 6 * 16 + channel) (cluster / 6)).onChip fun c =>
      { c with fencedChannels := insertNum (cluster * 16 + channel) c.fencedChannels }
    some (js.foldl (fun s e => s.stopJob e.1 e.2 3 channel false e.2.chunkIndex 0) s)

/-- The RQT of a cluster works on this job. -/
def Job.atRqt (j : Job) : Bool :=
  match j.kind with
  | .rqt _ _ _ (some _) => true
  | _ => false

/-- RQT_ERROR (R245): the RQT's job ends with an entry of kind 4, and the RQT is fenced. -/
def State.rqtError (s : State) (cluster : Nat) : Option State :=
  if 24 ≤ cluster ∨ s.chip.fencedRqt.contains cluster then none
  else
    let js := s.chip.jobs.filter fun e => e.2.isRqt && s.chip.onDie e.2 && e.2.unit == cluster
    let s := (s.notify (js.map (·.2.context)) 2 (cluster % 6) (cluster / 6)).onChip fun c =>
      { c with fencedRqt := insertNum cluster c.fencedRqt }
    match js.find? fun e => e.2.atRqt with
    | some e => some (s.stopJob e.1 e.2 4 0 false 0 0)
    | none => some s

/-- PATROL_SCRUB (R253): the scrubber visits a line; what it corrects was never seen wrong. -/
def Chip.scrub (c : Chip) (addr : Nat) : Option Chip := if addr < 2 ^ 30 then some c else none

/-! ## Meanings -/

/-- RQT_JOB_COMPLETE (R207). -/
def execRqtJobComplete (j : Nat) (σ : State) : Host.Outcome State Fault Refusal :=
  chipEvent (fun c => c.rqtComplete j) σ

/-- JOB_START (R243). -/
def execJobStart (j : Nat) (σ : State) : Host.Outcome State Fault Refusal :=
  stateEvent (fun s => s.jobStart j) σ

/-- JOB_RING_CLAIM (R241). -/
def execJobRingClaim (j : Nat) (σ : State) : Host.Outcome State Fault Refusal :=
  chipEvent (fun c => c.jobClaim j) σ

/-- JOB_CHUNK_COMPLETE (R244). -/
def execJobChunkComplete (j : Nat) (σ : State) : Host.Outcome State Fault Refusal :=
  stateEvent (fun s => s.chunkComplete j) σ

/-- PAGE_WALK_COMPLETE (R337). -/
def execPageWalkComplete (j : Nat) (σ : State) : Host.Outcome State Fault Refusal :=
  stateEvent (fun s => s.walkComplete j) σ

/-- PEER_CHUNK_ACK (R388). -/
def execPeerChunkAck (j : Nat) (σ : State) : Host.Outcome State Fault Refusal :=
  stateEvent (fun s => s.peerAck j) σ

/-- JOB_COMPLETE (R242). -/
def execJobComplete (j : Nat) (σ : State) : Host.Outcome State Fault Refusal :=
  chipEvent (fun c => c.jobComplete j) σ

/-- LADLE_CHANNEL_ERROR (R245). -/
def execLadleChannelError (cluster channel : Nat) (σ : State) : Host.Outcome State Fault Refusal :=
  stateEvent (fun s => s.channelError cluster channel) σ

/-- RQT_ERROR (R245). -/
def execRqtError (cluster : Nat) (σ : State) : Host.Outcome State Fault Refusal :=
  stateEvent (fun s => s.rqtError cluster) σ

/-- PATROL_SCRUB (R253). -/
def execPatrolScrub (addr : Nat) (σ : State) : Host.Outcome State Fault Refusal :=
  chipEvent (fun c => c.scrub addr) σ

/-- PEER_FAULT_RETURN (R387). -/
def execPeerFaultReturn (j why : Nat) (σ : State) : Host.Outcome State Fault Refusal :=
  stateEvent (fun s => s.peerFault j why) σ

end Sys2Proof.Machine
end

