-- ==== Sys2Proof/Machine/Sched.lean ====
section
/-!
DEFINITION. What a port issues next: the choice of a gang's run (R151), stray words (R147 to R149), promotion (R149,
R151), loop-buffer and instruction-cache refills (R148, R162), the completion of `dsp` and of thread moves (R131, R132,
R157), and Tolune instructions (R52, R369).
-/

namespace Sys2Proof.Machine

/-! ## Candidates -/

/-- Lists of numbers in dictionary order. -/
def lexLt : List Nat → List Nat → Bool
  | x :: xs, y :: ys => decide (x < y) || (x == y && lexLt xs ys)
  | [], _ :: _ => true
  | _, [] => false

/-- A group that could issue: its warp, its lanes, whether it runs Tolune code, and its place in the order of choice, the
least first. -/
structure Cand where
  w : Nat
  lanes : List Nat
  tolune : Bool
  order : List Nat
  deriving DecidableEq, Repr

/-- The first of some candidates. -/
def firstCand : List Cand → Option Cand
  | [] => none
  | x :: r =>
    match firstCand r with
    | none => some x
    | some y => if lexLt y.order x.order then some y else some x

/-- The cycle from which a lane's next run has been eligible (R151). -/
def Thread.eligibleAt (t : Thread) : Nat := max t.since t.nextAt

/-- Lanes grouped by mode and key (R114), each group ascending. -/
def Warp.byKey (wp : Warp) (ls : List Nat) : List (List Nat) :=
  let k (l : Nat) := ((wp.thread l).tolune, (wp.thread l).key)
  ((ls.map k).eraseDups).map fun x => ls.filter fun l => k l == x

/-- The place of a gang in a port's choice (R151): promoted ones first, by age; then priority, the yield hint, age, warp
slot, lowest lane. -/
def gangOrder (wp : Warp) (prio : Nat) (ls : List Nat) : List Nat :=
  let promoted := ls.any fun l => (wp.thread l).promotedNow
  let yielded := ls.any fun l => (wp.thread l).yielded
  let age := (ls.map fun l => (wp.thread l).eligibleAt).foldl max 0
  if promoted then [0, 0, 0, age, wp.slot, ls.headD 0]
  else [1, 3 - prio, if yielded then 1 else 0, age, wp.slot, ls.headD 0]

/-- The priority of a warp's launch: that of its queue (R151, R264). -/
def State.priority (s : State) (wp : Warp) : Nat :=
  (Sparse.get LaunchQueue.blank s.queues (s.chip.launch wp.launch).queue).prio

/-- The gangs of a port that are eligible in a cycle. -/
def State.gangs (s : State) (core port now : Nat) : List Cand :=
  ((s.chip.portWarps core port).filter fun e => s.chip.warpRuns e.1).flatMap fun e =>
    let wp := e.2
    let ls := wp.liveLanes.filter fun l => wp.laneReady now l && !(wp.thread l).stray
    (wp.byKey ls).map fun g => ⟨e.1, g, (wp.thread (g.headD 0)).tolune, gangOrder wp (s.priority wp) g⟩

/-- The first cycle that the words issued so far leave to a port. -/
def Chip.portTime (c : Chip) (core port : Nat) : Nat := max c.cycle (Sparse.get 0 (c.core core).leaves (busyKey port))

/-- Time passes until a port is free (R151). -/
def State.awaitPort (s : State) (core port : Nat) : State :=
  { s with chip := s.chip.pass (s.chip.portTime core port - s.chip.cycle) }

/-- The gang a port chooses in the present cycle (R151). -/
def State.chosenGang (s : State) (core port : Nat) : Option Cand :=
  if s.chip.portBusy core port then none else firstCand (s.gangs core port s.chip.cycle)

/-! ## Starting a run -/

/-- The strays of a gang's quads that stand at its key (R147). -/
def Warp.joiners (wp : Warp) (now : Nat) (ls : List Nat) : List Nat :=
  let t := wp.thread (ls.headD 0)
  wp.liveLanes.filter fun l =>
    let u := wp.thread l
    u.stray && wp.laneReady now l && u.tolune == t.tolune && u.key == t.key && ls.any fun k => k / 4 == l / 4

/-- The lane whose region entry was set latest, the lowest on a tie (R297). -/
def Warp.latestEntry (wp : Warp) (ls : List Nat) : Nat :=
  ls.foldl (fun b l => if (wp.thread b).rtime < (wp.thread l).rtime then l else b) (ls.headD 0)

/-- A group enters its next run (R41, R297, R42): one region entry for the group, which a preceding entry flag sets anew;
the Mould bank of the run. A first word of the region that an event kept from issuing is still to be counted. -/
def Chip.startRun (c : Chip) (w : Nat) (ls : List Nat) (stray : Bool) (buffer : List Word) : Nat × Chip :=
  let wp := c.warp w
  let t0 := wp.thread (ls.headD 0)
  let flagged := ls.any fun l => (wp.thread l).entryNext
  let u := wp.thread (wp.latestEntry ls)
  let (n, c) := c.fresh
  (n, c.modWarp w fun wp =>
    let wp := wp.mapLanes ls fun _ t => { t with
      stray := stray && t.stray, promoted := if stray then t.promoted else none, yielded := false, entryNext := false, recDue := false
      rentry := if flagged then t0.pc else u.rentry
      rtime := if flagged then c.ns else u.rtime
      retry := if flagged then 0 else t.retry }
    { wp with runs := Sparse.put wp.runs n { Run.blank with
        lanes := maskOf ls, stray := stray, tolune := t0.tolune, entry := t0.pc, pc := t0.pc
        entering := flagged || ls.any fun l => (wp.thread l).recDue
        buffer := buffer, bank := wp.pbank, gen := wp.pgen, nextAt := c.cycle, since := c.cycle } })

/-- A port's warps with the waits that are over dropped. -/
def State.settleAt (s : State) (core port : Nat) : State := { s with chip := s.chip.settlePort core port }

/-- The machine as a port's choice in some cycle sees it: every quad of the port's warps anchored (R146). -/
def State.view (s : State) (core port now : Nat) : State := { s with chip := s.chip.viewPort core port now }

/-- A choice uses up the yield hints of the gangs it was made among (R31, R151). -/
def Chip.useHints (c : Chip) (gs : List Cand) : Chip :=
  gs.foldl (fun c g => c.modWarp g.w fun wp => wp.mapLanes g.lanes fun _ t => { t with yielded := false }) c

/-- A gang with the strays that rejoin it, ascending (R147). -/
def State.gangLanes (v : State) (g : Cand) : List Nat :=
  (maskOf (g.lanes ++ (v.chip.warp g.w).joiners v.chip.cycle g.lanes)).lanes

/-- A chosen group enters its run: the yield hints are used up and its quads keep their anchors (R146, R151). -/
def Chip.enterChosen (c : Chip) (gs : List Cand) (w : Nat) (ls : List Nat) : Chip :=
  (c.useHints gs).modWarp w fun wp => wp.enterQuads ls

/-- The port chooses a gang, in the first cycle that it is free, and its run begins; the machine may have to wait for an
instruction-cache line (R151, R162). -/
def State.portChoice (s : State) (core port : Nat) : Option State :=
  let s := (s.settleAt core port).awaitPort core port
  let v := s.view core port s.chip.cycle
  match v.chosenGang core port with
  | none => none
  | some g =>
    if g.tolune then none
    else
      let ls := v.gangLanes g
      let (n, c) := (s.chip.enterChosen (v.gangs core port s.chip.cycle) g.w ls).startRun g.w ls false []
      let (k, c) := c.choose 2
      some { s with chip := c.modWarp g.w fun wp => wp.modRun n fun r => { r with icWait := k == 1 } }

/-! ## Strays -/

/-- A stray word that could issue: a run in progress, or lanes with the words of the run they would start. -/
structure StrayCand where
  w : Nat
  run : Option Nat
  lanes : List Nat
  words : List Word
  tolune : Bool
  /-- The cycle it can issue, and its place among those of that cycle. -/
  at' : Nat
  promoted : Bool
  order : List Nat
  deriving DecidableEq, Repr

/-- The words a lane's loop buffer holds for an address (R148). -/
def Thread.buffered (t : Thread) (a : Word) : Option (List Word) := (t.loopBuf.find? fun e => e.1 == a).map (·.2)

/-- The cycle at which a run's next word could issue, if nothing but time holds it. -/
def Chip.wordDue (c : Chip) (w rid : Nat) : Option Nat :=
  match c.prepare w rid with
  | .word d i =>
    match gate d w rid i with
    | .wait _ => none
    | _ => some (d.dueAt w rid i)
  | .done _ => some (max c.cycle ((c.warp w).run rid).nextAt)
  | .wait | .none => none

/-- A lane's group as a stray: promoted as one (R149). -/
def Thread.promotedStray (t : Thread) : Bool := t.promoted == some true

/-- Strays as a candidate: in a run in progress, or with the words of the run they would start. -/
def Warp.strayCand (wp : Warp) (w : Nat) (run : Option Nat) (tolune : Bool) (ls : List Nat) (ws : List Word)
    (since due : Nat) : StrayCand :=
  let p := ls.any fun l => (wp.thread l).promotedStray
  ⟨w, run, ls, ws, tolune, due, p, [if p then 0 else 1, since, wp.slot, ls.headD 0]⟩

/-- What strays of a quad have in common when they begin a run together: mode, key and buffered words (R147). -/
def Warp.strayKey (wp : Warp) (l : Nat) : Nat × Bool × (Word × Option Word) × List Word :=
  let t := wp.thread l
  (l / 4, t.tolune, t.key, if t.tolune then [] else (t.buffered t.pc).getD [])

/-- The strays of a warp that could begin a run in a cycle, in the groups that they would begin it in (R147); native ones with
their words in the loop buffer (R148). -/
def Chip.freshStrays (c : Chip) (now w : Nat) (wp : Warp) : List StrayCand :=
  let ready := wp.liveLanes.filter fun l =>
    let t := wp.thread l
    c.warpRuns w && t.stray && wp.laneReady now l && (t.tolune || (t.buffered t.pc).isSome)
  ((ready.map wp.strayKey).eraseDups).filterMap fun x =>
    let ls := ready.filter fun l => wp.strayKey l == x
    let due := if x.2.1 then some now else
      let (n, d) := c.startRun w ls true x.2.2.2
      d.wordDue w n
    due.map (wp.strayCand w none x.2.1 ls x.2.2.2 ((ls.map fun l => (wp.thread l).eligibleAt).foldl max 0))

/-- The strays of a port that could issue, with nothing but time holding the word (R149). A run in progress goes on to its
trailer even where no new run may begin (R309, R351). -/
def Chip.strayCands (c : Chip) (core port now : Nat) : List StrayCand :=
  (c.portWarps core port).flatMap fun e =>
    ((e.2.runs.filter fun r => r.2.stray).filterMap fun r =>
      (c.wordDue e.1 r.1).map (e.2.strayCand e.1 (some r.1) r.2.tolune r.2.lanes.lanes [] r.2.since)) ++ c.freshStrays now e.1 e.2

/-- The least of some numbers. -/
def leastOf (ts : List Nat) : Option Nat := ts.foldl (fun m t => some (m.elim t (min t))) none

/-- The cycles from now on in which a port may gain an eligible gang, if nothing but time passes (R150). -/
def Chip.choiceTimes (c : Chip) (core port : Nat) : List Nat :=
  let now := c.portTime core port
  now :: ((c.portWarps core port).filter fun e => c.warpRuns e.1).flatMap fun e =>
    (e.2.liveLanes.filter fun l => e.2.laneReady (e.2.thread l).nextAt l && decide (now < (e.2.thread l).nextAt)).map fun l =>
      (e.2.thread l).nextAt

/-- The first cycle in which a gang word of a port could issue: the next word of a run in progress, or the first of a run that
the port could choose (R149). -/
def State.gangDue (s : State) (core port : Nat) : Option Nat :=
  let c := s.chip
  let going := (c.portWarps core port).flatMap fun e =>
    (e.2.runs.filter fun r => !r.2.stray).map fun r => c.wordDue e.1 r.1
  leastOf (if going.isEmpty then (c.choiceTimes core port).filter fun t => !((s.view core port t).gangs core port t).isEmpty
    else going.filterMap id)

/-- The stray that issues next among those that can issue soonest: a promoted one, then the one eligible longest (R149). -/
def firstStray (xs : List StrayCand) : Option StrayCand :=
  let soon := (xs.map (·.at')).foldl min ((xs.map (·.at')).headD 0)
  (xs.filter fun x => x.at' == soon).foldl (fun b x => match b with
    | none => some x
    | some y => if lexLt x.order y.order then some x else some y) none

/-- A lane's buffered run becomes the one used most recently (R148). -/
def Thread.touchBuffer (t : Thread) (a : Word) : Thread :=
  { t with loopBuf := (t.loopBuf.filter fun e => e.1 == a) ++ t.loopBuf.filter fun e => e.1 != a }

/-- A promoted stray whose word is about to issue is promoted no more, and within a gang's run its cycle counts to leaf 14
(R149, R379). -/
def Chip.spendPromotion (c : Chip) (w rid : Nat) : Chip :=
  let wp := c.warp w
  let ls := wp.active (wp.run rid)
  let issues := match c.prepare w rid with
    | .word _ (.runt _ _ _ _) => false
    | .word d i => gate d w rid i == .run
    | _ => false
  if issues && (wp.run rid).stray && ls.any fun l => (wp.thread l).promotedStray then
    let c := c.modWarp w fun wp => wp.mapLanes ls fun _ t => { t with promoted := none }
    if c.portBusy wp.core (portOf wp.slot) then c.count wp.core (portOf wp.slot) 14 1 else c
  else c

/-- A stray word due at a cycle may take it: no gang word could, or the stray is promoted (R149). -/
def State.strayFree (s : State) (core port at' : Nat) (promoted : Bool) : Bool :=
  match s.gangDue core port with
  | none => true
  | some t => decide (at' < t) || (promoted && at' == t)

/-- The strays of a port as they stand when it is free, in a machine whose waits are settled. -/
def State.portStrays (s : State) (core port : Nat) : List StrayCand :=
  let now := s.chip.portTime core port
  (s.view core port now).chip.strayCands core port now

/-- The stray whose word a port issues next, where one may take its cycle (R149). -/
def State.strayPick (s : State) (core port : Nat) : Option StrayCand :=
  (firstStray (s.portStrays core port)).filter fun x => s.strayFree core port x.at' x.promoted

/-- The gang words of a port are held back: a promoted stray takes the next cycle (R149). -/
def State.held (s : State) (core port : Nat) : Bool :=
  ((s.chip.portWarps core port).any fun e => e.2.liveLanes.any fun l => (e.2.thread l).promotedStray) &&
    let s := s.settleAt core port
    (s.portStrays core port).any fun x => x.promoted && s.strayFree core port x.at' true

/-- The same for the port of a warp. -/
def State.heldBack (s : State) (w : Nat) : Bool := s.held (s.chip.warp w).core (portOf (s.chip.warp w).slot)

/-- A word of a stray's run is about to issue. -/
def State.strayGo (s : State) (w rid : Nat) : State := { s with chip := s.chip.spendPromotion w rid, focus := some (w, rid) }

/-- A native stray word is chosen, where no gang word could take the cycle; the step that follows issues it (R149). -/
def State.strayIssue (s : State) (core port : Nat) : Option State :=
  let s := s.settleAt core port
  match s.strayPick core port with
  | none => none
  | some x =>
    if x.tolune then none
    else
      match x.run with
      | some rid => some (s.strayGo x.w rid)
      | none =>
        let a := ((s.chip.warp x.w).thread (x.lanes.headD 0)).pc
        let c := s.chip.modWarp x.w fun wp => (wp.enterQuads x.lanes).mapLanes x.lanes fun _ t => t.touchBuffer a
        let (n, c) := c.startRun x.w x.lanes true x.words
        some ({ s with chip := c }.strayGo x.w n)

/-- The cycle from which nothing but the port's other words holds a word: its run, its path and its sources (R149). -/
def Chip.freeAt (c : Chip) (w rid : Nat) (i : Instr) : Nat :=
  let wp := c.warp w
  let path := if i.vector64 then Sparse.get 0 (c.core wp.core).leaves (path64Key (portOf wp.slot)) else 0
  let t := max (wp.run rid).nextAt path
  ((unready wp (wp.run rid) i t).map fun x => x.2.2.ready).foldl max t

/-- The cycle from which the next word of a stray's run has been eligible, as it stands now (R149). -/
def Chip.eligibleSince (c : Chip) (w rid : Nat) : Nat :=
  let since := ((c.warp w).run rid).since
  match c.prepare w rid with
  | .word d i =>
    match gate d w rid i with
    | .wait _ => c.cycle
    | _ => max since (d.freeAt w rid i)
  | .wait => c.cycle
  | _ => since

/-- The age of strays in a run counts from when their word stopped waiting (R149). -/
def Chip.ageStrays (c : Chip) : Chip :=
  { c with warps := c.warps.map fun e => (e.1, { e.2 with
      runs := e.2.runs.map fun r => (r.1, if r.2.stray then { r.2 with since := c.eligibleSince e.1 r.1 } else r.2) }) }

/-- A lane's stray run in progress. -/
def Warp.strayRun (wp : Warp) (l : Nat) : Option (Nat × Run) := wp.runs.find? fun r => r.2.stray && r.2.lanes.getLsbD l

/-- The waits of a warp's port that are over are dropped. -/
def Chip.settleOf (c : Chip) (w : Nat) : Chip := c.settlePort (c.warp w).core (portOf (c.warp w).slot)

/-- A stray eligible for 256 cycles is promoted (R149). -/
def Chip.promoteStray (c : Chip) (w l : Nat) : Option Chip :=
  let c := c.settleOf w
  let wp := (c.warp w).anchored c.cycle
  let t := wp.thread l
  let since := match wp.strayRun l with
    | some r => if (c.wordDue w r.1).isSome then some r.2.since else none
    | none => if t.stray && wp.laneReady c.cycle l && c.warpRuns w then some t.eligibleAt else none
  match since with
  | some k =>
    if t.live && !t.promotedStray && decide (k + 256 ≤ c.cycle) then
      some (c.modWarp w fun wp => wp.modThread l fun t => { t with promoted := some true })
    else none
  | none => none

/-- A gang eligible and unchosen for 1024 cycles is promoted (R151). -/
def Chip.promoteGang (c : Chip) (w l : Nat) : Option Chip :=
  let c := c.settleOf w
  let wp := (c.warp w).anchored c.cycle
  let ready := wp.liveLanes.filter fun k => wp.laneReady c.cycle k && !(wp.thread k).stray
  match (wp.byKey ready).find? fun g => g.contains l with
  | none => none
  | some g =>
    if c.warpRuns w && (g.any fun k => !(wp.thread k).promotedNow) &&
        decide ((g.map fun k => (wp.thread k).eligibleAt).foldl max 0 + 1024 ≤ c.cycle) then
      some (c.modWarp w fun wp => wp.mapLanes g fun _ t => { t with promoted := some false })
    else none

/-- The words from an address up to and including the next trailer, at most n, as far as they can be fetched (R148). -/
def Chip.fetchRun (c : Chip) (w : Nat) : Nat → Word → List Word
  | 0, _ => []
  | n + 1, a =>
    match c.fetchAt w false a with
    | .word x => x :: if x.extractLsb' 24 8 == 1#8 then [] else c.fetchRun w n (a + 4)
    | _ => []

/-- A stray's refill completes (R148). -/
def Chip.refill (c : Chip) (w l : Nat) : Option Chip :=
  let wp := (c.warp w).anchored c.cycle
  let t := wp.thread l
  if t.live && t.stray && !t.tolune && !wp.inRun.getLsbD l && (t.buffered t.pc).isNone then
    some (c.modWarp w fun wp => wp.modThread l fun t => t.bufferRun t.pc (c.fetchRun w 24 t.pc))
  else none

/-- An instruction-cache line arrives: the waiting word can issue, or its lanes are switched off when the scratchpad's
copy is poisoned (R162). -/
def Chip.lineArrives (c : Chip) (w l : Nat) : Option Chip :=
  match (c.warp w).runs.find? fun r => r.2.icWait && r.2.lanes.getLsbD l with
  | none => none
  | some (rid, run) =>
    let c := c.modWarp w fun wp => wp.modRun rid fun r => { r with icWait := false, nextAt := max r.nextAt c.cycle }
    match c.nextWord w rid with
    | .poisoned => some (c.fetchFault w rid 0 run.pc true)
    | _ => some c

/-! ## `dsp` and moves -/

/-- A lane whose `dsp` is complete: a candidate may be held, or stay, or move (R132). -/
def Chip.afterDispatch (c : Chip) (w l n : Nat) (cand : Bool) : Chip :=
  if !(cand && c.movable w l) then c
  else
    let (k, c) := c.choose 2
    if k = 1 then c.modWarp w fun wp => wp.modThread l fun t => { t with waits := t.waits ++ [.hold n] }
    else c.regroup w l n

/-- The carry count and candidacy of a lane whose `dsp` reads are under way. -/
def Thread.dispatching (t : Thread) : Option (Nat × Bool) :=
  t.waits.findSome? fun x => match x with | .dispatch n b => some (n, b) | _ => none

/-- The reads of a group's `dsp` are complete (R131): the lanes that stand at one key go on together, and the warp may
regroup and merge. -/
def Chip.dispatchDone (c : Chip) (w l : Nat) : Option Chip :=
  let wp := c.warp w
  let t := wp.thread l
  if !t.live || t.dispatching.isNone then none
  else
    let ls := wp.liveLanes.filter fun k =>
      let u := wp.thread k
      u.dispatching.isSome && u.key == t.key && u.nextAt == t.nextAt
    let xs := ls.filterMap fun k => (wp.thread k).dispatching.map fun d => (k, d)
    let c := c.modWarp w fun wp => wp.mapLanes ls fun _ t =>
      { t with waits := t.waits.filter fun x => (match x with | .dispatch _ _ => false | _ => true), since := c.cycle }
    let c := xs.foldl (fun c x => c.afterDispatch w x.1 x.2.1 x.2.2) c
    some (c.merge w)

/-- A held candidate is released for regrouping (R132). -/
def Chip.releaseHold (c : Chip) (w l : Nat) : Option Chip :=
  let t := (c.warp w).thread l
  if t.live then t.held.map fun n => c.regroup w l n else none

/-- A moved thread may issue again (R157). -/
def Chip.moveDone (c : Chip) (w l : Nat) : Option Chip :=
  let t := (c.warp w).thread l
  if t.live && t.waits.contains .move then
    some (c.modWarp w fun wp => wp.modThread l fun t => { t with waits := t.waits.filter (· != .move), since := c.cycle })
  else none

/-! ## Tolune -/

/-- The address of the map word that a lane reads at a safe point of depth 0 (R369). A map that the warp cannot read gives no
translation. -/
def Chip.mapAt (c : Chip) (w : Nat) (t : Thread) : Option Word :=
  (c.context (c.warp w).context).tolune.bind fun x =>
    let a := x.2.2 + (t.pc - x.1)
    if t.depth != 0 || !t.safe || decide (t.pc.toNat < x.1.toNat ∨ x.1.toNat + x.2.1 ≤ t.pc.toNat) ||
        (c.check w .load true true a 4).isSome then none
    else some a

/-- The map word of a lane, with its poison; 0 where it reads none. -/
def Chip.mapWord (c : Chip) (w : Nat) (t : Thread) : Word × Bool :=
  match c.mapAt w t with
  | none => (0, false)
  | some a =>
    let x := c.loadBytes w a 4
    (BitVec.ofNat 32 (numOfBytes x.1), x.2)

/-- A lane's map word is covered by an earlier element of the warp whose value is still to come. -/
def Chip.mapWaits (c : Chip) (w : Nat) (t : Thread) : Bool := (c.mapAt w t).any fun a => (c.warp w).owesIn a 4

/-- The lanes of a Tolune group switch to native code where their map word says so; a poisoned word stops its lane
(R369, R65). A safe point's word is read once. The native PC is a multiple of 4: the word's bits 1 and 0 are dropped (R54; log
entry 96). -/
def Chip.switchNative (c : Chip) (w : Nat) (ls : List Nat) : Chip :=
  let wp := c.warp w
  ls.foldl (fun c l =>
    let t := wp.thread l
    let m := c.mapWord w t
    if m.2 then c.stopThread w l t.pc 0 (Stop.of 6)
    else if m.1 = 0 then c.modWarp w fun wp => wp.modThread l fun t => { t with safe := false }
    else c.modWarp w fun wp => wp.modThread l fun t =>
      { t with tolune := false, pc := m.1 &&& 0xFFFFFFFC#32, base := 0, safe := false, since := c.cycle }) c

/-- A lane's Tolune run in progress, whose instruction waits. -/
def Warp.toluneRun (wp : Warp) (l : Nat) : Option (Nat × Run) := wp.runs.find? fun r => r.2.tolune && r.2.lanes.getLsbD l

/-- The lanes of a Tolune group read their map words; those that switch to native code leave it, and the step that follows
issues the instruction for the rest (R52, R369). -/
def State.toluneGo (s : State) (gs : List Cand) (w : Nat) (ls : List Nat) (stray : Bool) : Option State :=
  if ls.any fun k => s.chip.mapWaits w ((s.chip.warp w).thread k) then none
  else
    let c := (s.chip.enterChosen gs w ls).switchNative w ls
    let rest := ls.filter fun k => ((c.warp w).thread k).live && ((c.warp w).thread k).tolune
    if rest.isEmpty then some { s with chip := c }
    else
      let (n, c) := c.startRun w rest stray []
      some ({ s with chip := c }.strayGo w n)

/-- One Tolune instruction of a lane's group: the gang the port chooses when it is free, or the strays whose turn it is (R149,
R151). One that waits in its run goes on there. -/
def State.toluneStep (s : State) (w l : Nat) : Option State :=
  let core := (s.chip.warp w).core
  let port := portOf (s.chip.warp w).slot
  let s := s.settleAt core port
  let pick := s.strayPick core port
  match (s.chip.warp w).toluneRun l with
  | some (rid, run) =>
    if run.stray then if pick.any fun x => x.w == w && x.run == some rid then some (s.strayGo w rid) else none
    else if s.held core port then none else some { s with focus := some (w, rid) }
  | none =>
    match pick.filter fun x => x.w == w && x.run.isNone && x.tolune && x.lanes.contains l with
    | some x => s.toluneGo [] w x.lanes true
    | none =>
      let s := s.awaitPort core port
      let v := s.view core port s.chip.cycle
      match v.chosenGang core port with
      | some g =>
        if g.w == w && g.tolune && g.lanes.contains l && !s.held core port then
          s.toluneGo (v.gangs core port s.chip.cycle) w (v.gangLanes g) false
        else none
      | none => none

/-! ## Meanings -/

/-- TOLUNE_INSTRUCTION (R52). -/
def execToluneInstruction (w l : Nat) (σ : State) : Host.Outcome State Fault Refusal :=
  stateEvent (fun s => s.toluneStep w l) σ

/-- PORT_RUN_CHOICE (R151). -/
def execPortRunChoice (core port : Nat) (σ : State) : Host.Outcome State Fault Refusal :=
  stateEvent (fun s => s.portChoice core port) σ

/-- STRAY_ISSUE (R149). -/
def execStrayIssue (core port : Nat) (σ : State) : Host.Outcome State Fault Refusal :=
  stateEvent (fun s => s.strayIssue core port) σ

/-- STRAY_PROMOTION (R149). -/
def execStrayPromotion (w l : Nat) (σ : State) : Host.Outcome State Fault Refusal :=
  chipEvent (fun c => c.promoteStray w l) σ

/-- GANG_AGING_PROMOTION (R151). -/
def execGangAgingPromotion (w l : Nat) (σ : State) : Host.Outcome State Fault Refusal :=
  chipEvent (fun c => c.promoteGang w l) σ

/-- REGROUP_HOLD_EXPIRY (R132). -/
def execRegroupHoldExpiry (w l : Nat) (σ : State) : Host.Outcome State Fault Refusal :=
  chipEvent (fun c => c.releaseHold w l) σ

/-- LOOP_BUFFER_REFILL (R148). -/
def execLoopBufferRefill (w l : Nat) (σ : State) : Host.Outcome State Fault Refusal :=
  chipEvent (fun c => c.refill w l) σ

/-- DSP_READS_COMPLETE (R131). -/
def execDspReadsComplete (w l : Nat) (σ : State) : Host.Outcome State Fault Refusal :=
  chipEvent (fun c => c.dispatchDone w l) σ

/-- THREAD_MOVE_COMPLETE (R157). -/
def execThreadMoveComplete (w l : Nat) (σ : State) : Host.Outcome State Fault Refusal :=
  chipEvent (fun c => c.moveDone w l) σ

/-- INSTRUCTION_CACHE_REFILL (R162). -/
def execInstructionCacheRefill (w l : Nat) (σ : State) : Host.Outcome State Fault Refusal :=
  chipEvent (fun c => c.lineArrives w l) σ

end Sys2Proof.Machine
end

