-- ==== Sys2Proof/Machine/Blocks.lean ====
section
/-!
DEFINITION. The life of a block and of a launch: starting a warp's threads (R56, R268), stopping a block's engines and
keeping its image (R309 to R312), discarding it, completing, aborting and replaying a launch (R255, R304, R306, R342),
window closing (R251, R252), and fences (R245, R295, R306).
-/

namespace Sys2Proof.Machine

/-! ## Windows -/

/-- Some launch that has not completed requests the window (R252). -/
def Chip.requested (c : Chip) (ctx n : Nat) : Bool :=
  c.launches.any fun e => e.2.context == ctx && e.2.header.wmask.getLsbD n

/-- A window filled with zeros, its written bits clear (R250, R252). -/
def Chip.zeroWindow (c : Chip) (ctx n : Nat) : Chip :=
  let v := (c.context ctx).window n
  { c with scratch := c.scratch.clear v.base v.size }.modContext ctx fun x => x.modWindow n fun v => { v with written := [] }

/-- Changes every window of a context. -/
def Chip.mapWindows (c : Chip) (ctx : Nat) (f : Nat → Window → Window) : Chip :=
  c.modContext ctx fun x => { x with windows := x.windows.map fun e => (e.1, f e.1 e.2) }

/-- Closing windows that no launch requests any longer become closed (R252). -/
def Chip.closeWindows (c : Chip) (ctx : Nat) : Chip :=
  c.mapWindows ctx fun n v =>
    if v.state = .closing ∧ !c.requested ctx n then { v with state := .closed, written := [], owner := none } else v

/-- The launch-private windows of a launch that has completed close (R251). -/
def Chip.closePrivate (c : Chip) (n ctx : Nat) : Chip :=
  c.mapWindows ctx fun _ v =>
    if v.owner = some n then { v with state := .closed, written := [], owner := none } else v

/-! ## Completion of launches -/

/-- One memory with the bytes and marks of one line of another in place of its own. -/
def Ram.putLine (r : Ram) (line : Nat) (x : Ram) : Ram :=
  let r := r.clear (64 * line) 64
  { bytes := x.bytes.foldl (fun m e => Memory.write m e.1 e.2) r.bytes
    marks := x.marks.foldl (fun m k => insertNum k m) r.marks }

/-- Every shadow line and shadow version of a launch is committed (R342). -/
def State.commitShadows (s : State) (n : Nat) : State :=
  let x := s.chip.launch n
  let s := s.onChip fun c => { c with scratch := x.shadowLines.foldl (fun r e => r.putLine e.1 e.2) c.scratch }
  { s with main := x.shadowMain.foldl (fun m e => m.copyPage e.2 e.1) s.main }

/-- The blocks of a launch that are bound or kept as images. -/
def Chip.blocksOf (c : Chip) (n : Nat) : List Nat := (c.blocks.filter fun e => e.2.launch == n).map (·.1)

/-- A launch ends: its shadows are committed unless it is aborted, its held entries and its completion record are posted,
and the windows it kept open may close (R251, R252, R255, R304, R342). -/
def State.finishLaunch (s : State) (n : Nat) (aborted : Bool) : State :=
  match Sparse.find s.chip.launches n with
  | none => s
  | some x =>
    let s := if aborted then s else s.commitShadows n
    let s := x.held.foldl (fun s e => s.postEntry x.context e none) s
    let s := s.postEntry x.context
      (launchEntry 2 x.context x.ident.toNat x.queue x.seq (if aborted then x.discarded else x.done) x.stopped 0
        (s.chip.context x.context) (decide (0 < x.replays)) aborted) (some (.record x.queue x.seq))
    s.onChip fun c =>
      let c := { c with launches := Sparse.erase c.launches n }
      (c.closePrivate n x.context).closeWindows x.context

/-- The parameter block goes back to what it was at acceptance (R342). -/
def Chip.restoreParams (c : Chip) (x : Launch) : Chip :=
  match x.saved with
  | none => c
  | some (a, bs) =>
    let v := (c.context x.context).window (windowOf a)
    { c with scratch := c.scratch.store (v.base + offsetOf a) (bs.take (v.size - offsetOf a)) false }

/-- A launch whose blocks are all discarded is ready to bind again from ordinal 0 (R251, R342). -/
def State.restartLaunch (s : State) (n : Nat) : State :=
  let x := s.chip.launch n
  s.onChip fun c =>
    let own := (c.context x.context).windows.filter fun e => e.2.owner == some n
    let c := own.foldl (fun c e => c.zeroWindow x.context e.1) c
    (c.restoreParams x).modLaunch n fun x => { x with
      status := .accepted, nextOrdinal := 0, done := 0, discarded := 0, stopped := 0
      shadowLines := [], shadowMain := [], held := [], stuck := false }

/-! ## Blocks leave -/

/-- The warps of a block that exist. -/
def Chip.warpsOf (c : Chip) (b : Nat) : List (Nat × Warp) :=
  (c.block b).warps.filterMap fun w => (Sparse.find c.warps w).map fun wp => (w, wp)

/-- The cores on which a bound block is a Crucible user (R186). -/
def Chip.userCores (c : Chip) (b : Nat) : List Nat :=
  (((c.warpsOf b).filter fun e => e.2.usesCrucible).map fun e => e.2.core).eraseDups

/-- A word of the block is in a core's matrix queue, or is to be accepted there again. -/
def Crucible.queues (x : Crucible) (ws : List Nat) : Bool := (x.saved ++ x.queue).any fun e => ws.contains e.warp

/-- The cores on which a bound block holds Crucible state, or words in the queue (R209). -/
def Chip.crucibleCores (c : Chip) (b : Nat) : List Nat :=
  let ws := (c.warpsOf b).map (·.1)
  (c.userCores b ++ (c.crucibles.filter fun e => e.2.queues ws).map (·.1)).eraseDups

/-- A block's part of a core's Crucible: all of its state for a user of it, and the block's words (R186, R209). -/
def Crucible.part (x : Crucible) (ws : List Nat) (user : Bool) : Crucible :=
  let y := if user then x else Crucible.fresh
  { y with queue := (x.saved ++ x.queue).filter fun e => ws.contains e.warp, saved := [] }

/-- What a block leaves there: the words of other blocks. -/
def Crucible.without (x : Crucible) (ws : List Nat) (user : Bool) : Crucible :=
  let y := if user then Crucible.fresh else x
  Crucible.readmit { y with
    queue := x.queue.filter (fun e => !ws.contains e.warp), saved := x.saved.filter fun e => !ws.contains e.warp }

/-- A block leaves the Crucibles of its cores. -/
def Chip.leaveCrucibles (c : Chip) (b : Nat) : Chip :=
  let ws := (c.warpsOf b).map (·.1)
  let users := c.userCores b
  let leave (m : Sparse Crucible) (k : Nat) : Sparse Crucible :=
    Sparse.set Crucible.fresh m k ((c.crucible k).without ws (users.contains k))
  { c with crucibles := (c.crucibleCores b).foldl leave c.crucibles }

/-- A lane or a job still waits for a record's reply. -/
def Chip.openRecord (c : Chip) (r : TrapRec) : Bool :=
  (c.jobs.any fun e => e.2.fault == some r.num) ||
    let wp := c.warp r.warp
    wp.liveLanes.any fun l => (wp.thread l).waits.any fun x => match x with | .trap n _ => n == r.num | _ => false

/-- Posted records that no lane or job waits for are forgotten. -/
def Chip.dropRecords (c : Chip) : Chip := { c with recs := c.recs.filter fun r => r.seq.isNone || c.openRecord r }

/-- A block and everything of it is gone (R311). -/
def State.eraseBlock (s : State) (b : Nat) : State :=
  let k := s.chip.block b
  let s := s.onChip fun c => if k.status = .preempted then c else c.leaveCrucibles b
  let s := s.onChip fun c => Chip.dropRecords { c with
    warps := c.warps.filter fun e => !k.warps.contains e.1
    jobs := c.jobs.filter fun e => e.2.block != b
    services := c.services.filter fun x => !k.warps.contains x.warp
    blocks := Sparse.erase c.blocks b }
  { s with binds := s.binds.filter (fun r => r.block != b), replies := s.replies.filter fun x => x.block != b }

/-- A stopped block is discarded with no image kept: it has an aborted completion record, unless its launch replays
(R304, R342). The last one ends the launch or lets it bind again. -/
def State.discardBlock (s : State) (b : Nat) : State :=
  let k := s.chip.block b
  let n := k.launch
  let x := s.chip.launch n
  let s := s.eraseBlock b
  if x.status = .replaying then
    if (s.chip.blocksOf n).isEmpty then s.restartLaunch n else s
  else
    let s := s.postEntry k.context (blockEntry k.context x.ident.toNat k (decide (0 < x.replays)) true) none
    let s := s.onChip fun c => c.modLaunch n fun x => { x with discarded := x.discarded + 1 }
    if (s.chip.blocksOf n).isEmpty then s.finishLaunch n true else s

/-- A core's Crucible part of a block's image is written, with the resume state of a product (R220, R312). -/
def Chip.writePart (c : Chip) (b core : Nat) : Chip :=
  let x := c.crucible core
  let user := (c.userCores b).contains core
  let part := x.part ((c.warpsOf b).map (·.1)) user
  c.modBlock b fun k => { k with
    parts := Sparse.put k.parts core part
    resume := (if user then x.cur else none).elim k.resume fun u => Sparse.put k.resume core (x.resumeState u) }

/-- Every engine has acknowledged: the block is kept as an image, with the Crucible parts that are still to be written, and its
places are freed (R311, R312). -/
def Chip.freeze (c : Chip) (b : Nat) : Chip :=
  let todo := (c.crucibleCores b).filter fun k => (Sparse.find (c.block b).parts k).isNone
  let ws := (c.warpsOf b).map (·.1)
  let c := (todo.foldl (fun c k => c.writePart b k) c).leaveCrucibles b
  let c := ws.foldl (fun c w => c.modWarp w fun wp => { wp with offCore := true }) c
  c.modBlock b fun k => { k with status := .preempted, owed := [] }

/-- A job that the cluster's RQT works on. -/
def Chip.rqtAt (c : Chip) (b : Nat) : List (Nat × Job) := c.jobs.filter fun e => e.2.block == b && e.2.atRqt

/-- A stop with nothing left to acknowledge is complete (R311). -/
def State.settleStop (s : State) (b : Nat) : State :=
  let k := s.chip.block b
  if k.status != .stopping || !k.owed.isEmpty then s
  else if k.aborting then s.discardBlock b
  else s.onChip fun c => c.freeze b

/-- The engines that hold work of a block (R309): 0 a warp, 1 a Crucible, 2 a Ladle job, 3 an RQT job, 4 the stream
units of a warp, 5 the Tundish unit for a warp. -/
def Chip.engines (c : Chip) (b : Nat) : List (Nat × Nat) :=
  let ws := (c.warpsOf b).filter fun e => !e.2.offCore
  let js := c.jobs.filter fun e => e.2.block == b && (!e.2.isRqt || e.2.atRqt)
  (ws.map fun e => (0, e.1)) ++ ((c.crucibleCores b).map fun k => (1, k)) ++
    (js.map fun e => (if e.2.isRqt then 3 else 2, e.1)) ++
    ((ws.filter fun e => !e.2.streams.isEmpty).map fun e => (4, e.1)) ++
    ((ws.filter fun e => e.2.liveLanes.any fun l => (e.2.thread l).pend.any fun p => p.kind == .tgrab).map fun e => (5, e.1))

/-! ## Starting a warp -/

/-- The role of a number. -/
def Header.role (h : Header) (n : Nat) : Role := h.roles.getD n ⟨0, 0, 0, 0, 0⟩

/-- An address lies in the context's Tolune range (R368). -/
def Context.isTolune (x : Context) (a : Word) : Bool :=
  match x.tolune with
  | none => false
  | some (base, size, _) => decide (base.toNat ≤ a.toNat ∧ a.toNat < base.toNat + size)

/-- A thread at its start (R56, R297, R368, R369). -/
def startThread (h : Header) (entry : Word) (tolune : Bool) (wid : Dword) (ns cycle : Nat) : Thread :=
  { Thread.vacant with
    status := .live, pc := entry, wid := wid, regs := Sparse.set ⟨0, false⟩ [] 0 ⟨h.params, false⟩
    gmode := BitVec.ofNat 2 h.regroup, rentry := entry, rtime := ns, tolune := tolune, safe := tolune
    since := cycle, nextAt := cycle }

/-- A bind record is obeyed: the warp is bound and its threads start (R56, R268). -/
def Chip.startWarp (c : Chip) (r : BindRecord) : Chip :=
  let n := c.launch r.launch
  let k := c.block r.block
  let entry := (n.header.role r.role).entry
  let tolune := (c.context r.context).isTolune entry
  let thread (l : Nat) : Thread :=
    startThread n.header entry tolune (k.bwid + BitVec.ofNat 64 (r.tbase + l)) c.ns c.cycle
  { c with warps := Sparse.put c.warps r.warp { Warp.blank with
      block := r.block, launch := r.launch, context := r.context, role := r.role, core := r.core, slot := r.wslot
      lanes := r.lanes, alloc := r.regs, draw := r.draw, tbase := r.tbase, rbase := r.rbase
      memb := belowMask r.lanes, mthr := 16, stallchk := n.header.stallchk, pbank := n.pbank, pgen := n.pgen
      threads := (List.range r.lanes).map fun l => (l, thread l)
      spillBase := 73728 * r.warp, joinBase := 73728 * r.warp + 65536 } }

/-- A block all of whose bind records are obeyed runs. -/
def State.settleBinding (s : State) (b : Nat) : State :=
  if (s.chip.block b).status = .binding ∧ !(s.binds.any fun r => r.block == b) then
    s.onChip fun c => c.modBlock b fun k => { k with status := .running }
  else s

/-- Obeys every bind record of a block at once. -/
def State.obeyAll (s : State) (b : Nat) : State :=
  let rs := s.binds.filter fun r => r.block == b
  let s := s.onChip fun c => rs.foldl Chip.startWarp c
  State.settleBinding { s with binds := s.binds.filter fun r => r.block != b } b

/-! ## Stops, aborts, replays -/

/-- A stop goes to every engine of a block (R309). A second one joins the first (R311); one that aborts discards a block
that is off its die. -/
def State.requestStop (s : State) (b : Nat) (abort : Bool) : State :=
  match (s.chip.block b).status with
  | .running | .binding =>
    let s := s.obeyAll b
    State.settleStop (s.onChip fun c => c.modBlock b fun k =>
      { k with status := .stopping, aborting := abort, owed := c.engines b, stopAt := c.ns }) b
  | .stopping => s.onChip fun c => c.modBlock b fun k => { k with aborting := k.aborting || abort }
  | .preempted => if abort then s.discardBlock b else s
  | .complete => s

/-- A launch is aborted (R304 action 2): each of its blocks stops and is discarded. -/
def State.abortLaunch (s : State) (n : Nat) : State :=
  match Sparse.find s.chip.launches n with
  | none => s
  | some _ =>
    let s := s.onChip fun c => c.modLaunch n fun x => { x with status := .aborting }
    let bs := s.chip.blocksOf n
    if bs.isEmpty then s.finishLaunch n true else bs.foldl (fun s b => s.requestStop b true) s

/-- A launch is replayed, but not more often than the limit (R342). -/
def State.replayLaunch (s : State) (n : Nat) : State :=
  match Sparse.find s.chip.launches n with
  | none => s
  | some x =>
    if x.status = .aborting then s
    else if Config.replayLimit ≤ x.replays then s.abortLaunch n
    else
      let again := x.status == .replaying
      let s := s.onChip fun c => c.modLaunch n fun x =>
        { x with status := .replaying, replays := if again then x.replays else x.replays + 1 }
      let bs := s.chip.blocksOf n
      if bs.isEmpty then s.restartLaunch n else bs.foldl (fun s b => s.requestStop b true) s

/-- A failure that cannot be pinned to one thread replays a replayable launch, and aborts any other with the context's
sticky pipeline error (R306, R342). -/
def State.failLaunch (s : State) (n : Nat) : State :=
  match Sparse.find s.chip.launches n with
  | none => s
  | some x =>
    if x.replayable then s.replayLaunch n
    else State.abortLaunch (s.onChip fun c => c.modContext x.context fun y => { y with stickyPe := true }) n

/-! ## Fences -/

/-- The contexts with work on a core: a warp bound to it, or a Crucible part saved from it (R295). -/
def Chip.coreContexts (c : Chip) (core : Nat) : List Nat :=
  ((c.warps.filter fun e => e.2.core == core && !e.2.offCore).map fun e => e.2.context) ++
    (c.blocks.filter fun e => (Sparse.find e.2.parts core).isSome).map fun e => e.2.context

/-- A core is fenced: notices, and the blocks with a warp on it are taken off (R162, R295, R302, R306). -/
def State.fenceCore (s : State) (core : Nat) : State :=
  if (s.chip.core core).fenced then s
  else
    let s := (s.notify (s.chip.coreContexts core) 0 core (dieOf core)).onChip fun c =>
      c.modCore core fun k => { k with fenced := true }
    let bs := (s.chip.warps.filter fun e => e.2.core == core && !e.2.offCore).map fun e => e.2.block
    bs.eraseDups.foldl (fun s b => s.requestStop b false) s

/-- The second failures of a region are dealt with (R306 steps 2 to 4). -/
def State.settleFailures (s : State) : State :=
  s.chip.failures.foldl (fun s f => (s.fenceCore f.1).failLaunch f.2) (s.onChip fun c => { c with failures := [] })

/-- Readers and claimants of a ring are released with a value the spec leaves open (R245; log entry 15). -/
def Chip.releaseRing (c : Chip) (b n : Nat) : Chip :=
  let v : Word := Config.freeWord c.freeCount
  { (c.ringKnown b (fun x => match x with | .ring _ known m _ => !known && m == n | _ => false) v) with
    freeCount := c.freeCount + 1 }

/-- Groups that wait for a counter are released (R245). -/
def Chip.releaseCounter (c : Chip) (b n : Nat) : Chip :=
  (c.block b).warps.foldl (fun c w => c.modWarp w fun wp => { wp with threads := wp.threads.map fun e =>
    (e.1, { e.2 with waits := e.2.waits.filter fun x => match x with | .counter _ d _ => d != n | _ => true }) }) c

/-- RING_STATE_ERROR (R245): the machine picks a ring (unit 0 to 15) or a counter (unit 16 and up; log entry 102) of the block;
a notice names it, its waiters are released with the block fenced, and the launch is replayed or aborted. -/
def State.ringError (s : State) (b : Nat) : Option State :=
  let k := s.chip.block b
  let units := k.rings.map (·.1) ++ (List.range k.ndc).map (16 + ·)
  if k.status != .running || k.fenced || units.isEmpty then none
  else
    let (u, c) := s.chip.choose units.length
    let unit := units.getD u 0
    let s := ({ s with chip := c }.notify [k.context] 3 unit k.die).onChip fun c =>
      let c := c.modBlock b fun k => { k with fenced := true }
      if unit < 16 then c.releaseRing b unit else c.releaseCounter b (unit - 16)
    some (s.failLaunch k.launch)

/-- RING_STATE_ERROR (R245). -/
def execRingStateError (b : Nat) (σ : State) : Host.Outcome State Fault Refusal :=
  stateEvent (fun s => s.ringError b) σ

end Sys2Proof.Machine
end

