-- ==== Sys2Proof/Machine/Traps.lean ====
section
/-!
DEFINITION. Trap records on their way to the host (R299 to R302), the replies that return from an event (R303 to R305),
service requests and replies (R351, R352), and the doorbells of rings (R347).
-/

namespace Sys2Proof.Machine

/-! ## Records -/

/-- A trap record as it stands in the ring (R299 to R301). -/
def TrapRec.bytes (r : TrapRec) (seq : Nat) : List Byte :=
  bytesOfNum 4 r.launch.toNat ++ bytesOfNum 4 (16 * r.wslot + 256 * r.core + 65536 * r.context) ++
    bytesOfNum 4 (r.event + 256 * r.reason + 65536 * r.wids.length) ++ bytesOfNum 4 seq ++ bytesOfNum 4 r.npc.toNat ++
    bytesOfNum 4 r.word.toNat ++ bytesOfNum 4 r.rentry.toNat ++ bytesOfNum 4 r.entries.toNat ++
    bytesOfNum 8 r.lmask.toNat ++ bytesOfNum 8 r.info0.toNat ++ bytesOfNum 8 r.info1.toNat ++
    bytesOfNum 8 r.info2.toNat ++ r.wids.flatMap fun w => bytesOfNum 8 w.toNat

/-- A lane is parked on a record. -/
def Thread.parkedOn (t : Thread) (n : Nat) : Bool :=
  t.waits.any fun x => match x with | .trap k _ => k == n | _ => false

/-- The address a lane parked on a record resumes at (R295). -/
def Thread.resumeAt (t : Thread) (n : Nat) : Option Word :=
  t.waits.findSome? fun x => match x with | .trap k a => if k = n then some a else none | _ => none

/-- A record can be posted: the pending results of the lanes it parks are delivered and the named lanes' stores are
performed (R296, R302). -/
def Chip.postable (c : Chip) (r : TrapRec) : Bool :=
  let wp := c.warp r.warp
  r.lmask.lanes.all fun l =>
    let t := wp.thread l
    !(t.live && t.parkedOn r.num && !t.pend.isEmpty) && !(wp.storeQ.any fun x => x.lane == l)

/-- TRAP_RECORD_POST (R302): the first record of a context that can be posted, those of one die in order. -/
def State.postRecord (s : State) (ctx : Nat) : Option State :=
  let rs := s.chip.recs.filter fun r => r.seq.isNone && r.context == ctx
  let front := rs.filter fun r => ((rs.find? fun y => y.die == r.die).map TrapRec.num) == some r.num
  (front.find? s.chip.postable).bind fun r =>
    let seq := ((s.ring ctx 0).getD ⟨0, 0, 0, 0, 0⟩).tail
    (s.ringPut ctx 0 (r.bytes seq)).map fun s =>
      s.onChip fun c => Chip.dropRecords { c with
        recs := c.recs.map fun x => if x.num = r.num then { x with seq := some seq } else x }

/-! ## Replies -/

/-- A lane resumes after a reply (R304): its `gpc` may be written first, and a stall-check mode cleared. -/
def Chip.replyLane (c : Chip) (x : Reply) (r : TrapRec) (l : Nat) : Chip :=
  let t := (c.warp r.warp).thread l
  let c := if x.sgpc then c.modWarp r.warp fun wp => wp.modThread l fun t => { t with gpc := x.gpc } else c
  if x.action = 1 then
    if c.landAt r.warp t.tolune x.pc then
      (c.resume r.warp r.num [l] (fun _ => x.pc) true).modWarp r.warp fun wp => wp.leaveJoins (bit l)
    else c.stopThread r.warp l r.npc r.word ⟨4, 0, x.pc, false⟩
  else c.resume r.warp r.num [l] (fun _ => (t.resumeAt r.num).getD t.rentry) false

/-- The lanes that a reply of actions 0 and 1 names, live ones no longer parked giving one refusal (R304, R305). -/
def State.replyLanes (s : State) (x : Reply) (r : TrapRec) : State :=
  let wp := s.chip.warp r.warp
  let named := x.mask.lanes
  let ls := named.filter fun l => (wp.thread l).live && (wp.thread l).parkedOn r.num
  let late := named.any fun l => (wp.thread l).live && !(wp.thread l).parkedOn r.num
  let s := s.onChip fun c => ls.foldl (fun c l => c.replyLane x r l) c
  if late then s.refuseEntry x.context 1 2 x.index else s

/-- The job of a record. -/
def State.faultJob (s : State) (r : TrapRec) : Option (Nat × Job) :=
  s.chip.jobs.find? fun e => e.2.fault == some r.num

/-- A job names a fenced channel or link: it stops at its next start (R245, R391). -/
def Chip.fencedFor (c : Chip) (j : Job) : Bool :=
  c.fencedChannels.contains (j.unit * 16 + j.chan) || (c.fencedLink j).isSome

/-- A valid reply acts (R304). -/
def State.applyReply (s : State) (x : Reply) (r : TrapRec) : State :=
  let s := if x.nochk then s.onChip fun c =>
      if (Sparse.find c.warps r.warp).isSome then c.modWarp r.warp fun wp => { wp with stallchk := false } else c
    else s
  let s := match x.action with
    | 2 =>
      match s.faultJob r with
      | some e => s.abortLaunch e.2.launch
      | none => s.abortLaunch (s.chip.warp r.warp).launch
    | 3 =>
      match s.faultJob r with
      | some e => s.modJob e.1 fun j => { j with status := if s.chip.fencedFor e.2 then .waiting else .running, fault := none }
      | none => s
    | 4 =>
      match s.faultJob r with
      | some e => s.fatalJob e.1 e.2 (r.info0.extractLsb' 60 4).toNat (r.info0.extractLsb' 0 57).toNat false
      | none => s
    | _ => s.replyLanes x r
  s.onChip Chip.dropRecords

/-- The block whose lanes or job a record parks. -/
def State.recordBlock (s : State) (r : TrapRec) : Nat :=
  match s.faultJob r with
  | some e => e.2.block
  | none => (s.chip.warp r.warp).block

/-- A reply entry of 32 bytes (R303): its record's seq, its fields, and whether a must-be-0 field is not 0. -/
def replyOf (bs : List Byte) (ctx index : Nat) : Reply × Nat × Bool :=
  let g (o n : Nat) : Nat := numOfBytes ((bs.drop o).take n)
  let f : Word := BitVec.ofNat 32 (g 4 4)
  ({ context := ctx, index := index, block := 0, record := 0, action := g 4 1, nochk := f.getLsbD 10, sgpc := f.getLsbD 9, mask := BitVec.ofNat 64 (g 8 8)
     pc := BitVec.ofNat 32 (g 16 4), gpc := BitVec.ofNat 32 (g 20 4) },
    g 0 4, f.extractLsb' 11 21 != 0 || f.getLsbD 8 || g 24 8 != 0)

/-- The action fits the record's event (R304). -/
def actionFits (event action : Nat) : Bool :=
  if action = 2 then true else if event = 9 then action == 3 || action == 4 else action ≤ 1

/-- The posted record a seq names, with a lane or job still parked on it. -/
def Chip.recordAt (c : Chip) (ctx seq : Nat) : Option TrapRec :=
  c.recs.find? fun r => r.context == ctx && r.seq == some seq && c.openRecord r

/-- A valid reply is held for a block that is off its die; so is one for a job that has acknowledged the stop of its block (R305,
R309, R311). -/
def State.holdsReply (s : State) (x : Reply) (r : TrapRec) : Bool :=
  let k := s.chip.block x.block
  k.status == .preempted || (k.status == .stopping && (x.action == 3 || x.action == 4) &&
    (s.faultJob r).any fun e => !k.owed.contains (2, e.1))

/-- A trap reply of one action (R303 to R305): refused, held for a pre-empted block, or applied. A reserved action goes
with action 0. -/
def State.trapReply (s : State) (ctx action : Nat) : Option State :=
  (s.ringPeek ctx 1 1).bind fun u =>
    let (x, seq, bad) := replyOf u.2 ctx u.1
    if x.action != action && !(action = 0 && decide (4 < x.action)) then none
    else
      let s := s.ringTake ctx 1 1
      let refuse (reason : Nat) : Option State := some (s.refuseEntry ctx 1 reason u.1)
      if bad || decide (4 < x.action) then refuse 0
      else
        match s.chip.recordAt ctx seq with
        | none => refuse 2
        | some r =>
          let x := { x with record := r.num, block := s.recordBlock r }
          if !actionFits r.event x.action then refuse 1
          else if x.mask &&& ~~~r.lmask != 0 then refuse 2
          else if s.holdsReply x r then some { s with replies := s.replies ++ [x] }
          else some (s.applyReply x r)

/-- The replies held for a block are applied as it is bound again, in their order; one whose record nothing is parked on any
more is refused (R304, R305, R313). -/
def State.applyHeld (s : State) (b : Nat) : State :=
  (s.replies.filter fun x => x.block == b).foldl (fun s x =>
    match s.chip.recs.find? fun r => r.num == x.record && s.chip.openRecord r with
    | none => s.refuseEntry x.context 1 2 x.index
    | some r => s.applyReply x r) { s with replies := s.replies.filter fun x => x.block != b }

/-! ## Services -/

/-- A warp stands at run boundaries (R309, R351): no run, no pending result that something on its core will deliver, no
read of a `dsp`, no move, and every store performed. A ring result whose slot is not known, and a matrix result whose word
is saved, are kept pending, and with a result that is still to come the stores from its element on. -/
def Warp.quiet (wp : Warp) (queued : Bool) : Bool :=
  wp.runs.isEmpty && (wp.storeQ.head?.all fun x => x.due.isSome) && wp.liveLanes.all fun l =>
    let t := wp.thread l
    (t.pend.all fun p => match p.kind with
      | .ring _ known _ _ => !known
      | .drain | .mstat => queued
      | _ => false) &&
    t.waits.all fun x => match x with
      | .dispatch _ _ | .move => false
      | _ => true

/-- A request entry (R351). -/
def Chip.requestBytes (c : Chip) (x : Service) (seq : Nat) : List Byte :=
  let wp := c.warp x.warp
  let ls := (x.lanes &&& wp.liveMask).lanes
  let arg (l r : Nat) : Nat :=
    let t := wp.thread l
    (t.cellVal (wp.cell t.tolune t (BitVec.ofNat 8 r))).v.toNat
  bytesOfNum 4 (c.launch wp.launch).ident.toNat ++ bytesOfNum 4 (16 * x.wslot + 256 * x.core + 65536 * x.context) ++
    bytesOfNum 4 (x.code + 65536 * ls.length) ++ bytesOfNum 4 seq ++ bytesOfNum 8 (maskOf ls).toNat ++
    bytesOfNum 4 x.npc.toNat ++ bytesOfNum 4 0 ++ bytesOfNum 8 (c.block wp.block).bwid.toNat ++ bytesOfNum 24 0 ++
    (ls.flatMap fun l => (List.range 8).flatMap fun r => bytesOfNum 4 (arg l r)) ++
    ls.flatMap fun l => bytesOfNum 8 (wp.thread l).wid.toNat

/-- A warp leaves its core for its service calls (R351). -/
def Chip.leaveCore (c : Chip) (w : Nat) : Chip :=
  { c.modWarp w (fun wp => { wp with offCore := true }) with
    services := c.services.map fun y => if y.warp = w then { y with unbound := true } else y }

/-- SERVICE_REQUEST_POST (R351 steps 2 to 4): a warp leaves its core once it is quiet, and its entry is written when the ring has
room. The first call that can do either does. -/
def State.postService (s : State) (ctx : Nat) : Option State :=
  let ready := s.chip.services.filter fun x =>
    let wp := s.chip.warp x.warp
    x.seq.isNone && x.context == ctx && (wp.offCore || wp.quiet false) && !(wp.liveMask &&& x.lanes == 0)
  ready.findSome? fun x =>
    let seq := ((s.ring ctx 3).getD ⟨0, 0, 0, 0, 0⟩).tail
    let wp := s.chip.warp x.warp
    let off (s : State) : State := s.onChip fun c => c.leaveCore x.warp
    match s.ringPut ctx 3 (s.chip.requestBytes x seq) with
    | some t =>
      some ((off t).onChip fun c => { c with
        services := c.services.map fun y =>
          if y.num = x.num then { y with seq := some seq, lanes := x.lanes &&& wp.liveMask } else y })
    | none => if wp.offCore then none else some (off s)

/-- A service reply of one action (R352). A reserved action goes with action 0. -/
def State.serviceReply (s : State) (ctx action : Nat) : Option State :=
  (s.ringPeek ctx 4 1).bind fun h =>
    let mask : Mask := BitVec.ofNat 64 (numOfBytes ((h.2.drop 8).take 8))
    let n := mask.lanes.length
    (s.ringPeek ctx 4 (n + 1)).bind fun u =>
      let g (o k : Nat) : Nat := numOfBytes ((u.2.drop o).take k)
      let a := g 4 1
      if a != action && !(action = 0 && a != 2) then none
      else
        let s := s.ringTake ctx 4 (n + 1)
        let refuse (reason : Nat) : Option State := some (s.refuseEntry ctx 2 reason u.1)
        if g 5 3 != 0 || g 16 16 != 0 || (a != 0 && a != 2) then refuse 0
        else
          match s.chip.services.find? fun x => x.seq == some (g 0 4) && !x.replied && x.context == ctx with
          | none => refuse 2
          | some x =>
            if mask &&& ~~~x.lanes != 0 then refuse 2
            else if a = 2 then
              some ((s.onChip fun c => { c with
                services := c.services.map fun y => if y.num = x.num then { y with replied := true } else y }).abortLaunch
                x.launch)
            else if (Sparse.find s.chip.warps x.warp).isNone then
              some (s.onChip fun c => { c with services := c.services.filter fun y => y.num != x.num })
            else
              let ws := mask.lanes.zipIdx.flatMap fun e => (List.range 8).map fun r =>
                (e.1, r, BitVec.ofNat 32 (g (32 + 32 * e.2 + 4 * r) 4))
              some (s.onChip fun c => { c with
                services := c.services.map fun y => if y.num = x.num then { y with replied := true, writes := ws } else y })

/-- A replied call takes effect as its warp is bound again, or at once if it is bound (R352): replacement registers, and the calling lanes go on. -/
def Chip.serviceReturn (c : Chip) (x : Service) : Chip :=
  let c := c.modWarp x.warp fun wp =>
    let wp := x.writes.foldl (fun wp e => wp.modThread e.1 fun t =>
      if t.live then t.setCell (wp.cell t.tolune t (BitVec.ofNat 8 e.2.1)) ⟨e.2.2, false⟩ else t) wp
    wp.mapLanes x.lanes.lanes fun _ t =>
      { t with waits := t.waits.filter (· != .service x.num), since := c.cycle, nextAt := c.cycle }
  { c with services := (c.services.filter fun y => y.num != x.num).map fun y =>
      if y.warp = x.warp then { y with unbound := false } else y }

/-! ## Doorbells -/

/-- An RDOOR write (R345, R347): a new tail of a host-produced ring or a new head of a device-produced one; held entries
and the count of dropped trace records follow when room frees. -/
def State.doorbell (s : State) (v : Dword) : State :=
  let ctx := (v.extractLsb' 48 16).toNat
  let kind := (v.extractLsb' 32 16).toNat
  let n := (v.extractLsb' 0 32).toNat
  let s := { s with regBlock := { s.regBlock with rdoor := v } }
  match s.ring ctx kind with
  | none => if (s.ring 0 2).isSome then s.refuseEntry 0 3 0 kind else s
  | some r =>
    let s := s.setRing ctx kind (if kind = 1 ∨ kind = 4 then { r with tail := n } else { r with head := n })
    (if kind = 5 then s.traceNotice ctx else s).flushEntries

/-! ## Meanings -/

/-- TRAP_RECORD_POST (R302). -/
def execTrapRecordPost (ctx : Nat) (σ : State) : Host.Outcome State Fault Refusal :=
  stateEvent (fun s => s.postRecord ctx) σ

/-- TRAP_REPLY_RESUME (R304). -/
def execTrapReplyResume (ctx : Nat) (σ : State) : Host.Outcome State Fault Refusal :=
  stateEvent (fun s => s.trapReply ctx 0) σ

/-- TRAP_REPLY_REDIRECT (R304). -/
def execTrapReplyRedirect (ctx : Nat) (σ : State) : Host.Outcome State Fault Refusal :=
  stateEvent (fun s => s.trapReply ctx 1) σ

/-- TRAP_REPLY_ABORT (R304). -/
def execTrapReplyAbort (ctx : Nat) (σ : State) : Host.Outcome State Fault Refusal :=
  stateEvent (fun s => s.trapReply ctx 2) σ

/-- TRAP_REPLY_CHUNK_SERVICED (R304). -/
def execTrapReplyChunkServiced (ctx : Nat) (σ : State) : Host.Outcome State Fault Refusal :=
  stateEvent (fun s => s.trapReply ctx 3) σ

/-- TRAP_REPLY_CHUNK_FATAL (R304). -/
def execTrapReplyChunkFatal (ctx : Nat) (σ : State) : Host.Outcome State Fault Refusal :=
  stateEvent (fun s => s.trapReply ctx 4) σ

/-- SERVICE_REQUEST_POST (R351). -/
def execServiceRequestPost (ctx : Nat) (σ : State) : Host.Outcome State Fault Refusal :=
  stateEvent (fun s => s.postService ctx) σ

/-- SERVICE_REPLY_RESUME (R352). -/
def execServiceReplyResume (ctx : Nat) (σ : State) : Host.Outcome State Fault Refusal :=
  stateEvent (fun s => s.serviceReply ctx 0) σ

/-- SERVICE_REPLY_ABORT (R352). -/
def execServiceReplyAbort (ctx : Nat) (σ : State) : Host.Outcome State Fault Refusal :=
  stateEvent (fun s => s.serviceReply ctx 2) σ

/-- RING_HEAD_RELEASE (R347). -/
def execRingHeadRelease (v : Nat) (σ : State) : Host.Outcome State Fault Refusal :=
  stateEvent (fun s => some (s.doorbell (BitVec.ofNat 64 v))) σ

end Sys2Proof.Machine
end

