-- ==== Sys2Proof/Machine/Ferry.lean ====
section
/-!
DEFINITION. The Ferryman's scheduling: launch records and headers (R257 to R263), the choice of a head (R264, R265), where
a block fits (R266, R267), binding and its refusal (R268, R269), pre-emption for room (R271, R272), restoring a block
(R313), unbinding and completion (R255, R270).
-/

namespace Sys2Proof.Machine

/-! ## Room on the cores -/

/-- What stands in a warp slot of a core: a warp, or a bind record not yet obeyed. -/
structure Occupant where
  slot : Nat
  /-- Register range, in units of 8 registers. -/
  first : Nat
  units : Nat
  draw : Nat
  block : Nat
  deriving DecidableEq, Repr

/-- The occupants of a core, but for those of some blocks. -/
def State.occupants (s : State) (core : Nat) (gone : List Nat) : List Occupant :=
  (((s.chip.warps.filter fun e => e.2.core == core && !e.2.offCore).map fun e =>
      (⟨e.2.slot, e.2.rbase, e.2.lanes * e.2.alloc / 8, e.2.draw, e.2.block⟩ : Occupant)) ++
    (s.binds.filter fun r => r.core == core).map fun r =>
      (⟨r.wslot, r.rbase, r.lanes * r.regs / 8, r.draw, r.block⟩ : Occupant)).filter fun x => !gone.contains x.block

/-- The blocks whose Crucible state a core keeps for warps that a service call took off it (R352). -/
def Chip.keptCrucible (c : Chip) (core : Nat) (gone : List Nat) : List Nat :=
  (c.warps.filter fun e => e.2.core == core && e.2.offCore && e.2.usesCrucible &&
    (c.block e.2.block).status != .preempted && !gone.contains e.2.block).map fun e => e.2.block

/-- The register file of a core, in units of 8 registers (R158). -/
def fileUnits : Nat := 16384

/-- A register range is free. -/
def rangeFree (xs : List Occupant) (units base : Nat) : Bool :=
  decide (base + units ≤ fileUnits) && xs.all fun x => decide (base + units ≤ x.first ∨ x.first + x.units ≤ base)

/-- The least of some numbers. -/
def least : List Nat → Option Nat
  | [] => none
  | x :: r => some (r.foldl min x)

/-- The lowest free register range of some units. -/
def freeRange (xs : List Occupant) (units : Nat) : Option Nat :=
  least ((0 :: xs.map fun x => x.first + x.units).filter (rangeFree xs units))

/-- A warp to place: a key, its lanes, registers and draw. -/
structure Placing where
  key : Nat
  lanes : Nat
  regs : Nat
  draw : Nat
  deriving DecidableEq, Repr

/-- A warp's place. -/
structure Seat where
  of : Placing
  core : Nat
  slot : Nat
  rbase : Nat
  deriving DecidableEq, Repr

/-- A warp of a block on one core, with the warps already placed there (R266, R267). -/
def State.seatOn (s : State) (gone : List Nat) (blk : Nat) (placed : List Seat) (p : Placing) (core : Nat) : Option Seat :=
  let here := placed.filter fun x => x.core == core
  let xs := s.occupants core gone ++ here.map fun x =>
    (⟨x.slot, x.rbase, x.of.lanes * x.of.regs / 8, x.of.draw, blk⟩ : Occupant)
  let k := s.chip.core core
  let users := (xs.filter fun x => decide (32 ≤ x.draw)).map (·.block) ++ s.chip.keptCrucible core gone
  let slot := (List.range 16).find? fun i => !(xs.any fun x => x.slot == i) && !k.fencedSlots.contains i
  if k.fenced || decide (64 < (xs.map (·.draw)).foldl (· + ·) 0 + p.draw) ||
      (decide (32 ≤ p.draw) && users.any fun b => b != blk) then none
  else
    match slot, freeRange xs (p.lanes * p.regs / 8) with
    | some i, some base => some ⟨p, core, i, base⟩
    | _, _ => none

/-- Warps that go on one core together. -/
def State.seatGroup (s : State) (gone : List Nat) (blk core : Nat) : List Seat → List Placing → Option (List Seat)
  | placed, [] => some placed
  | placed, p :: r =>
    match s.seatOn gone blk placed p core with
    | none => none
    | some x => State.seatGroup s gone blk core (placed ++ [x]) r

/-- Groups of warps in order, each on the lowest core of a cluster where it fits (R267). -/
def State.seatAll (s : State) (gone : List Nat) (blk cluster : Nat) : List Seat → List (List Placing) → Option (List Seat)
  | placed, [] => some placed
  | placed, g :: r =>
    match (List.range 8).findSome? fun k => s.seatGroup gone blk (8 * cluster + k) placed g with
    | none => none
    | some xs => State.seatAll s gone blk cluster xs r

/-- The blocks that hold places in a cluster of the package. -/
def Chip.clusterBlocks (c : Chip) (cluster : Nat) (gone : List Nat) : List Block :=
  ((c.blocks.filter fun e => e.2.die * 6 + e.2.cluster == cluster && !gone.contains e.1 &&
    (e.2.status == .binding || e.2.status == .running || e.2.status == .stopping)).map (·.2))

/-- Shared memory of a block: its bytes rounded up to 4 KiB (R225, R266). -/
def sharedRound (n : Nat) : Nat := (n + 4095) / 4096 * 4096

/-- The lowest free range of a cluster's shared memory. -/
def freeShared (bs : List Block) (size : Nat) : Option Nat :=
  least ((0 :: bs.map fun b => b.sharedBase + b.sharedSize).filter fun a =>
    decide (a + size ≤ 0x400000) && bs.all fun b => decide (a + size ≤ b.sharedBase ∨ b.sharedBase + b.sharedSize ≤ a))

/-- The rings a header asks for. -/
def Header.ringCount (h : Header) : Nat := h.rings.length

/-- A block's places in a cluster: its shared base and its warps' seats (R266). -/
def State.fitCluster (s : State) (gone : List Nat) (blk : Nat) (h : Header) (gs : List (List Placing)) (cluster : Nat) :
    Option (Nat × List Seat) :=
  let bs := s.chip.clusterBlocks cluster gone
  if decide (64 < (bs.map (·.ndc)).foldl (· + ·) 0 + h.ndc) ||
      decide (16 < (bs.map fun b => b.rings.length).foldl (· + ·) 0 + h.ringCount) then none
  else
    match freeShared bs (sharedRound h.shared), s.seatAll gone blk cluster [] gs with
    | some a, some xs => some (a, xs)
    | _, _ => none

/-- The clusters of a die that a header names (R260), by their number in the package. -/
def Header.clusters (h : Header) (die : Nat) : List Nat :=
  ((List.range 6).map fun k => 6 * die + k).filter fun k => h.cmask.getLsbD k

/-- Free register units of a cluster. -/
def State.freeUnits (s : State) (cluster : Nat) : Nat :=
  ((List.range 8).map fun k => fileUnits - ((s.occupants (8 * cluster + k) []).map (·.units)).foldl (· + ·) 0).foldl (· + ·) 0

/-- The cluster of a die that a block goes to: the one with the fewest free register bytes (R267). -/
def State.fit (s : State) (blk die : Nat) (h : Header) (gs : List (List Placing)) : Option (Nat × Nat × List Seat) :=
  (h.clusters die).foldl (fun best k =>
    match s.fitCluster [] blk h gs k with
    | none => best
    | some p =>
      match best with
      | some b => if s.freeUnits k < s.freeUnits b.1 then some (k, p) else best
      | none => some (k, p)) none

/-- The warps of a new block in role order, each its own group (R267); the key is the warp's index. -/
def Header.placings (h : Header) : List (List Placing) :=
  ((h.roles.flatMap fun r => List.replicate r.warps (r.lanes, r.regs, r.draw)).zipIdx).map fun x =>
    [⟨x.2, x.1.1, x.1.2.1, x.1.2.2⟩]

/-! ## Reading records and headers -/

/-- Bytes of a context's main memory, read through its tables 64 at a time; none when a walk or a byte fails. -/
def State.mainRead (s : State) (ctx va : Nat) : Nat → Option (List Byte)
  | 0 => some []
  | n + 1 =>
    match s.walk ctx va true false with
    | .page p _ _ =>
      let a := p * 65536 + va % 65536
      if (List.range 8).any fun i => s.main.poisoned (a + 8 * i) then none
      else (s.mainRead ctx (va + 64) n).map fun r => s.main.bytes.readBytes a 64 ++ r
    | _ => none

/-- A launch record (R263). -/
structure LaunchRecord where
  hdr : Nat
  kind : Nat
  serial : Bool
  ctx : Nat
  waits : List (Nat × Nat)
  /-- A must-be-0 field is not 0, or the header is not aligned. -/
  bad : Bool
  deriving DecidableEq, Repr

/-- The number in some bytes of a list. -/
def field (bs : List Byte) (o n : Nat) : Nat := numOfBytes ((bs.drop o).take n)
/-- Some bits of a number. -/
def bitsOf (v lo n : Nat) : Nat := v / 2 ^ lo % 2 ^ n

def recordOf (bs : List Byte) : LaunchRecord :=
  let a := field bs 0 8
  let b := field bs 8 4
  let ws := (List.range 4).map fun i => field bs (16 + 8 * i) 8
  { hdr := bitsOf a 0 57, kind := bitsOf b 16 4, serial := bitsOf b 0 1 = 1, ctx := field bs 12 4
    waits := (ws.filter fun w => bitsOf w 8 1 == 1).map fun w => (bitsOf w 0 6, bitsOf w 16 48)
    bad := bitsOf a 57 7 != 0 || bitsOf a 0 6 != 0 || bitsOf b 20 12 != 0 || bitsOf b 1 15 != 0 ||
      (ws.any fun w => bitsOf w 9 7 != 0 || bitsOf w 6 2 != 0) || field bs 48 16 != 0 }

/-- The head record of a queue, when the host has posted one (R347). -/
def State.headRecord (s : State) (q : Nat) : Option LaunchRecord :=
  let x := s.queue q
  if !x.defined || s.slipwayFenced || (x.tail + 2 ^ 32 - x.head % 2 ^ 32) % 2 ^ 32 = 0 then none
  else some (recordOf (s.hostRead x.asid (x.base + x.head % 2 ^ x.size * 64) 64))

/-- The head record is consumed, and the new head written to the index word (R347). -/
def State.takeRecord (s : State) (q : Nat) : State :=
  let x := s.queue q
  (s.modQueue q fun x => { x with head := x.head + 1 }).hostWrite x.asid x.index (bytesOfNum 4 ((x.head + 1) % 2 ^ 32))

/-- A launch header as its bytes give it (R257 to R260). -/
def headerOf (bs : List Byte) : Header :=
  let w0 := field bs 0 4
  let role (i : Nat) : Role :=
    let v := field bs (0x54 + 16 * i) 4
    { entry := BitVec.ofNat 32 (field bs (0x50 + 16 * i) 4), draw := bitsOf v 24 8, lanes := 4 * bitsOf v 16 8
      warps := bitsOf v 8 8, regs := 8 * bitsOf v 0 8 }
  let ring (i : Nat) : Nat := field bs (0x90 + 4 * i) 4
  { regroup := bitsOf w0 4 2, stallchk := bitsOf w0 1 1 = 1, replay := bitsOf w0 0 1 = 1, shared := field bs 4 4
    params := BitVec.ofNat 32 (field bs 8 4), gtrap := BitVec.ofNat 32 (field bs 12 4)
    wmask := BitVec.ofNat 14 (field bs 16 2)
    fields := (List.range (min 6 (field bs 0x12 1))).map fun i => (field bs (0x20 + 8 * i) 1 % 128, field bs (0x24 + 8 * i) 4 + 1)
    roles := (List.range (min 4 (field bs 0x13 1))).map role
    ndc := field bs 0x14 1
    rings := ((List.range 16).filter fun i => bitsOf (ring i) 31 1 == 1).map fun i =>
      (256 * bitsOf (ring i) 0 14, 2 ^ (bitsOf (ring i) 15 4 + 4), bitsOf (ring i) 19 12 + 1)
    cmask := BitVec.ofNat 24 (field bs 0xD0 3)
    first := (List.range 4).map fun d => field bs (0xD8 + 8 * d) 8 }

/-- The blocks of a launch (R262). -/
def Header.blockCount (h : Header) : Nat := (h.fields.drop 1).foldl (fun n f => n * f.2) 1
/-- The threads of a block (R258). -/
def Header.threads (h : Header) : Nat := (h.roles.map fun r => r.warps * r.lanes).foldl (· + ·) 0

/-- A must-be-0 field is not 0 or a field lies outside its limits (R261 why 1). The slot size of a ring entry that
asks for no ring is not judged (log entry 123). -/
def badLimits (bs : List Byte) (h : Header) : Bool :=
  let w0 := field bs 0 4
  bitsOf w0 12 20 != 0 || bitsOf w0 6 2 != 0 || bitsOf w0 2 2 != 0 || decide (0x400000 < h.shared) ||
    bitsOf (field bs 16 2) 14 2 != 0 || !decide (1 ≤ field bs 0x12 1 ∧ field bs 0x12 1 ≤ 6) ||
    !decide (1 ≤ field bs 0x13 1 ∧ field bs 0x13 1 ≤ 4) || decide (64 < h.ndc) || field bs 0x15 11 != 0 ||
    (h.fields.zipIdx.any fun f => !decide (1 ≤ f.1.1 ∧ f.1.1 ≤ 64) || bitsOf (field bs (0x20 + 8 * f.2) 4) 7 25 != 0) ||
    (h.roles.zipIdx.any fun r => decide (64 < r.1.draw) || !decide (4 ≤ r.1.lanes ∧ r.1.lanes ≤ 64) ||
      !decide (1 ≤ r.1.warps ∧ r.1.warps ≤ 16) || !decide (8 ≤ r.1.regs ∧ r.1.regs ≤ 256) ||
      field bs (0x58 + 16 * r.2) 8 != 0) ||
    ((List.range 16).any fun i =>
      let v := field bs (0x90 + 4 * i) 4
      bitsOf v 14 1 != 0 || (bitsOf v 31 1 == 1 && decide (12 < bitsOf v 15 4))) ||
    field bs 0xD3 5 != 0 || field bs 0xF8 8 != 0

/-- An address lies in a window of the mask with a permission (R261 why 4). -/
def Context.reaches (x : Context) (h : Header) (a : Word) (f : Window → Bool) : Bool :=
  let v := x.window (windowOf a)
  decide (windowOf a < 14) && h.wmask.getLsbD (windowOf a) && decide (offsetOf a < v.size) && f v

/-- An entry or parameter address lies outside the windows (R261 why 4). -/
def badAddresses (x : Context) (h : Header) : Bool :=
  (h.roles.any fun r => !x.reaches h r.entry Window.px) || (h.gtrap != 0 && !x.reaches h h.gtrap Window.px) ||
    (h.params != 0 && !x.reaches h h.params Window.pr)

/-- The first ordinals rise, from 0, and a die that takes blocks has a cluster (R260). -/
def Header.badPlacement (h : Header) : Bool :=
  let f := h.first ++ [h.blockCount]
  f.getD 0 0 != 0 || (List.range 4).any fun d =>
    decide (f.getD (d + 1) 0 < f.getD d 0) || (decide (f.getD d 0 < f.getD (d + 1) 0) && (h.clusters d).isEmpty)

/-- A field, role, ring or placement rule is broken (R261 why 5). -/
def badRules (bs : List Byte) (h : Header) : Bool :=
  field bs (0x20 + 8 * h.fields.length) (8 * (6 - h.fields.length)) != 0 ||
    field bs (0x50 + 16 * h.roles.length) (16 * (4 - h.roles.length)) != 0 ||
    (h.roles.any fun r => r.entry.extractLsb' 0 2 != 0) ||
    decide (64 < (h.fields.map (·.1)).foldl (· + ·) 0) || (h.fields.any fun f => decide (2 ^ f.1 < f.2)) ||
    (h.fields.headD (0, 0)).2 != h.threads || decide (1024 < h.threads) ||
    ((List.range 15).any fun i => bitsOf (field bs (0x90 + 4 * i) 4) 31 1 == 0 &&
      bitsOf (field bs (0x94 + 4 * i) 4) 31 1 == 1) ||
    (h.rings.any fun r => decide (h.shared < r.1 + r.2.2 * r.2.1)) || h.badPlacement

/-- The windows of a mask. -/
def Header.windows (h : Header) : List Nat := (List.range 14).filter fun n => h.wmask.getLsbD n

/-- The block can never fit an empty cluster (R272): it has more Crucible-using warps than a cluster has cores, or the layout
fails on a machine with nothing bound. -/
def Header.neverFits (h : Header) : Bool :=
  decide (8 < (h.placings.flatten.filter fun p => decide (32 ≤ p.draw)).length) ||
    (State.reset.seatAll [] 0 0 [] h.placings).isNone

/-- The reason a launch is refused (R261, R308), the lowest that applies. A window that is not open yet leaves the addresses
to be judged later. -/
def State.launchWhy (s : State) (q seq : Nat) (r : LaunchRecord) (bs : List Byte) (h : Header) : Option Nat :=
  let x := s.chip.context r.ctx
  let opened := h.windows.all fun n => (x.window n).state == .opened || (x.window n).state == .closing
  if badLimits bs h then some 1
  else if bitsOf (field bs 0 4) 8 4 != 1 then some 2
  else if h.regroup = 3 then some 3
  else if opened && badAddresses x h then some 4
  else if badRules bs h then some 5
  else if h.windows.any fun n => (x.window n).state == .closing then some 6
  else if h.neverFits then some 7
  else if r.waits.any fun w => w.1 == q && decide (seq ≤ w.2) then some 8
  else if h.windows.any fun n => (x.window n).priv && (x.window n).owner.isSome then some 11
  else none

/-! ## Accepting records -/

/-- Some launch of a queue has blocks it has not bound (R264). -/
def State.serving (s : State) (q : Nat) : Bool :=
  s.chip.launches.any fun e => e.2.queue == q && e.2.status != .aborting && decide (e.2.nextOrdinal < e.2.blocks)

/-- The queue may give up its head record: its context is not suspended and nothing holds it (R264, R328, R348). -/
def State.queueFree (s : State) (q : Nat) : Bool :=
  let x := s.queue q
  s.regBlock.ready && !s.serving q && x.heldBy.isNone && !(s.chip.context x.owner).suspended

/-- Waits and the serial condition of a head record are met (R263, R265). -/
def State.waitsMet (s : State) (q : Nat) (r : LaunchRecord) : Bool :=
  (!r.serial || decide ((s.queue q).head ≤ (s.queue q).completedBelow)) && r.waits.all fun w => (s.queue w.1).done w.2

/-- A record of the queue is refused (R261, R308): its entry stands in place of a completion record, in the ring
of the context it names; where no such context is defined, in the owner's. -/
def State.refuseRecord (s : State) (q : Nat) (r : LaunchRecord) (why : Nat) : State :=
  let x := s.queue q
  let ctx := if (s.chip.context r.ctx).defined then r.ctx else x.owner
  (s.takeRecord q).postEntry ctx (launchEntry 3 ctx 0 q x.head 0 0 why (s.chip.context ctx) false false) (some (.record q x.head))

/-- The record's own fields break R263 or R347. -/
def State.badRecord (s : State) (q : Nat) (r : LaunchRecord) : Bool :=
  r.bad || !(r.ctx == (s.queue q).owner || r.ctx == 0) || !(s.chip.context r.ctx).defined

/-- A launch identifier that no other launch of the context has: the machine's choice, or the first free one from the
launch's own number (R55; log entry 3). -/
def Chip.launchIdent (c : Chip) (ctx n : Nat) : Word × Chip :=
  let (k, c) := c.choose (2 ^ 32)
  let free (v : Word) : Bool := !(c.launches.any fun e => e.2.context == ctx && e.2.ident == v)
  let own := (List.range (c.launches.length + 1)).map fun i => BitVec.ofNat 32 (n + i)
  let v : Word := BitVec.ofNat 32 k
  (if k != 0 && free v then v else (own.find? free).getD (BitVec.ofNat 32 n), c)

/-- The 4 KiB parameter block of a replayable launch, as far as its window goes (R342). -/
def Chip.savedParams (c : Chip) (ctx : Nat) (h : Header) : Option (Word × List Byte) :=
  if h.replay && h.params != 0 then
    let v := (c.context ctx).window (windowOf h.params)
    some (h.params, c.scratch.bytes.readBytes (v.base + offsetOf h.params) (min 4096 (v.size - offsetOf h.params)))
  else none

/-- A launch is accepted (R55, R251, R257, R263). -/
def State.accept (s : State) (q : Nat) (r : LaunchRecord) (h : Header) : State :=
  let x := s.queue q
  let cls := (s.classes.find? fun e => e.1 == r.ctx && e.2.1 == r.hdr).elim 0 fun e => e.2.2
  (s.takeRecord q).onChip fun c =>
    let (n, c) := c.fresh
    let (ident, c) := c.launchIdent r.ctx n
    let launch : Launch := { Launch.blank with
      ident := ident, context := r.ctx, queue := q, seq := x.head, header := h, serial := r.serial, waits := r.waits
      status := .accepted, blocks := h.blockCount, cls := cls, replayable := h.replay, saved := c.savedParams r.ctx h }
    let c := { c with launches := Sparse.put c.launches n launch }
    c.mapWindows r.ctx fun k v => if v.priv && h.wmask.getLsbD k && v.state == .opened then { v with owner := some n } else v

/-- LAUNCH_RECORD (R261, R263, R265). A record of a reserved kind is refused here. -/
def State.launchRecord (s : State) (q : Nat) : Option State :=
  (s.headRecord q).bind fun r =>
    if !s.queueFree q || r.kind = 1 || r.kind = 2 then none
    else if s.badRecord q r || r.kind != 0 then some (s.refuseRecord q r 1)
    else
      let self := r.waits.any fun w => w.1 == q && decide ((s.queue q).head ≤ w.2)
      if !self && !s.waitsMet q r then none
      else
        match s.mainRead r.ctx r.hdr 4 with
        | none => some (s.refuseRecord q r 1)
        | some bs =>
          let h := headerOf bs
          match s.launchWhy q (s.queue q).head r bs h with
          | some why => some (s.refuseRecord q r why)
          | none =>
            if h.windows.all fun n => ((s.chip.context r.ctx).window n).state == .opened then some (s.accept q r h) else none

/-- MARKER_RECORD (R263). -/
def State.markerRecord (s : State) (q : Nat) : Option State :=
  (s.headRecord q).bind fun r =>
    let x := s.queue q
    if !s.queueFree q || r.kind != 2 then none
    else if s.badRecord q r then some (s.refuseRecord q r 1)
    else if r.waits.any fun w => w.1 == q && decide (x.head ≤ w.2) then some (s.refuseRecord q r 8)
    else if !s.waitsMet q r || decide (x.completedBelow < x.head) then none
    else some ((s.takeRecord q).postEntry r.ctx (launchEntry 2 r.ctx 0 q x.head 0 0 0 (s.chip.context r.ctx) false false)
      (some (.record q x.head)))

/-! ## The choice -/

/-- The die of a block ordinal (R260). -/
def Header.dieOfOrdinal (h : Header) (o : Nat) : Nat :=
  (List.range 4).foldl (fun d k => if h.first.getD k 0 ≤ o then k else d) 0

/-- What a queue has to bind: an image to restore, or the next block of a launch. -/
inductive BindWork where
  | restore (b : Nat)
  | next (n : Nat)
  deriving DecidableEq, Repr

/-- A launch may bind: not suspended, stuck, aborted or replaying, and no live sweep under way (R272, R328, R348). -/
def State.mayBind (s : State) (n : Launch) : Bool :=
  (n.status == .accepted || n.status == .running) && !(s.chip.context n.context).suspended &&
    !(s.chip.context (s.queue n.queue).owner).suspended && !(s.activation.any fun a => a.live)

/-- The launches of a queue in the order of their records. -/
def State.queueLaunches (s : State) (q : Nat) : List (Nat × Launch) := s.chip.launches.filter fun e => e.2.queue == q

/-- What a queue has to bind next on a die: pre-empted blocks before blocks not yet started (R264, R271). -/
def State.bindWork (s : State) (q die : Nat) : Option BindWork :=
  let ls := (s.queueLaunches q).filter fun e => s.mayBind e.2
  let images (n : Nat) : List (Nat × Block) := s.chip.blocks.filter fun e => e.2.launch == n && e.2.status == .preempted
  let restore := ls.findSome? fun e => ((images e.1).find? fun b => b.2.die == die).map fun b => BindWork.restore b.1
  restore.or ((ls.find? fun e => decide (e.2.nextOrdinal < e.2.blocks)).bind fun e =>
    if (images e.1).isEmpty && !e.2.stuck && e.2.header.dieOfOrdinal e.2.nextOrdinal == die then some (.next e.1) else none)

/-- The queues with work for a die, in the order of R264: priority, then round robin after the queue served last. -/
def State.bindOrder (s : State) (die : Nat) : List (Nat × BindWork) :=
  let last := s.lastServed.getD 63
  let turn := (List.range 64).map fun i => (last + 1 + i) % 64
  let xs := turn.filterMap fun q => if (s.queue q).defined then (s.bindWork q die).map fun w => (q, w) else none
  let prio (x : Nat × BindWork) : Nat :=
    match x.2 with
    | .next _ => if (s.queue x.1).aged then 3 else (s.queue x.1).prio
    | .restore _ => (s.queue x.1).prio
  [3, 2, 1, 0].flatMap fun p => xs.filter fun x => prio x == p

/-! ## Binding -/

/-- The block's work identifier with field 0 = 0 (R262). -/
def blockWid : List (Nat × Nat) → Nat → Nat → Nat
  | [], _, _ => 0
  | (w, ext) :: r, shift, o => o % ext * 2 ^ shift + blockWid r (shift + w) (o / ext)

/-- A queue has been served (R264). -/
def State.served (s : State) (q : Nat) : State :=
  { s with lastServed := some q }.modQueue q fun x => { x with readyAt := none, aged := false }

/-- The rings of a block at bind (R235). -/
def Header.ringsAtBind (h : Header) : Sparse Ring :=
  h.rings.zipIdx.map fun r => (r.2, { Ring.blank with off := r.1.1, size := r.1.2.1, count := r.1.2.2, free := r.1.2.2 })

/-- The roles of the warps of a block, in order, with the thread index each begins at (R262). -/
def Header.warpRoles (h : Header) : List (Nat × Nat) :=
  let rs := h.roles.zipIdx.flatMap fun r => List.replicate r.1.warps (r.2, r.1.lanes)
  (rs.foldl (fun (acc : List (Nat × Nat) × Nat) r => (acc.1 ++ [(r.1, acc.2)], acc.2 + r.2)) ([], 0)).1

/-- A Crucible that a block's users enter holds nothing of another block but queued words (R185, R186). -/
def Crucible.vacated (x : Crucible) : Crucible := { Crucible.fresh with queue := x.queue, saved := x.saved }

/-- The next block of a launch is bound: one bind record for each of its warps (R266 to R268, R327). The Crucibles of its
users are reset (R185, R186); a word of another block that needs none of their state stays queued. -/
def State.bindNext (s : State) (n : Nat) (place : Nat × Nat × List Seat) : State :=
  let x := s.chip.launch n
  let h := x.header
  let (b, c) := s.chip.fresh
  let seats : List Seat := place.2.2
  let base := c.next
  let users := (seats.filter fun (t : Seat) => decide (32 ≤ t.of.draw)).map Seat.core
  let block : Block := { Block.blank with
    launch := n, context := x.context, ordinal := x.nextOrdinal
    bwid := BitVec.ofNat 64 (blockWid (h.fields.drop 1) ((h.fields.headD (0, 0)).1) x.nextOrdinal)
    die := place.1 / 6, cluster := place.1 % 6, status := .binding, warps := (List.range seats.length).map fun i => base + i
    sharedBase := place.2.1, sharedSize := sharedRound h.shared, ndc := h.ndc, rings := h.ringsAtBind, threads := h.threads }
  let c := { c with
    next := base + seats.length
    crucibles := users.foldl (fun m k => Sparse.set Crucible.fresh m k (c.crucible k).vacated) c.crucibles
    blocks := Sparse.put c.blocks b block }
  let c := c.modLaunch n fun x => { x with
    status := .running, nextOrdinal := x.nextOrdinal + 1, bankBound := true
    pbank := if x.bankBound then x.pbank else c.bank, pgen := if x.bankBound then x.pgen else c.gen }
  let records := seats.map fun t =>
    let r := h.warpRoles.getD t.of.key (0, 0)
    (⟨t.core, t.slot, x.context, n, b, r.1, t.of.lanes, r.2, t.rbase, t.of.regs, t.of.draw, base + t.of.key⟩ : BindRecord)
  { s with chip := c, binds := s.binds ++ records }

/-- The warps of an image as groups to place: those that shared a core's Crucible go together (R313). -/
def Chip.imageGroups (c : Chip) (b : Nat) : List (List Placing) :=
  let ws : List (Nat × Warp) := c.warpsOf b
  let p (e : Nat × Warp) : Placing := ⟨e.1, e.2.lanes, e.2.alloc, e.2.draw⟩
  let cores := ((ws.filter fun e => e.2.usesCrucible).map fun e => e.2.core).eraseDups
  (cores.map fun k => (ws.filter fun e => e.2.usesCrucible && e.2.core == k).map p) ++
    (ws.filter fun e => !e.2.usesCrucible).map fun e => [p e]

/-- The new numbers of a block's jobs and queued matrix words, in their old order (R313). -/
def Chip.renumber (c : Chip) (b : Nat) : Chip :=
  let k := c.block b
  let mine : List (Nat × Job) := c.jobs.filter fun (e : Nat × Job) => e.2.block == b
  let queued := k.parts.flatMap fun (x : Nat × Crucible) => x.2.queue.map MatrixEntry.num
  let ids := (mine.map (·.1) ++ queued).foldl (fun m n => insertNum n m) []
  let new (n : Nat) : Nat := if ids.contains n then c.next + ids.idxOf n else n
  let c' : Chip := { c with
    next := c.next + ids.length
    jobs := mine.foldl (fun (js : Sparse Job) (e : Nat × Job) => Sparse.put js (new e.1) e.2) (c.jobs.filter fun (e : Nat × Job) => e.2.block != b)
    recs := c.recs.map fun (r : TrapRec) => { r with job := r.job.map new } }
  let claimant (x : Claimant) : Claimant := match x with
    | .job n t => .job (new n) t
    | y => y
  let ring (e : Nat × Ring) : Nat × Ring := (e.1, { e.2 with waiters := e.2.waiters.map claimant })
  let word (x : MatrixEntry) : MatrixEntry := { x with num := new x.num }
  let part (e : Nat × Crucible) : Nat × Crucible := (e.1, { e.2 with queue := e.2.queue.map word })
  c'.modBlock b fun k => { k with rings := k.rings.map ring, parts := k.parts.map part }

/-- A saved part comes to a core's Crucible: its product first, and its words once that has committed (R221). -/
def Crucible.rejoined (here part : Crucible) : Crucible :=
  { part with
    queue := here.queue, saved := here.saved ++ part.queue, cur := part.cur.map fun u => { u with held := false } }

/-- A block comes back from its image (R313): its memory and counters, each Crucible part with the warps it was for, its
jobs in their order, its warps, and the replies held for it. A user of a Crucible with no saved part finds it reset (R185). A
warp on a service call stays off-core. -/
def State.restore (s : State) (b : Nat) (place : Nat × Nat × List Seat) : State :=
  let c := s.chip.renumber b
  let k := c.block b
  let seats := place.2.2
  let moved (core : Nat) : Option Nat :=
    ((c.warpsOf b).find? fun e => e.2.usesCrucible && e.2.core == core).bind fun e =>
      (seats.find? fun t => t.of.key == e.1).map (·.core)
  let seat (w : Nat) : Option Nat := (seats.find? fun t => t.of.key == w).map (·.core)
  let add (m : Sparse Crucible) (e : MatrixEntry) : Sparse Crucible :=
    match seat e.warp with
    | some t =>
      let x := Sparse.get Crucible.fresh m t
      Sparse.put m t { x with saved := x.saved ++ [e] }
    | none => m
  let put (m : Sparse Crucible) (p : Nat × Crucible) : Sparse Crucible :=
    match moved p.1 with
    | some t => Sparse.put m t ((Sparse.get Crucible.fresh m t).rejoined p.2)
    | none => p.2.queue.foldl add m
  let onto (m : Sparse Crucible) (f : Crucible → Crucible) (k : Nat) : Sparse Crucible :=
    Sparse.set Crucible.fresh m k (f (Sparse.get Crucible.fresh m k))
  let cores := (seats.map (·.core)).eraseDups
  let users := ((seats.filter fun t => decide (32 ≤ t.of.draw)).map (·.core)).eraseDups
  let cru := k.parts.foldl put (users.foldl (fun m k => onto m Crucible.vacated k) c.crucibles)
  let cru := cores.foldl (fun m k => onto m Crucible.readmit k) cru
  let job (e : Nat × Job) : Nat × Job :=
    if e.2.block = b then
      let st := if e.2.status = JobStatus.saved then JobStatus.waiting else e.2.status
      (e.1, { e.2 with cluster := place.1 % 6, status := st })
    else e
  let c := { c with crucibles := cru, jobs := c.jobs.map job }
  let c := seats.foldl (fun c t => c.modWarp t.of.key fun wp =>
    let away := c.services.any fun x => x.warp == t.of.key && x.unbound
    { wp with core := t.core, slot := t.slot, rbase := t.rbase, offCore := away }) c
  let c := c.modBlock b fun k => { k with
    status := .running, cluster := place.1 % 6, sharedBase := place.2.1, parts := [], resume := [], restoredAt := some c.ns }
  State.applyHeld { s with chip := c } b

/-! ## Room by pre-emption -/

/-- The blocks of a die that may be pre-empted for a priority, in victim order: lowest priority, accepted last, highest
ordinal (R271). -/
def State.victims (s : State) (die p : Nat) : List (Nat × Block) :=
  let prio (b : Block) : Nat := (s.queue (s.chip.launch b.launch).queue).prio
  let xs := s.chip.blocks.filter fun e => e.2.die == die && e.2.status == .running && e.2.restoredAt.isNone && decide (prio e.2 < p)
  let key (e : Nat × Block) : List Nat := [prio e.2, 2 ^ 64 - e.2.launch, 2 ^ 64 - e.2.ordinal]
  let rec sort : List (Nat × Block) → List (Nat × Block)
    | [] => []
    | x :: r =>
      let rec put : List (Nat × Block) → List (Nat × Block)
        | [] => [x]
        | y :: t => if lexLt (key y) (key x) then y :: put t else x :: y :: t
      put (sort r)
  sort xs

/-- The shortest run of victims without which a block fits. -/
def State.enough (s : State) (blk : Nat) (h : Header) (gs : List (List Placing)) (cluster : Nat) :
    List Nat → List Nat → Option (List Nat)
  | gone, [] => if (s.fitCluster gone blk h gs cluster).isSome then some gone else none
  | gone, v :: r =>
    if (s.fitCluster gone blk h gs cluster).isSome then some gone else State.enough s blk h gs cluster (gone ++ [v]) r

/-- The blocks to pre-empt for a block of priority p, in one cluster (R271). -/
def State.eviction (s : State) (blk die p : Nat) (h : Header) (gs : List (List Placing)) : Option (List Nat) :=
  let vs := s.victims die p
  let of (k : Nat) : List Nat := (vs.filter fun e => e.2.die * 6 + e.2.cluster == k).map (·.1)
  let ok := (h.clusters die).filter fun k => (s.fitCluster (of k) blk h gs k).isSome
  ((vs.find? fun e => ok.contains (e.2.die * 6 + e.2.cluster))).bind fun e =>
    let k := e.2.die * 6 + e.2.cluster
    s.enough blk h gs k [] (of k)

/-- Every core of every usable cluster of the die is fenced (R272). -/
def State.dieDead (s : State) (die : Nat) (h : Header) : Bool :=
  (h.clusters die).all fun k => (List.range 8).all fun i => (s.chip.core (8 * k + i)).fenced

/-- A block that does not fit: its launch stops binding on a dead die (R272), or lower priorities make room (R271). -/
def State.noRoom (s : State) (q blk die : Nat) (h : Header) (gs : List (List Placing)) : Option State :=
  let n := match s.chip.blocks.find? fun e => e.1 == blk with
    | some e => e.2.launch
    | none => blk
  if s.dieDead die h && !(s.chip.launch n).stuck then
    let x := s.chip.launch n
    some ((s.onChip fun c => c.modLaunch n fun x => { x with stuck := true }).postEntry x.context
      (errorEntry x.context 1 x.ident.toNat 0 die 0 0 0 false 0 0) none)
  else if s.chip.blocks.any fun e => e.2.die == die && e.2.status == .stopping then none
  else (s.eviction blk die (s.queue q).prio h gs).map fun vs => vs.foldl (fun s b => s.requestStop b false) s

/-- Serves the first of some queues whose block fits, or makes room for one. -/
def State.bindFirst (s : State) (die : Nat) : List (Nat × BindWork) → Option State
  | [] => none
  | (q, .next n) :: r =>
    let h := (s.chip.launch n).header
    match s.fit n die h h.placings with
    | some p => some ((s.bindNext n p).served q)
    | none => (s.noRoom q n die h h.placings).or (s.bindFirst die r)
  | (q, .restore b) :: r =>
    let h := (s.chip.launch (s.chip.block b).launch).header
    let gs := s.chip.imageGroups b
    match s.fit b die h gs with
    | some p => some ((s.restore b p).served q)
    | none => (s.noRoom q b die h gs).or (s.bindFirst die r)

/-- BIND_BLOCK (R264 to R267, R271, R313). -/
def State.bindBlock (s : State) (die : Nat) : Option State :=
  if s.regBlock.ready then s.bindFirst die (s.bindOrder die) else none

/-! ## Bind records -/

/-- The warp a bind record meets: in its slot, or in its register range (R269). -/
def Chip.bindClash (c : Chip) (r : BindRecord) : Option (Nat × Warp) :=
  c.warps.find? fun e => e.2.core == r.core && !e.2.offCore && (e.2.slot == r.wslot ||
    !decide (r.rbase + r.lanes * r.regs / 8 ≤ e.2.rbase ∨ e.2.rbase + e.2.lanes * e.2.alloc / 8 ≤ r.rbase))

/-- A refused bind record (R269): the slot is fenced, the log and both contexts told, and the block, unbound again before
any of its words issue, waits to be placed elsewhere. -/
def State.refuseBind (s : State) (r : BindRecord) (old : Option Warp) : State :=
  let new := (s.chip.launch r.launch).ident.toNat
  let was := old.elim 0 fun wp => (s.chip.launch wp.launch).ident.toNat
  let s := s.onChip fun c => c.modCore r.core fun k => { k with fencedSlots := insertNum r.wslot k.fencedSlots }
  let s := { s with errorLog := s.errorLog ++ [LogEntry.bind r.core r.wslot was new] }
  let entry (ctx : Nat) : List Byte :=
    errorEntry ctx 6 new 0 (dieOf r.core) (clusterOf r.core) r.wslot 0 false r.core was
  let s := s.postEntry r.context (entry r.context) none
  let s := match old with
    | some wp => s.postEntry wp.context (entry wp.context) none
    | none => s
  (s.obeyAll r.block).onChip fun c =>
    let c := (c.block r.block).warps.foldl (fun c w => c.modWarp w fun wp => { wp with offCore := true }) c
    c.modBlock r.block fun k => { k with status := .preempted }

/-- BIND_RECORD (R56, R268, R269): the oldest record in a core's slot table. -/
def State.bindRecord (s : State) (core : Nat) : Option State :=
  (s.binds.find? fun r => r.core == core).map fun r =>
    let clash := s.chip.bindClash r
    if clash.isSome || (s.chip.core core).fencedSlots.contains r.wslot then s.refuseBind r (clash.map (·.2))
    else State.settleBinding { s with chip := s.chip.startWarp r, binds := s.binds.erase r } r.block

/-! ## Unbinding and completion -/

/-- A word of the warp is still in its core's matrix queue or product. -/
def Chip.matrixHolds (c : Chip) (w : Nat) : Bool :=
  let x := c.crucible (c.warp w).core
  ((x.saved ++ x.queue).any fun e => e.warp == w) || x.cur.any fun u => u.entry.warp == w

/-- UNBIND_NOTICE (R270): a warp with no live thread leaves its slot. -/
def State.unbind (s : State) (w : Nat) : Option State :=
  match Sparse.find s.chip.warps w with
  | none => none
  | some wp =>
    let st := (s.chip.block wp.block).status
    let queueJob := s.chip.jobs.any fun e => e.2.warp == w && (sideSpace e.2.jc0 == 5 || sideSpace e.2.jc1 == 5)
    if !wp.liveLanes.isEmpty || !wp.storeQ.isEmpty || !(st == .running || st == .stopping) || s.chip.matrixHolds w || queueJob then none
    else
      let s := s.onChip fun c => Chip.dropRecords { c with
        warps := Sparse.erase c.warps w
        services := c.services.filter fun x => x.warp != w || x.seq.isSome }
      let s := s.onChip fun c => c.modBlock wp.block fun k => { k with
        owed := k.owed.filter fun o => !((o.1 == 0 || o.1 == 4 || o.1 == 5) && o.2 == w) }
      some (s.settleStop wp.block)

/-- BLOCK_COMPLETE (R255, R307, R342): the record of a launch accepted as replayable is held until its commit. -/
def State.blockComplete (s : State) (b : Nat) : Option State :=
  let k := s.chip.block b
  if k.status != .running || !(s.chip.warpsOf b).isEmpty || s.chip.jobs.any fun e => e.2.block == b then none
  else
    let n := k.launch
    let x := s.chip.launch n
    let entry := blockEntry k.context x.ident.toNat k (decide (0 < x.replays)) false
    let s := s.eraseBlock b
    let s := if x.header.replay then s.onChip fun c => c.modLaunch n fun x => { x with held := x.held ++ [entry] }
      else s.postEntry k.context entry none
    let s := s.onChip fun c => c.modLaunch n fun x => { x with done := x.done + 1 }
    let x := s.chip.launch n
    some (if x.done = x.blocks then s.finishLaunch n false else s)

/-- WINDOW_OPEN_COMPLETE (R252): the window is zero-filled and open. -/
def State.openComplete (s : State) (ctx win : Nat) : Option State :=
  if ((s.chip.context ctx).window win).state != .opening then none
  else
    let s := s.onChip fun c => (c.zeroWindow ctx win).modContext ctx fun x => x.modWindow win fun v =>
      { v with state := .opened, owner := none }
    some (s.postEntry ctx (openEntry ctx win (s.chip.context ctx) false) none)

/-- QUEUE_HEAD_AGING (R264): a head ready and unchosen for 1 ms is treated as priority 3 for its next choice. -/
def State.ageHead (s : State) (q : Nat) : Option State :=
  let x := s.queue q
  match x.readyAt with
  | none => none
  | some t => if x.aged || decide (s.chip.ns < t + Config.ageLimit) then none else some (s.modQueue q fun x => { x with aged := true })

/-- A queue has a ready head (R264). -/
def State.headReady (s : State) (q : Nat) : Bool :=
  (List.range 4).any fun d => match s.bindWork q d with | some (.next _) => true | _ => false

/-- PREEMPT_QUANTUM_EXPIRY (R271): 200 µs after its return a block may be chosen again. -/
def State.quantumOver (s : State) (b : Nat) : Option State :=
  match (s.chip.block b).restoredAt with
  | none => none
  | some t =>
    if s.chip.ns < t + Config.quantum then none
    else some (s.onChip fun c => c.modBlock b fun k => { k with restoredAt := none })

/-- A call is over: it is replied, or its lanes have all stopped before it was posted (R351, R352). -/
def Chip.serviceOver (c : Chip) (x : Service) : Bool :=
  x.replied || (x.seq.isNone && ((c.warp x.warp).liveMask &&& x.lanes) == 0)

/-- SERVICE_WARP_REBIND (R352): the first warp of a context with a call that is over and that fits comes back, a Crucible user
to its own core, once every request of it is posted; the call of a warp that is bound returns as it is. -/
def State.rebindService (s : State) (ctx : Nat) : Option State :=
  let xs := s.chip.services.filter fun x =>
    s.chip.serviceOver x && x.context == ctx && !(s.chip.services.any (s.chip.unposted x.warp)) && (s.chip.block (s.chip.warp x.warp).block).status == .running
  xs.findSome? fun x =>
    let wp := s.chip.warp x.warp
    let k := s.chip.block wp.block
    let p : Placing := ⟨x.warp, wp.lanes, wp.alloc, wp.draw⟩
    let cores := if wp.usesCrucible then [wp.core] else (List.range 8).map fun i => 8 * (6 * k.die + k.cluster) + i
    if !wp.offCore then some (s.onChip fun c => c.serviceReturn x)
    else (cores.findSome? fun core => s.seatOn [] wp.block [] p core).map fun t =>
      s.onChip fun c => (c.modWarp x.warp fun wp =>
        { wp with core := t.core, slot := t.slot, rbase := t.rbase, offCore := false }).serviceReturn x

/-! ## Meanings -/

/-- LAUNCH_RECORD (R263). -/
def execLaunchRecord (q : Nat) (σ : State) : Host.Outcome State Fault Refusal :=
  stateEvent (fun s => s.launchRecord q) σ

/-- MARKER_RECORD (R263). -/
def execMarkerRecord (q : Nat) (σ : State) : Host.Outcome State Fault Refusal :=
  stateEvent (fun s => s.markerRecord q) σ

/-- BIND_BLOCK (R264). -/
def execBindBlock (die : Nat) (σ : State) : Host.Outcome State Fault Refusal :=
  stateEvent (fun s => s.bindBlock die) σ

/-- BIND_RECORD (R268). -/
def execBindRecord (core : Nat) (σ : State) : Host.Outcome State Fault Refusal :=
  stateEvent (fun s => s.bindRecord core) σ

/-- UNBIND_NOTICE (R270). -/
def execUnbindNotice (w : Nat) (σ : State) : Host.Outcome State Fault Refusal :=
  stateEvent (fun s => s.unbind w) σ

/-- BLOCK_COMPLETE (R255). -/
def execBlockComplete (b : Nat) (σ : State) : Host.Outcome State Fault Refusal :=
  stateEvent (fun s => s.blockComplete b) σ

/-- WINDOW_OPEN_COMPLETE (R252). -/
def execWindowOpenComplete (ctx win : Nat) (σ : State) : Host.Outcome State Fault Refusal :=
  stateEvent (fun s => s.openComplete ctx win) σ

/-- QUEUE_HEAD_AGING (R264). -/
def execQueueHeadAging (q : Nat) (σ : State) : Host.Outcome State Fault Refusal :=
  stateEvent (fun s => s.ageHead q) σ

/-- PREEMPT_QUANTUM_EXPIRY (R271). -/
def execPreemptQuantumExpiry (b : Nat) (σ : State) : Host.Outcome State Fault Refusal :=
  stateEvent (fun s => s.quantumOver b) σ

/-- SERVICE_WARP_REBIND (R352). -/
def execServiceWarpRebind (ctx : Nat) (σ : State) : Host.Outcome State Fault Refusal :=
  stateEvent (fun s => s.rebindService ctx) σ

end Sys2Proof.Machine
end

