-- ==== Sys2Proof/Machine/Preempt.lean ====
section
/-!
DEFINITION. The engines of a block that is being stopped reach their stop points (R209, R220, R309), and groups stalled in
a run are stopped where they stand (R310).
-/

namespace Sys2Proof.Machine

/-- The Crucible of a core has stopped for a block: no group of the block there is in a run, which could still give it words, and
no product of the block runs but a sliced one held between passes (R209, R220; log entry 99). -/
def Chip.matrixAtRest (c : Chip) (core b : Nat) : Bool :=
  c.matrixStopped core b && ((c.blockOn core b).all fun e => e.2.runs.isEmpty) && (c.crucible core).cur.all fun u => u.held || (c.warp u.entry.warp).block != b

/-- A job acknowledges a stop: its card and cursor are kept (R244). One whose chunk is on the way to a peer has not
reached a chunk boundary; one parked on a fault stays parked (R311). -/
def Chip.stopJobAt (c : Chip) (id : Nat) : Option Chip :=
  match Sparse.find c.jobs id with
  | none => some c
  | some j =>
    if j.status = .peer then none
    else some { c with jobs := Sparse.modify c.jobs id fun j =>
      { j with status := if j.status = .parked then .parked else .saved } }

/-- The queued words of a warp are saved: its core's Crucible has stopped (R316). -/
def Chip.wordsSaved (c : Chip) (b w : Nat) : Bool :=
  let core := (c.warp w).core
  !(c.block b).owed.contains (1, core) || c.matrixAtRest core b

/-- What an engine does as it acknowledges a block's stop, when it has reached its stop point (R309). A Crucible writes its part
of the image first (R220). -/
def Chip.stopEngine (c : Chip) (b kind id : Nat) : Option Chip :=
  match kind with
  | 0 => if (c.warp id).quiet (c.wordsSaved b id) then some c else none
  | 1 => if c.matrixAtRest id b then some (c.writePart b id) else none
  | 2 => c.stopJobAt id
  | 3 => if (c.rqtComplete id).isSome then none else c.stopJobAt id
  | 4 => some (c.modWarp id fun wp => { wp with threads := wp.threads.map fun e => (e.1, { e.2 with selem := [] }) })
  | _ => if (c.warp id).liveLanes.any fun l => ((c.warp id).thread l).pend.any fun p => p.kind == .tgrab then none else some c

/-- ENGINE_STOP_ACK (R309, R311). With a Crucible's, the requantising jobs it has begun since are asked too. -/
def State.stopAck (s : State) (b kind id : Nat) : Option State :=
  let k := s.chip.block b
  if k.status != .stopping || !k.owed.contains (kind, id) then none
  else (s.chip.stopEngine b kind id).map fun c =>
    let left := k.owed.filter fun o => o != (kind, id)
    let begun := if kind = 1 then ((c.rqtAt b).map fun e => (3, e.1)).filter (fun o => !left.contains o) else []
    State.settleStop { s with chip := c.modBlock b fun k => { k with owed := left ++ begun } } b

/-- The nanosecond from which a run of a warp has been asked to stop: by a stop of its block, by a service call of its
warp, or by a live sweep that it has not moved with (R309, R328, R351). -/
def State.stopSince (s : State) (w rid : Nat) : Option Nat :=
  let wp := s.chip.warp w
  let k := s.chip.block wp.block
  if k.status = .stopping then some k.stopAt
  else
    match s.chip.services.find? fun x => x.warp == w && x.seq.isNone with
    | some x => some x.at'
    | none => (s.activation.filter fun a => a.live && (wp.run rid).bank != a.bank).map fun a => a.at'

/-- A run's next word is stalled: it waits for more than time, and not for its core's Crucible, which goes on for it (R310; log
entry 99). -/
def Chip.stalled (c : Chip) (w rid : Nat) : Bool :=
  match c.prepare w rid with
  | .word d i => match gate d w rid i with | .wait _ => !c.matrixStall w rid | _ => false
  | .wait => true
  | _ => ((c.warp w).run rid).icWait

/-- PREEMPT_STALL_TIMEOUT (R310): after 20 µs the group stops at the stalled word and resumes at its region entry (in
Tolune code at the instruction, R52); a routine of the Mould runs to its trailer (R324). -/
def State.stallTimeout (s : State) (w l : Nat) : Option State :=
  ((s.chip.warp w).runs.find? fun r => r.2.lanes.getLsbD l).bind fun r =>
    (s.stopSince w r.1).bind fun t =>
      if decide (s.chip.ns < t + Config.stopLimit) || r.2.emul.isSome || !s.chip.stalled w r.1 then none
      else
        some (s.onChip fun c =>
          let ls := (c.warp w).active r.2
          c.modWarp w fun wp =>
            let wp := wp.mapLanes ls fun _ t => clearTemps { t with
              pc := t.restart r.2, waits := t.waits.filterMap (Wait.retried (t.restart r.2)), fix := [], entryNext := false
              recDue := r.2.entering, since := c.cycle }
            (wp.withdraw r.2.lanes (collectivesOf r.2.waits)).dropRun r.1)

/-! ## Meanings -/

/-- ENGINE_STOP_ACK (R309). -/
def execEngineStopAck (b kind id : Nat) (σ : State) : Host.Outcome State Fault Refusal :=
  stateEvent (fun s => s.stopAck b kind id) σ

/-- PREEMPT_STALL_TIMEOUT (R310). -/
def execPreemptStallTimeout (w l : Nat) (σ : State) : Host.Outcome State Fault Refusal :=
  stateEvent (fun s => s.stallTimeout w l) σ

end Sys2Proof.Machine
end

