-- ==== Sys2Proof/Machine/Shake.lean ====
section
/-!
DEFINITION. The hash and the signature scheme of R333 and R334: SHAKE128 and SHAKE256 (FIPS 202), and XMSS-SHAKE_20_256
(RFC 8391), which the spec names and does not spell out (PRESUMED, log entry 7).
-/

namespace Sys2Proof.Machine

/-! ## SHAKE -/

/-- Lanes of the sponge, lane (x, y) at x + 5 · y. -/
abbrev Sponge := List (BitVec 64)

def spongeLane (a : Sponge) (x y : Nat) : BitVec 64 := a.getD (x % 5 + 5 * (y % 5)) 0

/-- A value for every lane. -/
def spongeMap (f : Nat → Nat → BitVec 64) : Sponge := (List.range 25).map fun i => f (i % 5) (i / 5)

/-- The walk that the rotations follow over the lanes: from (1, 0), and from (x, y) to (y, 2x + 3y). -/
def spongeWalk : Nat → Nat × Nat
  | 0 => (1, 0)
  | n + 1 =>
    let (x, y) := spongeWalk n
    (y, (2 * x + 3 * y) % 5)

/-- Rotations of the lanes: the n-th lane of the walk turns by the n-th triangular number, lane (0, 0) by none. -/
def spongeTurns : List Nat :=
  (List.range 24).foldl (fun m n =>
    let (x, y) := spongeWalk n
    m.set (x + 5 * y) ((n + 1) * (n + 2) / 2 % 64)) (List.replicate 25 0)

/-- The states of the shift register that gives the constants of the rounds, with polynomial x^8 + x^6 + x^5 + x^4 + 1. -/
def spongeShift : Nat → Nat
  | 0 => 1
  | n + 1 =>
    let r := 2 * spongeShift n
    if 256 ≤ r then Nat.xor (r - 256) 0x71 else r

/-- The constant of a round: bit 2^j - 1 is the output of the register at step j + 7 · round. -/
def spongeConstant (round : Nat) : BitVec 64 :=
  (List.range 7).foldl (fun v j =>
    if spongeShift (j + 7 * round) % 2 = 1 then v ||| (1#64 <<< (2 ^ j - 1)) else v) 0

/-- One round. -/
def spongeRound (a : Sponge) (rc : BitVec 64) : Sponge :=
  let cs := (List.range 5).map fun x => (List.range 5).foldl (fun v y => v ^^^ spongeLane a x y) 0
  let c (x : Nat) : BitVec 64 := cs.getD (x % 5) 0
  let t := spongeMap fun x y => spongeLane a x y ^^^ c (x + 4) ^^^ (c (x + 1)).rotateLeft 1
  let b := spongeMap fun x y => (spongeLane t (x + 3 * y) x).rotateLeft (spongeTurns.getD ((x + 3 * y) % 5 + 5 * x) 0)
  let d := spongeMap fun x y => spongeLane b x y ^^^ (~~~(spongeLane b (x + 1) y) &&& spongeLane b (x + 2) y)
  d.set 0 (spongeLane d 0 0 ^^^ rc)

/-- The permutation. -/
def spongeTurn (a : Sponge) : Sponge :=
  (List.range 24).foldl (fun a n => spongeRound a (spongeConstant n)) a

/-- A block of bytes goes in. -/
def spongeAbsorb (a : Sponge) (bs : List Byte) : Sponge :=
  spongeTurn (spongeMap fun x y =>
    spongeLane a x y ^^^ BitVec.ofNat 64 (numOfBytes ((bs.drop (8 * (x + 5 * y))).take 8)))

/-- Blocks of a number of bytes each go in. -/
def spongeBlocks (rate : Nat) : Nat → Sponge → List Byte → Sponge
  | 0, a, _ => a
  | n + 1, a, bs => spongeBlocks rate n (spongeAbsorb a (bs.take rate)) (bs.drop rate)

/-- A message with its padding. -/
def shakePad (rate : Nat) (m : List Byte) : List Byte :=
  let k := rate - m.length % rate
  if k = 1 then m ++ [0x9F] else m ++ [0x1F] ++ List.replicate (k - 2) 0 ++ [0x80]

/-- The first 32 bytes of output. -/
def shake32 (rate : Nat) (m : List Byte) : List Byte :=
  ((spongeBlocks rate (m.length / rate + 1) (List.replicate 25 0) (shakePad rate m)).flatMap fun l =>
    bytesOfNum 8 l.toNat).take 32

def shake128 (m : List Byte) : List Byte := shake32 168 m
def shake256 (m : List Byte) : List Byte := shake32 136 m

/-! ## XMSS -/

/-- A number in big-endian bytes. -/
def toByte (v n : Nat) : List Byte := (bytesOfNum n v).reverse

/-- The keyed hashes; 0 hashes a chain value, 1 a pair of nodes, 2 the message, and 3 makes keys and masks. -/
def xmssHash (kind : Nat) (key m : List Byte) : List Byte := shake128 (toByte kind 32 ++ key ++ m)

/-- An address: type, then three words of its own, the last word being written for each use. -/
structure XmssAddr where
  type : Nat
  a : Nat
  b : Nat
  c : Nat
  deriving DecidableEq, Repr

/-- The key or mask of an address. -/
def XmssAddr.prf (x : XmssAddr) (seed : List Byte) (use : Nat) : List Byte :=
  xmssHash 3 seed (toByte 0 12 ++ toByte x.type 4 ++ toByte x.a 4 ++ toByte x.b 4 ++ toByte x.c 4 ++ toByte use 4)

def xorBytes (x y : List Byte) : List Byte := List.zipWith (· ^^^ ·) x y

/-- n steps of a chain from step `at'`. -/
def xmssChain (seed : List Byte) (leaf chain : Nat) : (n at' : Nat) → List Byte → List Byte
  | 0, _, v => v
  | n + 1, at', v =>
    let x : XmssAddr := ⟨0, leaf, chain, at'⟩
    xmssChain seed leaf chain n (at' + 1) (xmssHash 0 (x.prf seed 0) (xorBytes v (x.prf seed 1)))

/-- The node above two. -/
def xmssPair (seed : List Byte) (x : XmssAddr) (l r : List Byte) : List Byte :=
  xmssHash 1 (x.prf seed 0) (xorBytes l (x.prf seed 1) ++ xorBytes r (x.prf seed 2))

/-- One level of the tree over a leaf's chain ends; an odd last node goes up as it is. -/
def xmssLevel (seed : List Byte) (leaf height : Nat) : Nat → List (List Byte) → List (List Byte)
  | i, l :: r :: rest => xmssPair seed ⟨1, leaf, height, i⟩ l r :: xmssLevel seed leaf height (i + 1) rest
  | _, xs => xs

/-- A leaf from its 67 chain ends, in seven levels. -/
def xmssLeaf (seed : List Byte) (leaf : Nat) (ends : List (List Byte)) : List Byte :=
  ((List.range 7).foldl (fun xs h => xmssLevel seed leaf h 0 xs) ends).headD []

/-- The 67 chain positions of a 32-byte message: its half bytes, high first, then the checksum's. -/
def xmssDigits (m : List Byte) : List Nat :=
  let ds := m.flatMap fun b => [b.toNat / 16, b.toNat % 16]
  let sum := ds.foldl (fun s d => s + (15 - d)) 0
  ds ++ [sum / 256 % 16, sum / 16 % 16, sum % 16]

/-- The root from a leaf and its path. -/
def xmssPath (seed : List Byte) : (height index : Nat) → List Byte → List (List Byte) → List Byte
  | _, _, v, [] => v
  | h, i, v, a :: rest =>
    let x : XmssAddr := ⟨2, 0, h, i / 2⟩
    xmssPath seed (h + 1) (i / 2) (if i % 2 = 0 then xmssPair seed x v a else xmssPair seed x a v) rest

/-- n pieces of 32 bytes. -/
def pieces32 (n : Nat) (bs : List Byte) : List (List Byte) := (List.range n).map fun i => (bs.drop (32 * i)).take 32

/-- Bytes of a signature (R333): leaf index, randomiser, 67 chain values, 20 nodes of the path. -/
def signatureBytes : Nat := 2820

/-- A public key: identifier, root, seed (R333). -/
def xmssKey (root seed : List Byte) : List Byte := toByte 9 4 ++ root ++ seed

/-- The message a leaf signs. -/
def xmssMessage (root r : List Byte) (leaf : Nat) (m : List Byte) : List Byte := xmssHash 2 (r ++ root ++ toByte leaf 32) m

/-- A signature of a message verifies under a public key of 68 bytes (R333). -/
def xmssVerify (key m sig : List Byte) : Bool :=
  let root := (key.drop 4).take 32
  let seed := key.drop 36
  let leaf := numOfBytes (sig.take 4).reverse
  let ds := xmssDigits (xmssMessage root ((sig.drop 4).take 32) leaf m)
  let ends := ((pieces32 67 (sig.drop 36)).zip ds).zipIdx.map fun x =>
    xmssChain seed leaf x.2 (15 - x.1.2) x.1.2 x.1.1
  key.take 4 == toByte 9 4 && sig.length == signatureBytes && decide (leaf < 2 ^ 20) &&
    xmssPath seed 0 leaf (xmssLeaf seed leaf ends) (pieces32 20 (sig.drop 2180)) == root

/-! ## Signing -/

/-- A leaf of a key with given secrets. -/
def xmssOwnLeaf (secret : Nat → Nat → List Byte) (seed : List Byte) (leaf : Nat) : List Byte :=
  xmssLeaf seed leaf ((List.range 67).map fun i => xmssChain seed leaf i 15 0 (secret leaf i))

/-- A node of a key's tree, by height and index. -/
def xmssNode (secret : Nat → Nat → List Byte) (seed : List Byte) : Nat → Nat → List Byte
  | 0, i => xmssOwnLeaf secret seed i
  | h + 1, i =>
    xmssPair seed ⟨2, 0, h, i⟩ (xmssNode secret seed h (2 * i)) (xmssNode secret seed h (2 * i + 1))

/-- A signature with one leaf. -/
def xmssSign (secret : Nat → Nat → List Byte) (prf seed : List Byte) (leaf : Nat) (m : List Byte) : List Byte :=
  let r := xmssHash 3 prf (toByte leaf 32)
  let ds := xmssDigits (xmssMessage (xmssNode secret seed 20 0) r leaf m)
  toByte leaf 4 ++ r ++ (ds.zipIdx.flatMap fun d => xmssChain seed leaf d.2 d.1 0 (secret leaf d.2)) ++
    (List.range 20).flatMap fun k =>
      let i := leaf / 2 ^ k
      xmssNode secret seed k (if i % 2 = 0 then i + 1 else i - 1)

end Sys2Proof.Machine
end

