-- ==== Sys2Proof/Machine/Package.lean ====
section
/-!
DEFINITION. The host's side of the package: doorbells and the register block (R345, R347), the commands of the command
ring (R348, R349, R368, R385, R386), clocks, freeze, reset and power (R353, R354, R335), and the events of the links
(R343, R386, R387, R391).
-/

namespace Sys2Proof.Machine

/-! ## The command ring -/

/-- What becomes of a command. -/
inductive CommandResult where
  | done (s : State)
  | refused (reason : Nat)
  /-- The command has begun and waits. -/
  | waits (s : State)
  /-- The command waits and nothing changes. -/
  | notYet
  deriving DecidableEq, Repr

/-- The host address of the command entry that is next (R345, R346). -/
def State.commandAddr (s : State) : Nat := s.regBlock.cbase + s.chead % 2 ^ s.regBlock.csize * 64

/-- The next command entry (R348). -/
def State.commandEntry (s : State) : Option (List Byte) :=
  if !s.regBlock.ready || s.slipwayFenced || s.regBlock.ctail = s.chead then none
  else some (s.hostRead s.regBlock.casid s.commandAddr 64)

/-- The entry is consumed: its status word, and the new head at the index word (R347, R348). -/
def State.endCommand (s : State) (status : Nat) : State :=
  let asid := s.regBlock.casid
  let s := s.hostWrite asid (s.commandAddr + 0x38) (bytesOfNum 8 status)
  let head := (s.chead + 1) % 2 ^ 32
  State.hostWrite { s with chead := head } asid s.regBlock.cidx (bytesOfNum 4 head)

/-- The bits of the arguments that are given a use: offset, lowest bit, number of bits. -/
def usedBits (fs : List (Nat × Nat × Nat)) : Nat :=
  fs.foldl (fun m f => m + (2 ^ f.2.2 - 1) * 2 ^ (8 * (f.1 - 8) + f.2.1)) 0

/-- An argument bit without a use is set (R349). -/
def badArgs (bs : List Byte) (fs : List (Nat × Nat × Nat)) : Bool :=
  (field bs 8 40) &&& (2 ^ 320 - 1 - usedBits fs) != 0

/-- The commands that act on the device as a whole (R349). -/
def deviceCommand (code : Nat) : Bool := code = 5 || code = 11 || code = 13 || code = 14

/-- Performs the next command when it has a code (R348, R349): the checks of every command, then its own. -/
def State.command (s : State) (code : Nat) (fs : List (Nat × Nat × Nat)) (go : State → Nat → List Byte → CommandResult) :
    Option State :=
  s.commandEntry.bind fun bs =>
    let c := field bs 0 1
    let ctx := field bs 2 2
    let known := decide (1 ≤ c ∧ c ≤ 23)
    if c != code && !(code = 1 && !known) then none
    else
      let refuse (reason : Nat) : Option State :=
        some ((s.endCommand 2).refuseEntry (if (s.chip.context ctx).defined then ctx else 0) 0 reason s.chead)
      if !known || badArgs bs fs || (deviceCommand c && ctx != 0) || (c != 21 && !(s.chip.context ctx).defined) then refuse 0
      else
        match go s ctx bs with
        | .done s => some (s.endCommand 1)
        | .refused reason => refuse reason
        | .waits s => some s
        | .notYet => none

/-! ## Windows -/

/-- The state of a window as its descriptor codes it (R248). -/
def WindowState.code : WindowState → Nat
  | .closed => 0
  | .opening => 1
  | .opened => 2
  | .closing => 3

/-- A descriptor's halves (R248). -/
def Window.low (v : Window) : Nat := v.base / 4096 * 2 ^ 12
def Window.high (v : Window) : Nat :=
  v.size + b2n v.pr 32 + b2n v.pw 33 + b2n v.px 34 + b2n v.pg 35 + b2n v.pa 36 + b2n v.priv 39 + b2n v.track 40 +
    b2n v.shadow 41 + v.state.code * 2 ^ 42

/-- The window a descriptor describes, opening (R248, R252). -/
def windowFrom (lo hi : Nat) : Window where
  state := .opening
  shadow := bitsOf hi 41 1 = 1
  track := bitsOf hi 40 1 = 1
  priv := bitsOf hi 39 1 = 1
  pa := bitsOf hi 36 1 = 1
  pg := bitsOf hi 35 1 = 1
  px := bitsOf hi 34 1 = 1
  pw := bitsOf hi 33 1 = 1
  pr := bitsOf hi 32 1 = 1
  size := bitsOf hi 0 32
  base := bitsOf lo 12 18 * 4096
  written := []
  owner := none

/-- Scratchpad bytes a window holds, its shadow region included (R251, R349). -/
def Window.held (v : Window) : Nat := if v.state = .closed then 0 else if v.shadow then 2 * v.size else v.size
def Context.held (x : Context) : Nat := (x.windows.map fun e => e.2.held).foldl (· + ·) 0

/-- What context 0 holds as command 21 counts it (R349): open and opening windows, and shadow regions. -/
def Context.heldOpen (x : Context) : Nat :=
  (x.windows.map fun e => if e.2.state = .closing then (if e.2.shadow then e.2.size else 0) else e.2.held).foldl (· + ·) 0

/-- Two ranges of bytes meet. -/
def overlap (a n b m : Nat) : Bool := decide (a < b + m ∧ b < a + n)

/-- The window's bytes belong to another context's window or to the Ferryman's system area (R248). -/
def Chip.occupied (c : Chip) (ctx : Nat) (v : Window) : Bool :=
  overlap v.base v.size Config.systemArea.1 Config.systemArea.2 ||
    c.contexts.any fun e => e.1 != ctx && e.2.windows.any fun w => w.2.state != .closed && overlap v.base v.size w.2.base w.2.size

/-- The scratchpad outside the system area, in bytes (R349). -/
def supply : Nat := 2 ^ 30 - Config.systemArea.2

/-- The bytes a context may hold. -/
def Context.ceiling (x : Context) (ctx : Nat) : Nat := if ctx = 0 then supply else 4096 * x.quota

/-- Command 1 (R248, R251, R252). -/
def windowOpen (s : State) (ctx : Nat) (bs : List Byte) : CommandResult :=
  let n := field bs 8 1
  let lo := field bs 16 8
  let hi := field bs 24 8
  let v := windowFrom lo hi
  let x := s.chip.context ctx
  if 13 < n ∨ bitsOf lo 0 12 ≠ 0 ∨ bitsOf lo 30 34 ≠ 0 ∨ bitsOf hi 44 20 ≠ 0 ∨ bitsOf hi 37 2 ≠ 0 ∨ v.size % 4096 ≠ 0 ∨
      v.size = 0 ∨ 2 ^ 28 < v.size ∨ v.base / 2 ^ 28 ≠ (v.base + v.size - 1) / 2 ^ 28 then .refused 0
  else if (x.window n).state ≠ .closed then .refused 3
  else if s.chip.occupied ctx v then .refused 0
  else if x.ceiling ctx < x.held + v.held then .done (s.postEntry ctx (openEntry ctx n x true) none)
  else .done (s.onChip fun c => c.modContext ctx fun x => x.modWindow n fun _ => v)

/-- Command 2 (R252). -/
def windowClose (s : State) (ctx : Nat) (bs : List Byte) : CommandResult :=
  let n := field bs 8 1
  if 13 < n then .refused 0
  else if ((s.chip.context ctx).window n).state ≠ .opened then .refused 3
  else .done (s.onChip fun c =>
    (c.modContext ctx fun x => x.modWindow n fun v => { v with state := .closing }).closeWindows ctx)

/-- Command 3 (R349). -/
def windowRead (s : State) (ctx : Nat) (bs : List Byte) : CommandResult :=
  let n := field bs 8 1
  let a := field bs 16 8
  let v := (s.chip.context ctx).window n
  if 13 < n ∨ a % 16 ≠ 0 then .refused 0
  else .done (s.hostWrite (s.asid ctx) a (bytesOfNum 8 v.low ++ bytesOfNum 8 v.high))

/-! ## Rings, queues, translation -/

/-- Command 4 (R346, R349). -/
def ringDefine (s : State) (ctx : Nat) (bs : List Byte) : CommandResult :=
  let kind := bitsOf (field bs 8 1) 0 3
  let base := field bs 16 8
  let k := field bs 24 1
  let index := field bs 32 8
  if 5 < kind ∨ !(s.chip.context ctx).rooted then .refused 0
  else if bitsOf (field bs 8 2) 8 1 = 0 then
    .done (s.onChip fun c => c.modContext ctx fun x => { x with rings := Sparse.erase x.rings kind })
  else if base % 64 ≠ 0 ∨ 16 < k ∨ index % 8 ≠ 0 then .refused 0
  else .done (s.setRing ctx kind ⟨base, k, index, 0, 0⟩).flushEntries

/-- Command 5 (R346, R347, R349). -/
def queueDefine (s : State) (bs : List Byte) : CommandResult :=
  let f := field bs 8 4
  let q := bitsOf f 0 6
  let owner := field bs 12 2
  let base := field bs 16 8
  let k := field bs 24 1
  let index := field bs 32 8
  if !(s.chip.context 0).rooted then .refused 0
  else if bitsOf f 16 1 = 0 then .done (s.modQueue q fun x => { x with defined := false })
  else if !(s.chip.context owner).defined ∨ base % 64 ≠ 0 ∨ 16 < k ∨ index % 8 ≠ 0 then .refused 0
  else .done (s.modQueue q fun _ => { LaunchQueue.blank with
    defined := true, owner := owner, prio := bitsOf f 8 2, base := base, size := k, index := index, asid := s.regBlock.casid })

/-- Command 6 (R337, R349). -/
def translationRoot (s : State) (ctx : Nat) (bs : List Byte) : CommandResult :=
  let a := field bs 8 6
  if a % 4096 ≠ 0 then .refused 0
  else .done (s.onChip fun c => c.modContext ctx fun x => { x with root := a, asid := field bs 16 4, rooted := true })

/-- Command 7 (R339): it waits while a chunk read through the range's entries is on its way. -/
def invalidate (s : State) (ctx : Nat) (bs : List Byte) : CommandResult :=
  let a := field bs 8 8
  let n := field bs 16 8
  if a % 65536 ≠ 0 ∨ n % 65536 ≠ 0 then .refused 0
  else if s.chip.jobs.any fun e => e.2.context == ctx && e.2.status == .peer && sideSpace e.2.jc0 == 1 then .notYet
  else
    let hit (e : TlbEntry) : Bool :=
      e.context == ctx && (n == 0 || decide (a / 65536 ≤ e.page ∧ e.page < (a + n) / 65536))
    .done { s with tlb := s.tlb.filter fun e => !hit e }

/-- Command 8 (R341). -/
def poolGrant (s : State) (ctx : Nat) (bs : List Byte) : CommandResult :=
  let a := field bs 8 6
  let n := field bs 16 8
  if a % 65536 ≠ 0 ∨ n % 65536 ≠ 0 ∨ installed < a + n then .refused 0
  else .done (s.onChip fun c => c.modContext ctx fun x => { x with pool := x.pool ++ [(a, n)] })

/-! ## Contexts -/

/-- The blocks of a context. -/
def Chip.contextBlocks (c : Chip) (ctx : Nat) : List Nat := (c.blocks.filter fun e => e.2.context == ctx).map (·.1)

/-- Command 9 (R309, R348): it waits until every block of the context is kept as an image. -/
def contextSuspend (s : State) (ctx : Nat) : CommandResult :=
  let bs := s.chip.contextBlocks ctx
  let off (s : State) : Bool := (s.chip.contextBlocks ctx).all fun b => (s.chip.block b).status == .preempted
  if (s.chip.context ctx).suspended then if off s then .done s else .notYet
  else
    let s := s.onChip fun c => c.modContext ctx fun x => { x with suspended := true }
    let s := bs.foldl (fun s b => s.requestStop b false) s
    if off s then .done s else .waits s

/-- Command 10. -/
def contextResume (s : State) (ctx : Nat) : CommandResult :=
  .done (s.onChip fun c => c.modContext ctx fun x => { x with suspended := false })

/-- Command 21 (R349). -/
def contextDefine (s : State) (ctx : Nat) (bs : List Byte) : CommandResult :=
  let quota := field bs 8 4
  let others := (s.chip.contexts.filter fun e => e.1 != 0 && e.1 != ctx && e.2.defined).map fun e => 4096 * e.2.quota
  if ctx = 0 then .refused 0
  else if 4096 * quota < (s.chip.context ctx).held ∨
      supply - (s.chip.context 0).heldOpen < others.foldl (· + ·) 0 + 4096 * quota then .refused 4
  else .done (s.onChip fun c => c.modContext ctx fun x =>
    { x with defined := true, quota := quota, system := if x.defined then x.system else bitsOf (field bs 16 1) 0 1 = 1 })

/-- Everything of a context is gone, its bindings at the links with it (R349, R386). -/
def State.dropContext (s : State) (ctx : Nat) : State :=
  let qs := (s.queues.filter fun e => e.2.defined && e.2.owner == ctx).map (·.1)
  let s := qs.foldl (fun s q => s.modQueue q fun _ => LaunchQueue.blank) s
  let s := s.onChip fun c => { c with
    contexts := Sparse.erase c.contexts ctx
    recs := c.recs.filter fun r => r.context != ctx
    towlines := c.towlines.map fun e => (e.1, { e.2 with bound := Sparse.erase e.2.bound ctx })
    watches := c.watches.filter fun e => e.2.context != ctx }
  { s with
    outbox := s.outbox.filter fun e => e.context != ctx
    replies := s.replies.filter fun e => e.context != ctx
    tlb := s.tlb.filter fun e => e.context != ctx
    classes := s.classes.filter fun e => e.1 != ctx }

/-- Command 22: it waits until every launch of the context has completed. -/
def contextRelease (s : State) (ctx : Nat) : CommandResult :=
  if ctx = 0 then .refused 0
  else if s.chip.launches.any fun e => e.2.context == ctx then
    if (s.chip.context ctx).releasing then .notYet
    else .waits (s.onChip fun c => c.modContext ctx fun x => { x with releasing := true })
  else .done (s.dropContext ctx)

/-- Command 23 (R308). -/
def stickyClear (s : State) (ctx : Nat) (bs : List Byte) : CommandResult :=
  let f := field bs 8 1
  .done (s.onChip fun c => c.modContext ctx fun x => { x with
    stickyIe := x.stickyIe && bitsOf f 0 1 != 1, stickyPe := x.stickyPe && bitsOf f 1 1 != 1 })

/-! ## The device -/

/-- Command 11 (R269). -/
def slotReset (s : State) (bs : List Byte) : CommandResult :=
  let core := field bs 8 1
  let slot := bitsOf (field bs 9 1) 0 4
  if 191 < core then .refused 0
  else .done (s.onChip fun c => c.modCore core fun k => { k with fencedSlots := k.fencedSlots.filter (· != slot) })

/-- A number with a bit for each index that a test picks. -/
def bitmap (n : Nat) (f : Nat → Bool) : Nat := (List.range n).foldl (fun v i => v + b2n (f i) i) 0

/-- A queue's head waits on another record (R265): not taken because of a wait or its serial condition. -/
def State.starved (s : State) (q : Nat) : Bool :=
  match s.headRecord q with
  | none => false
  | some r => s.queueFree q && !s.waitsMet q r

/-- A queue's head waits to fit (R266). -/
def State.noFit (s : State) (q : Nat) : Bool :=
  (List.range 4).any fun d => match s.bindWork q d with
    | some (.next n) => let h := (s.chip.launch n).header
      (s.fit n d h h.placings).isNone
    | _ => false

/-- The sequence number of a queue's head: of the launch it serves while blocks of that are to be bound, else of the next
record (R264, R349). -/
def State.headSeq (s : State) (q : Nat) : Nat :=
  match s.chip.launches.find? fun e => e.2.queue == q && e.2.status != .aborting && decide (e.2.nextOrdinal < e.2.blocks) with
  | some e => e.2.seq
  | none => (s.queue q).head

/-- The status buffer (R349). -/
def State.statusBytes (s : State) : List Byte :=
  ((List.range 64).flatMap fun q =>
    bytesOfNum 8 (b2n (s.noFit q) 0 + b2n (s.starved q) 1 + s.headSeq q % 2 ^ 32 * 2 ^ 32)) ++
    bytesOfNum 24 (bitmap 192 fun k => (s.chip.core k).fenced) ++
    bytesOfNum 8 (bitmap 24 fun k => s.chip.fencedRqt.contains k) ++
    ((List.range 24).flatMap fun c => bytesOfNum 8 (bitmap 16 fun k => s.chip.fencedChannels.contains (c * 16 + k))) ++
    bytesOfNum 32 (bitmap 8 (fun k => (Sparse.get Towline.untrained s.chip.towlines k).fenced) + b2n s.slipwayFenced 8) ++
    ((List.range 192).flatMap fun c => bytesOfNum 2 (bitmap 16 fun k => (s.chip.core c).fencedSlots.contains k)) ++
    bytesOfNum 896 0

/-- Command 12 (R349). -/
def statusRead (s : State) (ctx : Nat) (bs : List Byte) : CommandResult :=
  let a := field bs 8 8
  if a % 64 ≠ 0 then .refused 0 else .done (s.hostWrite (s.asid ctx) a s.statusBytes)

/-- The unrevoked image keys (R333). -/
def State.imageKeys (s : State) : List Nat := [0, 1].filter fun k => !s.revoked.contains k

/-- An image key as its fuses hold it, and a check of an image's signature under it (R333). -/
def imageKey (k : Nat) : List Byte := xmssKey (toByte (Config.imageRoot k).toNat 32) (toByte (Config.imageSeed k).toNat 32)
def imageSigned (k : Nat) (body sig : List Byte) : Bool := xmssVerify (imageKey k) (shake256 body) sig

/-- Command 13 (R333, R348): the image is checked and written to board flash. -/
def firmwareLoad (s : State) (bs : List Byte) : CommandResult :=
  let n := field bs 16 8
  let img := s.hostRead s.regBlock.casid (field bs 8 8) n
  let body := img.take (n - signatureBytes)
  let sig := img.drop (n - signatureBytes)
  if n < signatureBytes ∨ !(s.imageKeys.any fun k => imageSigned k body sig) then .refused 0
  else .done { s with flashed := body }

/-- The next identity leaf (R335): the leaf of the present block, or of the block the next fuse step begins. -/
def State.nextLeaf (s : State) : Option (Nat × State) :=
  if s.leaf < 1024 ∧ 0 < s.leafBlocks then some ((s.leafBlocks - 1) * 1024 + s.leaf, { s with leaf := s.leaf + 1 })
  else if s.leafBlocks < 1024 then some (s.leafBlocks * 1024, { s with leafBlocks := s.leafBlocks + 1, leaf := 1 })
  else none

/-- A Mould bank. -/
def Chip.bankOf (c : Chip) (n : Nat) : MouldBank := Sparse.get MouldBank.empty c.banks n

/-- The identity key: its secrets, its 68-byte public key, and whether Camxon's certificate of it verifies (R334). -/
def identitySecret (leaf chain : Nat) : List Byte := toByte (Config.identitySecret leaf chain).toNat 32
def identitySeed : List Byte := toByte Config.identitySeed.toNat 32
def identityKey : List Byte := xmssKey (xmssNode identitySecret identitySeed 20 0) identitySeed
def State.certified (s : State) : Bool :=
  xmssVerify (imageKey 0) (shake256 (identityKey ++ bytesOfNum 16 s.serial)) Config.identityCertificate

/-- The fuse state, the window quotas and the firmware parameters, which the configuration block holds (R334). -/
def State.configuration (s : State) : List Nat :=
  ([0, 1].flatMap fun k => [(Config.imageRoot k).toNat, (Config.imageSeed k).toNat, b2n (s.revoked.contains k) 0]) ++
    [s.leafBlocks, s.serial] ++ (s.chip.contexts.flatMap fun e => [e.1, e.2.quota]) ++
    [Config.ageLimit, Config.quantum, Config.stopLimit]

/-- The measurement of a quote (R334). -/
def State.measure (s : State) (nonce : List Byte) : List Byte :=
  let b (n : Nat) : MouldBank := s.chip.bankOf n
  let digest (n : Nat) : List Byte := (b n).digest.getD (List.replicate 32 0)
  shake256 (shake256 s.firmware ++ digest 0 ++ digest 1 ++
    Config.quoteBlock [s.chip.bank, s.chip.gen, (b 0).serial, (b 1).serial] ++ Config.configBlock s.configuration ++ nonce)

/-- Command 14 (R334, R335). -/
def quote (s : State) (bs : List Byte) : CommandResult :=
  let asid := s.regBlock.casid
  match s.nextLeaf with
  | none => .refused 0
  | some (leaf, s) =>
    let m := s.measure (s.hostRead asid (field bs 8 8) 32)
    let sig := xmssSign identitySecret (toByte Config.identityPrf.toNat 32) identitySeed leaf m
    .done (s.hostWrite asid (field bs 16 8) (m ++ sig))

/-! ## Tolune, trace, debug, peers -/

/-- Command 15 (R368). -/
def toluneDefine (s : State) (ctx : Nat) (bs : List Byte) : CommandResult :=
  .done (s.onChip fun c => c.modContext ctx fun x => { x with
    tolune := some (BitVec.ofNat 32 (field bs 8 4), field bs 12 4, BitVec.ofNat 32 (field bs 16 4)) })

/-- Bytes placed in a window of a context (R250, R365, R368); none when they do not lie in one window in use. -/
def Chip.placeLocal (c : Chip) (ctx : Nat) (a : Word) (bs : List Byte) : Option Chip :=
  let n := windowOf a
  let v := (c.context ctx).window n
  if 14 ≤ n ∨ v.state = .closed ∨ v.size < offsetOf a + bs.length then none
  else
    let lines := (List.range ((offsetOf a % 64 + bs.length + 63) / 64)).map (offsetOf a / 64 + ·)
    let c := { c with scratch := c.scratch.store (v.base + offsetOf a) bs false }
    some (c.modContext ctx fun x => x.modWindow n fun v =>
      if v.track then { v with written := lines.foldl (fun m k => insertNum k m) v.written } else v)

/-- Command 16 (R368). -/
def translationInstall (s : State) (ctx : Nat) (bs : List Byte) : CommandResult :=
  let a : Word := BitVec.ofNat 32 (field bs 8 4)
  let vs := s.hostRead (s.asid ctx) (field bs 16 8) (4 * field bs 12 4)
  if a.extractLsb' 0 2 ≠ 0 then .refused 0
  else
    match s.chip.placeLocal ctx a vs with
    | none => .refused 0
    | some c => .done { s with chip := c }

/-- Command 17 (R381, R385). -/
def traceSet (s : State) (ctx : Nat) (bs : List Byte) : CommandResult :=
  let f := field bs 12 1
  let r := bitsOf f 0 4
  let base := field bs 16 4
  let n := field bs 20 4
  let v := (s.chip.context ctx).window (base / 2 ^ 28)
  let key := field bs 24 1 * 8 + r
  let on := bitsOf f 4 1 = 1
  if 7 < r ∨ (on ∧ (base % 8 ≠ 0 ∨ n % 8 ≠ 0 ∨ n = 0 ∨ 14 ≤ base / 2 ^ 28 ∨ v.size < base % 2 ^ 28 + n)) then .refused 0
  else .done (s.onChip fun c =>
    let c := c.modContext ctx fun x => { x with trace := BitVec.ofNat 3 (field bs 8 1) }
    { c with watches := if on then Sparse.put c.watches key ⟨ctx, BitVec.ofNat 32 base, n⟩ else Sparse.erase c.watches key })

/-- Command 18 (R383, R385). -/
def comparatorSet (s : State) (ctx : Nat) (bs : List Byte) : CommandResult :=
  let f := field bs 8 2
  let core := bitsOf f 0 8
  let kind := bitsOf f 8 2
  let n := bitsOf f 10 3
  let key := kind * 8 + n
  let rw : BitVec 2 := BitVec.ofNat 2 (bitsOf f 15 1 + 2 * bitsOf f 14 1)
  if 191 < core ∨ 2 < kind ∨ (kind ≠ 0 ∧ 4 ≤ n) then .refused 0
  else .done (s.onChip fun c => c.modCore core fun k => { k with
    comps := if bitsOf f 13 1 = 1 then
        Sparse.put k.comps key (ctx, BitVec.ofNat 32 (field bs 12 4), BitVec.ofNat 32 (field bs 16 4),
          BitVec.ofNat 64 (field bs 24 8), rw)
      else Sparse.erase k.comps key })

/-- Lanes apart by where they stand and what they wait for. -/
def Warp.byWaits (wp : Warp) (ls : List Nat) : List (List Nat) :=
  let key (l : Nat) : Word × List Wait := ((wp.thread l).pc, (wp.thread l).waits)
  (ls.map key).eraseDups.map fun k => ls.filter fun l => key l == k

/-- A lane is halted already: it waits for the reply to an event-1 record. -/
def Chip.halted (c : Chip) (t : Thread) : Bool :=
  t.waits.any fun x => match x with | .trap n _ => c.recs.any fun r => r.num == n && r.event == 1 | _ => false

/-- The groups of a warp that stand at a run boundary and are not halted yet: gangs, strays, and parked groups (R384). -/
def Chip.haltGroups (c : Chip) (wp : Warp) : List (List Nat) :=
  let ls := wp.liveLanes.filter fun l => !c.halted (wp.thread l)
  let parked := ls.filter fun l => (wp.thread l).waits.any Wait.parks
  let free := ls.filter fun l => !(wp.thread l).waits.any Wait.parks
  wp.byKey (free.filter fun l => !(wp.thread l).stray) ++ (free.filter fun l => (wp.thread l).stray).map (fun l => [l]) ++
    wp.byWaits parked

/-- Every group of a warp halts with a record of event 1, source 4 (R301, R384), and keeps what it waits for. It resumes at
its region entry (R295), one in Tolune code where it stands (R52); its last trailer marks no region entry any more. -/
def Chip.haltWarp (c : Chip) (w : Nat) : Chip :=
  let wp := c.warp w
  let c := (c.haltGroups wp).foldl (fun c g =>
    let t := wp.thread (g.headD 0)
    let c := c.park w g t.pc 0 1 0 (4#64 <<< 16) 0 0 (fun l => (wp.thread l).waits) fun l =>
      if (wp.thread l).tolune then (wp.thread l).pc else (wp.thread l).rentry
    c.modWarp w fun wp => wp.mapLanes g fun _ t => { t with entryNext := false }) c
  c.modWarp w fun wp => { wp with stopAll := false }

/-- Command 19 (R384, R385): it waits until no group of the warp is in a run. -/
def warpStop (s : State) (ctx : Nat) (bs : List Byte) : CommandResult :=
  let wid : Dword := BitVec.ofNat 64 (field bs 16 8)
  match s.chip.warps.find? fun e => e.2.context == ctx && !e.2.offCore &&
      (s.chip.launch e.2.launch).ident.toNat == field bs 8 4 && e.2.threads.any fun t => t.2.status != .vacant && t.2.wid == wid with
  | none => .refused 0
  | some (w, wp) =>
    if wp.runs.isEmpty then .done (s.onChip fun c => c.haltWarp w)
    else if wp.stopAll then .notYet
    else .waits (s.onChip fun c => c.modWarp w fun wp => { wp with stopAll := true })

/-- Command 20 (R386). Whether the peer refuses the context is the peer's choice. A binding stays while a chunk of the context
is on its way over the link (log entry 103). -/
def peerBind (s : State) (ctx : Nat) (bs : List Byte) : CommandResult :=
  let link := bitsOf (field bs 8 1) 0 3
  let t := Sparse.get Towline.untrained s.chip.towlines link
  if !t.trained ∨ t.fenced then .refused 0
  else if s.chip.jobs.any fun e => e.2.context == ctx && e.2.status == .peer && e.2.links.contains link then .notYet
  else
    let set (c : Chip) (b : Sparse Nat) : Chip := { c with towlines := Sparse.put c.towlines link { t with bound := b } }
    if bitsOf (field bs 9 1) 0 1 = 0 then .done (s.onChip fun c => set c (Sparse.erase t.bound ctx))
    else
      let (no, c) := s.chip.choose 2
      if no = 1 then .refused 0 else .done { s with chip := set c (Sparse.put t.bound ctx (field bs 12 4)) }

/-! ## Doorbells and the register block -/

/-- QTAIL (R347). -/
def State.queueTail (s : State) (q v : Nat) : Option State :=
  if s.slipwayFenced ∨ 64 ≤ q then none
  else if 2 ^ 32 ≤ v then some s
  else
    let s := { s with regBlock := { s.regBlock with qtail := Sparse.put s.regBlock.qtail q v } }
    if (s.queue q).defined then some (s.modQueue q fun x => { x with tail := v })
    else if (s.ring 0 2).isSome then some (s.refuseEntry 0 3 0 q) else some s

/-- A register written once after a module reset (R345). -/
def State.setOnce (s : State) (bit : Nat) (ok : Bool) (f : RegBlock → RegBlock) : State :=
  if s.regBlock.written.getLsbD bit || !ok then s
  else
    let r := f s.regBlock
    { s with regBlock := { r with written := r.written ||| (1#4 <<< bit) } }

/-- REGISTER_BLOCK_WRITE (R345): a write of another size, or to a reserved offset, is ignored. -/
def State.registerWrite (s : State) (off size v : Nat) : Option State :=
  if s.slipwayFenced then none
  else if size ≠ 8 ∨ 2 ^ 64 ≤ v then some s
  else if off < 0x200 ∧ off % 8 = 0 then s.queueTail (off / 8) v
  else if off = 0x200 then
    some (if v < 2 ^ 32 then { s with regBlock := { s.regBlock with ctail := v } } else s)
  else if off = 0x208 then some (s.doorbell (BitVec.ofNat 64 v))
  else if off = 0x218 then some (s.setOnce 0 (v % 64 == 0) fun r => { r with cbase := v })
  else if off = 0x220 then some (s.setOnce 1 (v ≤ 16) fun r => { r with csize := v })
  else if off = 0x228 then some (s.setOnce 2 (v % 8 == 0) fun r => { r with cidx := v })
  else if off = 0x230 then some (s.setOnce 3 (v < 2 ^ 32) fun r => { r with casid := v })
  else some s

/-- The Ferryman holds records for a full ring (R302, R345): completion entries, trap records or service requests. -/
def State.holdsRecords (s : State) : Bool :=
  let full (ctx kind n : Nat) : Bool := (s.ring ctx kind).any fun r => !r.fits n
  s.outbox.any (fun e => full e.context 2 ((e.bytes.length + 31) / 32)) ||
    s.chip.recs.any (fun r => r.seq.isNone && s.chip.postable r && full r.context 0 (((r.bytes 0).length + 63) / 64)) ||
    s.chip.services.any fun x => x.seq.isNone && (s.chip.warp x.warp).offCore &&
      full x.context 3 (((s.chip.requestBytes x 0).length + 63) / 64)

/-- A read of the register block (R345): the status register; the write registers and reserved offsets read 0. -/
def State.registerRead (s : State) (off : Nat) : Dword :=
  if off = 0x210 then
    BitVec.ofNat 64 (b2n s.regBlock.ready 0 + b2n s.slipwayFenced 1 + b2n s.holdsRecords 2)
  else 0

/-! ## Clocks, reset, power -/

/-- CLOCK_THROTTLE (R353): the arithmetic clock in steps of 100 MHz. -/
def State.throttle (s : State) (mhz : Nat) : Option State :=
  if mhz = 0 ∨ 4000 < mhz ∨ mhz % 100 ≠ 0 then none else some (s.onChip fun c => { c with mhz := mhz })

/-- FREEZE_N (R354). -/
def State.freezeInput (s : State) (low : Nat) : State := if low = 0 then s else { s with frozen := true }

/-- What a reset leaves (R335, R348, R354): fuses, board flash and the world outside are as they were; firmware starts from
flash. -/
def State.afterReset (s : State) (powered : Bool) : State :=
  { State.reset with
    agenda := s.agenda, powered := powered, revoked := s.revoked, leafBlocks := s.leafBlocks, serial := s.serial
    leaf := s.leaf, firmware := s.flashed, flashed := s.flashed, host := s.host, peers := s.peers
    chip := { Chip.reset with choices := s.chip.choices, freeCount := s.chip.freeCount } }

/-- MODULE_RESET (R354). -/
def State.moduleReset (s : State) : Option State := if s.powered then some (s.afterReset true) else none

/-- POWER_ON (R335): the next fuse step is burned and its block begins at leaf 0. -/
def State.powerOn (s : State) : Option State :=
  if s.powered then none
  else
    let s := s.afterReset true
    some (if s.leafBlocks < 1024 then { s with leafBlocks := s.leafBlocks + 1, leaf := 0 } else { s with leaf := max s.leaf 1024 })

/-- POWER_LOSS (R354). -/
def State.powerLoss (s : State) : Option State := if s.powered then some (s.afterReset false) else none

/-- FIRMWARE_READY (R345). -/
def State.firmwareReady (s : State) : Option State :=
  if s.regBlock.ready then none else some { s with regBlock := { s.regBlock with ready := true } }

/-! ## Links -/

/-- SLIPWAY_FLIT_RETRY (R343): a flit is resent; nothing is lost. -/
def State.slipwayRetry (s : State) : Option State :=
  if s.slipwayFenced then none else some { s with slipwayRetries := s.slipwayRetries + 1 }

/-- SLIPWAY_LINK_FENCE (R343). -/
def State.slipwayFence (s : State) : Option State := if s.slipwayFenced then none else some { s with slipwayFenced := true }

/-- Changes a Towline link. -/
def Chip.modLink (c : Chip) (link : Nat) (f : Towline → Towline) : Chip :=
  { c with towlines := Sparse.put c.towlines link (f (Sparse.get Towline.untrained c.towlines link)) }
def State.towline (s : State) (link : Nat) : Towline := Sparse.get Towline.untrained s.chip.towlines link

/-- TOWLINE_LINK_TRAINED (R386). Which of the devices stands at the other end is the machine's choice, so that two links may lead to
one (log entry 34). -/
def State.linkTrained (s : State) (link : Nat) : Option State :=
  if 8 ≤ link ∨ (s.towline link).trained ∨ (s.towline link).fenced then none
  else some (s.onChip fun c =>
    let (k, c) := c.choose 8
    c.modLink link fun t => { t with trained := true, peer := (link + k) % 8 })

/-- TOWLINE_FLIT_RETRY (R386). -/
def State.linkRetry (s : State) (link : Nat) : Option State :=
  if (s.towline link).trained ∧ !(s.towline link).fenced then
    some (s.onChip fun c => c.modLink link fun t => { t with retries := t.retries + 1 })
  else none

/-- TOWLINE_LINK_FENCE (R391): notices, and the jobs that have started on the link stop, a chunk on its way written in part
or not. -/
def State.linkFence (s : State) (link : Nat) : Option State :=
  let t := s.towline link
  if 8 ≤ link ∨ t.fenced then none
  else
    let s := (s.notify (t.bound.map (·.1)) 4 link 0).onChip fun c => c.modLink link fun t => { t with fenced := true }
    let js := s.chip.jobs.filter fun e =>
      e.2.links.contains link && s.chip.onDie e.2 && e.2.status != .waiting && e.2.status != .saved
    some (js.foldl (fun s e => (s.tearChunk e.2).linkStop e.1 e.2 link) s)

/-- The physical addresses of some bytes of a bound context, if every one may be reached (R387). -/
def State.peerPlaces (s : State) (ctx va n : Nat) (r w : Bool) : Option (List Nat) :=
  (List.range n).mapM fun i =>
    match s.walk ctx (va + i) r w with
    | .page p _ _ => some (p * 65536 + (va + i) % 65536)
    | _ => none

/-- TOWLINE_PEER_REQUEST (R387, R388): an access of a peer, in the tables of a context bound to the link: `op mod 4` is 0 for
a read, 1 for a write, 2 for a reduce-add, and `op div 4` counts its bytes. A fault goes back to the peer. -/
def State.peerRequest (s : State) (link op va data : Nat) : Option State :=
  let t := s.towline link
  if !t.trained || t.fenced || t.bound.isEmpty || decide (2 < op % 4) || decide (4096 < op / 4) then none
  else
    let n := op / 4
    let (k, c) := s.chip.choose t.bound.length
    let s := { s with chip := c }
    let ctx := (t.bound.getD k (0, 0)).1
    match s.peerPlaces ctx va n (op % 4 != 1) (op % 4 != 0) with
    | none => some s
    | some as =>
      let new : List PByte := (bytesOfNum n data).map fun b => (b, false)
      let out := if op % 4 = 2 then reduceAll n (as.map fun a => (s.main.bytes.read a, s.main.poisoned a)) new else new
      if op % 4 = 0 then some s
      else some { s with main := (pieces (as.zip out)).foldl (fun m x => m.store x.1 x.2.1 x.2.2) s.main }

/-! ## Meanings -/

/-- QTAIL (R347). -/
def execQtail (q v : Nat) (σ : State) : Host.Outcome State Fault Refusal :=
  stateEvent (fun s => s.queueTail q v) σ

/-- REGISTER_BLOCK_WRITE (R345). -/
def execRegisterBlockWrite (off size v : Nat) (σ : State) : Host.Outcome State Fault Refusal :=
  stateEvent (fun s => s.registerWrite off size v) σ

/-- WINDOW_OPEN (R252). -/
def execWindowOpen (σ : State) : Host.Outcome State Fault Refusal :=
  stateEvent (fun s => s.command 1 [(8, 0, 4), (16, 0, 64), (24, 0, 64)] windowOpen) σ

/-- WINDOW_CLOSE (R252). -/
def execWindowClose (σ : State) : Host.Outcome State Fault Refusal :=
  stateEvent (fun s => s.command 2 [(8, 0, 4)] windowClose) σ

/-- WINDOW_DESCRIPTOR_READ (R349). -/
def execWindowDescriptorRead (σ : State) : Host.Outcome State Fault Refusal :=
  stateEvent (fun s => s.command 3 [(8, 0, 4), (16, 0, 64)] windowRead) σ

/-- RING_DEFINE (R346). -/
def execRingDefine (σ : State) : Host.Outcome State Fault Refusal :=
  stateEvent (fun s => s.command 4 [(8, 0, 3), (8, 8, 1), (16, 0, 64), (24, 0, 5), (32, 0, 64)] ringDefine) σ

/-- QUEUE_DEFINE (R349). -/
def execQueueDefine (σ : State) : Host.Outcome State Fault Refusal :=
  stateEvent (fun s => s.command 5 [(8, 0, 6), (8, 8, 2), (8, 16, 1), (12, 0, 16), (16, 0, 64), (24, 0, 5), (32, 0, 64)] (fun s _ bs => queueDefine s bs)) σ

/-- TRANSLATION_ROOT (R349). -/
def execTranslationRoot (σ : State) : Host.Outcome State Fault Refusal :=
  stateEvent (fun s => s.command 6 [(8, 0, 48), (16, 0, 32)] translationRoot) σ

/-- INVALIDATE (R339). -/
def execInvalidate (σ : State) : Host.Outcome State Fault Refusal :=
  stateEvent (fun s => s.command 7 [(8, 0, 57), (16, 0, 64)] invalidate) σ

/-- SHADOW_POOL_GRANT (R341). -/
def execShadowPoolGrant (σ : State) : Host.Outcome State Fault Refusal :=
  stateEvent (fun s => s.command 8 [(8, 0, 48), (16, 0, 64)] poolGrant) σ

/-- CONTEXT_SUSPEND (R348). -/
def execContextSuspend (σ : State) : Host.Outcome State Fault Refusal :=
  stateEvent (fun s => s.command 9 [] (fun s ctx _ => contextSuspend s ctx)) σ

/-- CONTEXT_RESUME (R348). -/
def execContextResume (σ : State) : Host.Outcome State Fault Refusal :=
  stateEvent (fun s => s.command 10 [] (fun s ctx _ => contextResume s ctx)) σ

/-- SLOT_RESET (R269). -/
def execSlotReset (σ : State) : Host.Outcome State Fault Refusal :=
  stateEvent (fun s => s.command 11 [(8, 0, 8), (8, 8, 4)] (fun s _ bs => slotReset s bs)) σ

/-- STATUS_READ (R349). -/
def execStatusRead (σ : State) : Host.Outcome State Fault Refusal :=
  stateEvent (fun s => s.command 12 [(8, 0, 64)] statusRead) σ

/-- FIRMWARE_LOAD (R348). -/
def execFirmwareLoad (σ : State) : Host.Outcome State Fault Refusal :=
  stateEvent (fun s => s.command 13 [(8, 0, 64), (16, 0, 64)] (fun s _ bs => firmwareLoad s bs)) σ

/-- QUOTE (R334). -/
def execQuote (σ : State) : Host.Outcome State Fault Refusal :=
  stateEvent (fun s => s.command 14 [(8, 0, 64), (16, 0, 64)] (fun s _ bs => quote s bs)) σ

/-- TOLUNE_DEFINE (R368). -/
def execToluneDefine (σ : State) : Host.Outcome State Fault Refusal :=
  stateEvent (fun s => s.command 15 [(8, 0, 32), (12, 0, 32), (16, 0, 32)] toluneDefine) σ

/-- TRANSLATION_INSTALL (R368). -/
def execTranslationInstall (σ : State) : Host.Outcome State Fault Refusal :=
  stateEvent (fun s => s.command 16 [(8, 0, 32), (12, 0, 32), (16, 0, 64)] translationInstall) σ

/-- TRACE_SET (R385). -/
def execTraceSet (σ : State) : Host.Outcome State Fault Refusal :=
  stateEvent (fun s => s.command 17 [(8, 0, 3), (12, 0, 5), (16, 0, 32), (20, 0, 32), (24, 0, 2)] traceSet) σ

/-- COMPARATOR_SET (R385). -/
def execComparatorSet (σ : State) : Host.Outcome State Fault Refusal :=
  stateEvent (fun s => s.command 18 [(8, 0, 16), (12, 0, 32), (16, 0, 32), (24, 0, 64)] comparatorSet) σ

/-- WARP_STOP (R385). -/
def execWarpStop (σ : State) : Host.Outcome State Fault Refusal :=
  stateEvent (fun s => s.command 19 [(8, 0, 32), (16, 0, 64)] warpStop) σ

/-- PEER_BIND (R386). -/
def execPeerBind (σ : State) : Host.Outcome State Fault Refusal :=
  stateEvent (fun s => s.command 20 [(8, 0, 3), (8, 8, 1), (12, 0, 32)] peerBind) σ

/-- CONTEXT_DEFINE (R349). -/
def execContextDefine (σ : State) : Host.Outcome State Fault Refusal :=
  stateEvent (fun s => s.command 21 [(8, 0, 32), (16, 0, 1)] contextDefine) σ

/-- CONTEXT_RELEASE (R349). -/
def execContextRelease (σ : State) : Host.Outcome State Fault Refusal :=
  stateEvent (fun s => s.command 22 [] (fun s ctx _ => contextRelease s ctx)) σ

/-- STICKY_CLEAR (R349). -/
def execStickyClear (σ : State) : Host.Outcome State Fault Refusal :=
  stateEvent (fun s => s.command 23 [(8, 0, 2)] stickyClear) σ

/-- CLOCK_THROTTLE (R353). -/
def execClockThrottle (mhz : Nat) (σ : State) : Host.Outcome State Fault Refusal :=
  stateEvent (fun s => s.throttle mhz) σ

/-- FREEZE_N (R354). -/
def execFreezeN (low : Nat) (σ : State) : Host.Outcome State Fault Refusal :=
  stateEvent (fun s => some (s.freezeInput low)) σ

/-- MODULE_RESET (R354). -/
def execModuleReset (σ : State) : Host.Outcome State Fault Refusal :=
  stateEvent (fun s => s.moduleReset) σ

/-- POWER_ON (R335). -/
def execPowerOn (σ : State) : Host.Outcome State Fault Refusal :=
  stateEvent (fun s => s.powerOn) σ

/-- POWER_LOSS (R354). -/
def execPowerLoss (σ : State) : Host.Outcome State Fault Refusal :=
  stateEvent (fun s => s.powerLoss) σ

/-- FIRMWARE_READY (R345). -/
def execFirmwareReady (σ : State) : Host.Outcome State Fault Refusal :=
  stateEvent (fun s => s.firmwareReady) σ

/-- SLIPWAY_FLIT_RETRY (R343). -/
def execSlipwayFlitRetry (σ : State) : Host.Outcome State Fault Refusal :=
  stateEvent (fun s => s.slipwayRetry) σ

/-- SLIPWAY_LINK_FENCE (R343). -/
def execSlipwayLinkFence (σ : State) : Host.Outcome State Fault Refusal :=
  stateEvent (fun s => s.slipwayFence) σ

/-- TOWLINE_FLIT_RETRY (R386). -/
def execTowlineFlitRetry (link : Nat) (σ : State) : Host.Outcome State Fault Refusal :=
  stateEvent (fun s => s.linkRetry link) σ

/-- TOWLINE_LINK_FENCE (R391). -/
def execTowlineLinkFence (link : Nat) (σ : State) : Host.Outcome State Fault Refusal :=
  stateEvent (fun s => s.linkFence link) σ

/-- TOWLINE_LINK_TRAINED (R386). -/
def execTowlineLinkTrained (link : Nat) (σ : State) : Host.Outcome State Fault Refusal :=
  stateEvent (fun s => s.linkTrained link) σ

/-- TOWLINE_PEER_REQUEST (R387). -/
def execTowlinePeerRequest (link op va data : Nat) (σ : State) : Host.Outcome State Fault Refusal :=
  stateEvent (fun s => s.peerRequest link op va data) σ

end Sys2Proof.Machine
end

