-- ==== Sys2Proof/Machine/Patch.lean ====
section
/-!
DEFINITION. Patch activations (R327 to R333): reading an image, its checks, writing it into the bank that is not current,
the sweep of a live image, and the end of an activation.
-/

namespace Sys2Proof.Machine

/-! ## Images -/

/-- A patch image, as far as its header goes (R331). -/
structure Image where
  live : Bool
  serial : Nat
  clen : Nat
  key : Nat
  /-- A must-be-0 field is not 0, or ver or kind is not this device's (R332). -/
  bad : Bool
  slots : List MouldSlot
  deriving DecidableEq, Repr

/-- The header and the slots of an image (R319, R331). -/
def imageOf (bs : List Byte) : Image where
  live := bitsOf (field bs 4 4) 0 1 = 1
  serial := field bs 8 4
  clen := field bs 12 4
  key := bitsOf (field bs 16 4) 0 1
  bad := field bs 2 2 != 0 || field bs 1 1 != 1 || field bs 0 1 != 0 || bitsOf (field bs 4 4) 1 31 != 0 ||
    bitsOf (field bs 16 4) 1 31 != 0 || field bs 20 44 != 0
  slots := (List.range 16).map fun i => (List.range 8).map fun k => BitVec.ofNat 32 (field bs (0x40 + 32 * i + 4 * k) 4)

/-- The resident code's length breaks R331. -/
def Image.badLength (x : Image) : Bool := x.clen % 4 != 0 || decide (65536 < x.clen)

/-- A valid slot breaks a rule of R332. Event slots use no xq; their mask has the layout of value, its bits 31:12 being 0
(R319; DEDUCED, log entry 92). -/
def badSlot (clen : Nat) (s : MouldSlot) : Bool :=
  let ev := s.event
  let a := s.action
  let w7 := s.word 7
  s.valid &&
    (s.form == 3 || s.xq == 3 || decide (4 < a) || (!ev && decide (2 < a)) || (ev && decide (a < 3)) ||
      (a == 2 && s.form != 0) || (s.form == 2 && a != 0 && a != 4) ||
      (if a = 1 then !(s.templates == 1 || s.templates == 2) else s.templates != 0) ||
      (s.form == 1 && (w7.getLsbD 0 || w7.getLsbD 8)) ||
      ((a == 2 || a == 3) && (s.target.extractLsb' 0 2 != 0 || decide (clen ≤ s.target.toNat))) ||
      (ev && (s.word 0 ||| s.word 1).extractLsb' 12 20 != 0))

/-- The must-be-0 fields of a slot (R319). -/
def slotReserved (s : MouldSlot) : Bool := (s.word 7).extractLsb' 15 17 != 0 || (s.word 7).getLsbD 7

/-- Bytes of the signed part (R331). -/
def Image.signed (x : Image) : Nat := 0x240 + x.clen

/-- Main-memory bytes of the system context from an aligned address, as far as they are asked for. -/
def State.systemBytes (s : State) (a n : Nat) : Option (List Byte) := (s.mainRead 0 a ((n + 63) / 64)).map fun bs => bs.take n

/-- The reason an image is refused, or its signed bytes (R332, R333, R308). -/
def State.imageCheck (s : State) (r : LaunchRecord) : Except Nat (Image × List Byte) :=
  if r.ctx != 0 then .error 9
  else
    match s.systemBytes r.hdr 0x240 with
    | none => .error 10
    | some hd =>
      let x := imageOf hd
      if x.badLength then .error 10
      else
        match s.systemBytes r.hdr (x.signed + signatureBytes) with
        | none => .error 10
        | some bs =>
          let body := bs.take x.signed
          if !s.imageKeys.contains x.key || !imageSigned x.key body (bs.drop x.signed) ||
              decide (x.serial ≤ (s.chip.bankOf s.chip.bank).serial) then .error 9
          else if x.bad || x.slots.any slotReserved || x.slots.any (badSlot x.clen) then .error 10
          else .ok (x, body)

/-! ## Activations -/

/-- No running or pre-empted launch is bound to a bank (R327). -/
def Chip.bankFree (c : Chip) (bank : Nat) : Bool := !(c.launches.any fun e => e.2.bankBound && e.2.pbank == bank)

/-- An image is written into a bank of every core (R327, R328). -/
def Chip.writeBank (c : Chip) (bank : Nat) (x : Image) (body : List Byte) : Chip :=
  let b : MouldBank :=
    { slots := x.slots, code := wordsOfBytes (body.drop 0x240), serial := x.serial, digest := some (shake256 body) }
  { c with banks := Sparse.put c.banks bank b }

/-- A live sweep (R328): every warp and every bound launch moves to the new bank, a run in progress keeping its own until
it ends (R42). -/
def Chip.sweep (c : Chip) (bank gen : Nat) : Chip :=
  { c with
    warps := c.warps.map fun e => (e.1, { e.2 with pbank := bank, pgen := gen })
    launches := c.launches.map fun e =>
      (e.1, if e.2.bankBound then { e.2 with pbank := bank, pgen := gen } else e.2) }

/-- PATCH_ACTIVATION (R327, R328, R330, R332): one at a time, when nothing is bound to the bank it writes. -/
def State.activate (s : State) (q : Nat) : Option State :=
  (s.headRecord q).bind fun r =>
    let x := s.queue q
    if !s.queueFree q || r.kind != 1 || s.activation.isSome then none
    else if s.badRecord q r then some (s.refuseRecord q r 1)
    else if r.waits.any fun w => w.1 == q && decide (x.head ≤ w.2) then some (s.refuseRecord q r 8)
    else if !s.waitsMet q r then none
    else
      match s.imageCheck r with
      | .error why => some (s.refuseRecord q r why)
      | .ok (img, body) =>
        let bank := 1 - s.chip.bank
        if !s.chip.bankFree bank then none
        else
          let s := (s.takeRecord q).modQueue q fun y => { y with heldBy := some x.head }
          let s := s.onChip fun c =>
            let c := c.writeBank bank img body
            if img.live then c.sweep bank c.nextGen else c
          some { s with activation := some ⟨q, x.head, img.live, bank, s.chip.ns, false⟩ }

/-- PATCH_ACTIVATION_COMPLETE (R328): the completion record goes to its ring, and with it the bank becomes current; a live
activation waits until no run is left in the old bank. -/
def State.activationDone (s : State) : Option State :=
  s.activation.bind fun a =>
    if a.ended || (a.live && s.chip.warps.any fun e => e.2.runs.any fun r => r.2.bank != a.bank) then none
    else
      some ({ s with activation := some { a with ended := true } }.postEntry 0
        (launchEntry 2 0 0 a.queue a.seq 0 0 0 (s.chip.context 0) false false) (some .activation))

/-! ## Meanings -/

/-- PATCH_ACTIVATION (R328). -/
def execPatchActivation (q : Nat) (σ : State) : Host.Outcome State Fault Refusal :=
  stateEvent (fun s => s.activate q) σ

/-- PATCH_ACTIVATION_COMPLETE (R328). -/
def execPatchActivationComplete (σ : State) : Host.Outcome State Fault Refusal :=
  stateEvent (fun s => s.activationDone) σ

end Sys2Proof.Machine
end

