-- ==== Sys2Proof/Machine/Dispatch.lean ====
section
/-!
DEFINITION. The meaning of every instruction and event, one direct call each.
-/

namespace Sys2Proof.Machine

def exec (i : Instr) (s : State) : Host.Outcome State Fault Refusal :=
  match i with
  | .nop st => Sys2Proof.Machine.execNop st s
  | .runt d a b f => Sys2Proof.Machine.execRunt d a b f s
  | .ext p => Sys2Proof.Machine.execExt p s
  | .bra imm st => Sys2Proof.Machine.execBra imm st s
  | .bnz d imm st => Sys2Proof.Machine.execBnz d imm st s
  | .bz d imm st => Sys2Proof.Machine.execBz d imm st s
  | .bltz d imm st => Sys2Proof.Machine.execBltz d imm st s
  | .bgez d imm st => Sys2Proof.Machine.execBgez d imm st s
  | .jpt imm st => Sys2Proof.Machine.execJpt imm st s
  | .rejoin st => Sys2Proof.Machine.execRejoin st s
  | .call k imm st => Sys2Proof.Machine.execCall k imm st s
  | .callr k a st => Sys2Proof.Machine.execCallr k a st s
  | .ret st => Sys2Proof.Machine.execRet st s
  | .jmpr a st => Sys2Proof.Machine.execJmpr a st s
  | .land st => Sys2Proof.Machine.execLand st s
  | .exit st => Sys2Proof.Machine.execExit st s
  | .svc imm st => Sys2Proof.Machine.execSvc imm st s
  | .trap imm st => Sys2Proof.Machine.execTrap imm st s
  | .brk imm st => Sys2Proof.Machine.execBrk imm st s
  | .spinw d a b st => Sys2Proof.Machine.execSpinw d a b st s
  | .wbase d k st => Sys2Proof.Machine.execWbase d k st s
  | .rget d a st => Sys2Proof.Machine.execRget d a st s
  | .rput d a st => Sys2Proof.Machine.execRput d a st s
  | .add d a b st => Sys2Proof.Machine.execAdd d a b st s
  | .sub d a b st => Sys2Proof.Machine.execSub d a b st s
  | .mul d a b st => Sys2Proof.Machine.execMul d a b st s
  | .mulhs d a b st => Sys2Proof.Machine.execMulhs d a b st s
  | .mulhu d a b st => Sys2Proof.Machine.execMulhu d a b st s
  | .mad d a b st => Sys2Proof.Machine.execMad d a b st s
  | .divs d a b st => Sys2Proof.Machine.execDivs d a b st s
  | .divu d a b st => Sys2Proof.Machine.execDivu d a b st s
  | .rems d a b st => Sys2Proof.Machine.execRems d a b st s
  | .remu d a b st => Sys2Proof.Machine.execRemu d a b st s
  | .and d a b st => Sys2Proof.Machine.execAnd d a b st s
  | .or d a b st => Sys2Proof.Machine.execOr d a b st s
  | .xor d a b st => Sys2Proof.Machine.execXor d a b st s
  | .andn d a b st => Sys2Proof.Machine.execAndn d a b st s
  | .shl d a b st => Sys2Proof.Machine.execShl d a b st s
  | .shr d a b st => Sys2Proof.Machine.execShr d a b st s
  | .sar d a b st => Sys2Proof.Machine.execSar d a b st s
  | .rol d a b st => Sys2Proof.Machine.execRol d a b st s
  | .mins d a b st => Sys2Proof.Machine.execMins d a b st s
  | .minu d a b st => Sys2Proof.Machine.execMinu d a b st s
  | .maxs d a b st => Sys2Proof.Machine.execMaxs d a b st s
  | .maxu d a b st => Sys2Proof.Machine.execMaxu d a b st s
  | .seq d a b st => Sys2Proof.Machine.execSeq d a b st s
  | .sne d a b st => Sys2Proof.Machine.execSne d a b st s
  | .slt d a b st => Sys2Proof.Machine.execSlt d a b st s
  | .sltu d a b st => Sys2Proof.Machine.execSltu d a b st s
  | .sle d a b st => Sys2Proof.Machine.execSle d a b st s
  | .sleu d a b st => Sys2Proof.Machine.execSleu d a b st s
  | .csel d a b st => Sys2Proof.Machine.execCsel d a b st s
  | .mov d a st => Sys2Proof.Machine.execMov d a st s
  | .clz d a st => Sys2Proof.Machine.execClz d a st s
  | .ctz d a st => Sys2Proof.Machine.execCtz d a st s
  | .popc d a st => Sys2Proof.Machine.execPopc d a st s
  | .brev d a st => Sys2Proof.Machine.execBrev d a st s
  | .abs d a st => Sys2Proof.Machine.execAbs d a st s
  | .bfxu d a b st => Sys2Proof.Machine.execBfxu d a b st s
  | .bfxs d a b st => Sys2Proof.Machine.execBfxs d a b st s
  | .bfi d a b st => Sys2Proof.Machine.execBfi d a b st s
  | .addi d a imm st => Sys2Proof.Machine.execAddi d a imm st s
  | .andi d a imm st => Sys2Proof.Machine.execAndi d a imm st s
  | .ori d a imm st => Sys2Proof.Machine.execOri d a imm st s
  | .xori d a imm st => Sys2Proof.Machine.execXori d a imm st s
  | .shli d a imm st => Sys2Proof.Machine.execShli d a imm st s
  | .shri d a imm st => Sys2Proof.Machine.execShri d a imm st s
  | .sari d a imm st => Sys2Proof.Machine.execSari d a imm st s
  | .movi d imm st => Sys2Proof.Machine.execMovi d imm st s
  | .slti d a imm st => Sys2Proof.Machine.execSlti d a imm st s
  | .seqi d a imm st => Sys2Proof.Machine.execSeqi d a imm st s
  | .lea1 d a b st => Sys2Proof.Machine.execLea1 d a b st s
  | .lea2 d a b st => Sys2Proof.Machine.execLea2 d a b st s
  | .lea4 d a b st => Sys2Proof.Machine.execLea4 d a b st s
  | .lea8 d a b st => Sys2Proof.Machine.execLea8 d a b st s
  | .add64 d a b st => Sys2Proof.Machine.execAdd64 d a b st s
  | .sub64 d a b st => Sys2Proof.Machine.execSub64 d a b st s
  | .mulw d a b st => Sys2Proof.Machine.execMulw d a b st s
  | .sltu64 d a b st => Sys2Proof.Machine.execSltu64 d a b st s
  | .fadd d a b st => Sys2Proof.Machine.execFadd d a b st s
  | .fsub d a b st => Sys2Proof.Machine.execFsub d a b st s
  | .fmul d a b st => Sys2Proof.Machine.execFmul d a b st s
  | .ffma d a b st => Sys2Proof.Machine.execFfma d a b st s
  | .ffms d a b st => Sys2Proof.Machine.execFfms d a b st s
  | .fmin d a b st => Sys2Proof.Machine.execFmin d a b st s
  | .fmax d a b st => Sys2Proof.Machine.execFmax d a b st s
  | .fcps d a b st => Sys2Proof.Machine.execFcps d a b st s
  | .feq d a b st => Sys2Proof.Machine.execFeq d a b st s
  | .flt d a b st => Sys2Proof.Machine.execFlt d a b st s
  | .fle d a b st => Sys2Proof.Machine.execFle d a b st s
  | .funo d a b st => Sys2Proof.Machine.execFuno d a b st s
  | .frcp d a st => Sys2Proof.Machine.execFrcp d a st s
  | .frsq d a st => Sys2Proof.Machine.execFrsq d a st s
  | .fsqrt d a st => Sys2Proof.Machine.execFsqrt d a st s
  | .fdiv d a b st => Sys2Proof.Machine.execFdiv d a b st s
  | .fexp2 d a st => Sys2Proof.Machine.execFexp2 d a st s
  | .flog2 d a st => Sys2Proof.Machine.execFlog2 d a st s
  | .fsin d a st => Sys2Proof.Machine.execFsin d a st s
  | .fcos d a st => Sys2Proof.Machine.execFcos d a st s
  | .dadd d a b st => Sys2Proof.Machine.execDadd d a b st s
  | .dsub d a b st => Sys2Proof.Machine.execDsub d a b st s
  | .dmul d a b st => Sys2Proof.Machine.execDmul d a b st s
  | .dfma d a b st => Sys2Proof.Machine.execDfma d a b st s
  | .dmin d a b st => Sys2Proof.Machine.execDmin d a b st s
  | .dmax d a b st => Sys2Proof.Machine.execDmax d a b st s
  | .deq d a b st => Sys2Proof.Machine.execDeq d a b st s
  | .dlt d a b st => Sys2Proof.Machine.execDlt d a b st s
  | .dle d a b st => Sys2Proof.Machine.execDle d a b st s
  | .ddiv d a b st => Sys2Proof.Machine.execDdiv d a b st s
  | .dsqrt d a st => Sys2Proof.Machine.execDsqrt d a st s
  | .drcp d a st => Sys2Proof.Machine.execDrcp d a st s
  | .hadd2 d a b st => Sys2Proof.Machine.execHadd2 d a b st s
  | .hmul2 d a b st => Sys2Proof.Machine.execHmul2 d a b st s
  | .hfma2 d a b st => Sys2Proof.Machine.execHfma2 d a b st s
  | .badd2 d a b st => Sys2Proof.Machine.execBadd2 d a b st s
  | .bmul2 d a b st => Sys2Proof.Machine.execBmul2 d a b st s
  | .bfma2 d a b st => Sys2Proof.Machine.execBfma2 d a b st s
  | .cvt d a c st => Sys2Proof.Machine.execCvt d a c st s
  | .cvtz d a c st => Sys2Proof.Machine.execCvtz d a c st s
  | .fclass d a st => Sys2Proof.Machine.execFclass d a st s
  | .fldx d a b st => Sys2Proof.Machine.execFldx d a b st s
  | .frnd d a m st => Sys2Proof.Machine.execFrnd d a m st s
  | .drnd d a m st => Sys2Proof.Machine.execDrnd d a m st s
  | .fdot2 d a b st => Sys2Proof.Machine.execFdot2 d a b st s
  | .hdot2 d a b st => Sys2Proof.Machine.execHdot2 d a b st s
  | .packb d a b st => Sys2Proof.Machine.execPackb d a b st s
  | .packh d a b st => Sys2Proof.Machine.execPackh d a b st s
  | .ldb d a imm st => Sys2Proof.Machine.execLdb d a imm st s
  | .ldbs d a imm st => Sys2Proof.Machine.execLdbs d a imm st s
  | .ldh d a imm st => Sys2Proof.Machine.execLdh d a imm st s
  | .ldhs d a imm st => Sys2Proof.Machine.execLdhs d a imm st s
  | .ldw d a imm st => Sys2Proof.Machine.execLdw d a imm st s
  | .ldd d a imm st => Sys2Proof.Machine.execLdd d a imm st s
  | .ldq d a imm st => Sys2Proof.Machine.execLdq d a imm st s
  | .stb d a imm st => Sys2Proof.Machine.execStb d a imm st s
  | .sth d a imm st => Sys2Proof.Machine.execSth d a imm st s
  | .stw d a imm st => Sys2Proof.Machine.execStw d a imm st s
  | .std d a imm st => Sys2Proof.Machine.execStd d a imm st s
  | .stq d a imm st => Sys2Proof.Machine.execStq d a imm st s
  | .ldo d a c o z st => Sys2Proof.Machine.execLdo d a c o z st s
  | .sto d a c o z st => Sys2Proof.Machine.execSto d a c o z st s
  | .aadd d a c o z st => Sys2Proof.Machine.execAadd d a c o z st s
  | .aand d a c o z st => Sys2Proof.Machine.execAand d a c o z st s
  | .aor d a c o z st => Sys2Proof.Machine.execAor d a c o z st s
  | .axor d a c o z st => Sys2Proof.Machine.execAxor d a c o z st s
  | .amins d a c o z st => Sys2Proof.Machine.execAmins d a c o z st s
  | .aminu d a c o z st => Sys2Proof.Machine.execAminu d a c o z st s
  | .amaxs d a c o z st => Sys2Proof.Machine.execAmaxs d a c o z st s
  | .amaxu d a c o z st => Sys2Proof.Machine.execAmaxu d a c o z st s
  | .axch d a c o z st => Sys2Proof.Machine.execAxch d a c o z st s
  | .acas d a c o z st => Sys2Proof.Machine.execAcas d a c o z st s
  | .afxa d a c o z st => Sys2Proof.Machine.execAfxa d a c o z st s
  | .afxr d a c o z st => Sys2Proof.Machine.execAfxr d a c o z st s
  | .afxz d a c o st => Sys2Proof.Machine.execAfxz d a c o st s
  | .fence c o st => Sys2Proof.Machine.execFence c o st s
  | .tgrab d a st => Sys2Proof.Machine.execTgrab d a st s
  | .tinit a b st => Sys2Proof.Machine.execTinit a b st s
  | .vote d a m st => Sys2Proof.Machine.execVote d a m st s
  | .shfi d a b st => Sys2Proof.Machine.execShfi d a b st s
  | .shfu d a n st => Sys2Proof.Machine.execShfu d a n st s
  | .shfd d a n st => Sys2Proof.Machine.execShfd d a n st s
  | .shfx d a n st => Sys2Proof.Machine.execShfx d a n st s
  | .redf d a m st => Sys2Proof.Machine.execRedf d a m st s
  | .redi d a m st => Sys2Proof.Machine.execRedi d a m st s
  | .scni d a x o st => Sys2Proof.Machine.execScni d a x o st s
  | .matchw d a st => Sys2Proof.Machine.execMatchw d a st s
  | .elect d st => Sys2Proof.Machine.execElect d st s
  | .qswz d a b st => Sys2Proof.Machine.execQswz d a b st s
  | .sbind n a b st => Sys2Proof.Machine.execSbind n a b st s
  | .spos d a t n st => Sys2Proof.Machine.execSpos d a t n st s
  | .qbind q b st => Sys2Proof.Machine.execQbind q b st s
  | .wspl k st => Sys2Proof.Machine.execWspl k st s
  | .wfil k st => Sys2Proof.Machine.execWfil k st s
  | .dsp c st => Sys2Proof.Machine.execDsp c st s
  | .gldb d imm st => Sys2Proof.Machine.execGldb d imm st s
  | .gldbs d imm st => Sys2Proof.Machine.execGldbs d imm st s
  | .gldh d imm st => Sys2Proof.Machine.execGldh d imm st s
  | .gldhs d imm st => Sys2Proof.Machine.execGldhs d imm st s
  | .gldw d imm st => Sys2Proof.Machine.execGldw d imm st s
  | .gadv imm st => Sys2Proof.Machine.execGadv imm st s
  | .gjmp a st => Sys2Proof.Machine.execGjmp a st s
  | .gjrel a st => Sys2Proof.Machine.execGjrel a st s
  | .gtrap imm st => Sys2Proof.Machine.execGtrap imm st s
  | .bld k a b st => Sys2Proof.Machine.execBld k a b st s
  | .cbl t a st => Sys2Proof.Machine.execCbl t a st s
  | .mma d a b st => Sys2Proof.Machine.execMma d a b st s
  | .mmab d a b st => Sys2Proof.Machine.execMmab d a b st s
  | .mmas d a b st => Sys2Proof.Machine.execMmas d a b st s
  | .drn d a w g st => Sys2Proof.Machine.execDrn d a w g st s
  | .acz d p st => Sys2Proof.Machine.execAcz d p st s
  | .acl d a w g st => Sys2Proof.Machine.execAcl d a w g st s
  | .rqt d a b st => Sys2Proof.Machine.execRqt d a b st s
  | .mstat d b st => Sys2Proof.Machine.execMstat d b st s
  | .dwait d a st => Sys2Proof.Machine.execDwait d a st s
  | .dpoll d a st => Sys2Proof.Machine.execDpoll d a st s
  | .drst d st => Sys2Proof.Machine.execDrst d st s
  | .rwait d a st => Sys2Proof.Machine.execRwait d a st s
  | .rrel d st => Sys2Proof.Machine.execRrel d st s
  | .rclm d a st => Sys2Proof.Machine.execRclm d a st s
  | .rcmt d a st => Sys2Proof.Machine.execRcmt d a st s
  | .bar b st => Sys2Proof.Machine.execBar b st s
  | .bara a b st => Sys2Proof.Machine.execBara a b st s
  | .barw a b st => Sys2Proof.Machine.execBarw a b st s
  | .srd d b st => Sys2Proof.Machine.execSrd d b st s
  | .swr a b st => Sys2Proof.Machine.execSwr a b st s
  | .pcrd d a st => Sys2Proof.Machine.execPcrd d a st s
  | .tmrk imm st => Sys2Proof.Machine.execTmrk imm st s
  | .time d st => Sys2Proof.Machine.execTime d st s
  | .toluneInstruction w l => Sys2Proof.Machine.execToluneInstruction w l s
  | .portRunChoice core port => Sys2Proof.Machine.execPortRunChoice core port s
  | .strayIssue core port => Sys2Proof.Machine.execStrayIssue core port s
  | .strayPromotion w l => Sys2Proof.Machine.execStrayPromotion w l s
  | .gangAgingPromotion w l => Sys2Proof.Machine.execGangAgingPromotion w l s
  | .regroupHoldExpiry w l => Sys2Proof.Machine.execRegroupHoldExpiry w l s
  | .loopBufferRefill w l => Sys2Proof.Machine.execLoopBufferRefill w l s
  | .loadResultDeliver w l n => Sys2Proof.Machine.execLoadResultDeliver w l n s
  | .storePerformed w => Sys2Proof.Machine.execStorePerformed w s
  | .atomicResultDeliver w l n => Sys2Proof.Machine.execAtomicResultDeliver w l n s
  | .divideResultDeliver w l n => Sys2Proof.Machine.execDivideResultDeliver w l n s
  | .fdivResultDeliver w l n => Sys2Proof.Machine.execFdivResultDeliver w l n s
  | .guestLoadDeliver w l n => Sys2Proof.Machine.execGuestLoadDeliver w l n s
  | .rputWriteDeliver w l n => Sys2Proof.Machine.execRputWriteDeliver w l n s
  | .dspReadsComplete w l => Sys2Proof.Machine.execDspReadsComplete w l s
  | .spinwReread w l => Sys2Proof.Machine.execSpinwReread w l s
  | .dpollResultDeliver w l n => Sys2Proof.Machine.execDpollResultDeliver w l n s
  | .tgrabResultDeliver w l n => Sys2Proof.Machine.execTgrabResultDeliver w l n s
  | .ringSlotDeliver w l n => Sys2Proof.Machine.execRingSlotDeliver w l n s
  | .streamElementArrive w l n => Sys2Proof.Machine.execStreamElementArrive w l n s
  | .matrixProductStart core => Sys2Proof.Machine.execMatrixProductStart core s
  | .narrowProductComplete core => Sys2Proof.Machine.execNarrowProductComplete core s
  | .slicedPassComplete core => Sys2Proof.Machine.execSlicedPassComplete core s
  | .bldComplete core => Sys2Proof.Machine.execBldComplete core s
  | .cblComplete core => Sys2Proof.Machine.execCblComplete core s
  | .drainResultDeliver core => Sys2Proof.Machine.execDrainResultDeliver core s
  | .mstatResultDeliver core => Sys2Proof.Machine.execMstatResultDeliver core s
  | .rqtJobComplete j => Sys2Proof.Machine.execRqtJobComplete j s
  | .stagingRegisterWrite w => Sys2Proof.Machine.execStagingRegisterWrite w s
  | .go w => Sys2Proof.Machine.execGo w s
  | .jobStart j => Sys2Proof.Machine.execJobStart j s
  | .jobRingClaim j => Sys2Proof.Machine.execJobRingClaim j s
  | .jobChunkComplete j => Sys2Proof.Machine.execJobChunkComplete j s
  | .pageWalkComplete j => Sys2Proof.Machine.execPageWalkComplete j s
  | .peerChunkAck j => Sys2Proof.Machine.execPeerChunkAck j s
  | .jobComplete j => Sys2Proof.Machine.execJobComplete j s
  | .ladleChannelError cluster channel => Sys2Proof.Machine.execLadleChannelError cluster channel s
  | .rqtError cluster => Sys2Proof.Machine.execRqtError cluster s
  | .ringStateError b => Sys2Proof.Machine.execRingStateError b s
  | .patrolScrub addr => Sys2Proof.Machine.execPatrolScrub addr s
  | .slipwayFlitRetry => Sys2Proof.Machine.execSlipwayFlitRetry s
  | .slipwayLinkFence => Sys2Proof.Machine.execSlipwayLinkFence s
  | .towlineFlitRetry link => Sys2Proof.Machine.execTowlineFlitRetry link s
  | .towlineLinkFence link => Sys2Proof.Machine.execTowlineLinkFence link s
  | .qtail q v => Sys2Proof.Machine.execQtail q v s
  | .registerBlockWrite off size v => Sys2Proof.Machine.execRegisterBlockWrite off size v s
  | .launchRecord q => Sys2Proof.Machine.execLaunchRecord q s
  | .markerRecord q => Sys2Proof.Machine.execMarkerRecord q s
  | .patchActivation q => Sys2Proof.Machine.execPatchActivation q s
  | .patchActivationComplete => Sys2Proof.Machine.execPatchActivationComplete s
  | .bindBlock die => Sys2Proof.Machine.execBindBlock die s
  | .bindRecord core => Sys2Proof.Machine.execBindRecord core s
  | .unbindNotice w => Sys2Proof.Machine.execUnbindNotice w s
  | .blockComplete b => Sys2Proof.Machine.execBlockComplete b s
  | .windowOpenComplete ctx win => Sys2Proof.Machine.execWindowOpenComplete ctx win s
  | .engineStopAck b kind id => Sys2Proof.Machine.execEngineStopAck b kind id s
  | .preemptStallTimeout w l => Sys2Proof.Machine.execPreemptStallTimeout w l s
  | .preemptQuantumExpiry b => Sys2Proof.Machine.execPreemptQuantumExpiry b s
  | .queueHeadAging q => Sys2Proof.Machine.execQueueHeadAging q s
  | .trapRecordPost ctx => Sys2Proof.Machine.execTrapRecordPost ctx s
  | .serviceRequestPost ctx => Sys2Proof.Machine.execServiceRequestPost ctx s
  | .serviceWarpRebind ctx => Sys2Proof.Machine.execServiceWarpRebind ctx s
  | .ringHeadRelease v => Sys2Proof.Machine.execRingHeadRelease v s
  | .trapReplyResume ctx => Sys2Proof.Machine.execTrapReplyResume ctx s
  | .trapReplyRedirect ctx => Sys2Proof.Machine.execTrapReplyRedirect ctx s
  | .trapReplyAbort ctx => Sys2Proof.Machine.execTrapReplyAbort ctx s
  | .trapReplyChunkServiced ctx => Sys2Proof.Machine.execTrapReplyChunkServiced ctx s
  | .trapReplyChunkFatal ctx => Sys2Proof.Machine.execTrapReplyChunkFatal ctx s
  | .serviceReplyResume ctx => Sys2Proof.Machine.execServiceReplyResume ctx s
  | .serviceReplyAbort ctx => Sys2Proof.Machine.execServiceReplyAbort ctx s
  | .windowOpen => Sys2Proof.Machine.execWindowOpen s
  | .windowClose => Sys2Proof.Machine.execWindowClose s
  | .windowDescriptorRead => Sys2Proof.Machine.execWindowDescriptorRead s
  | .ringDefine => Sys2Proof.Machine.execRingDefine s
  | .queueDefine => Sys2Proof.Machine.execQueueDefine s
  | .translationRoot => Sys2Proof.Machine.execTranslationRoot s
  | .invalidate => Sys2Proof.Machine.execInvalidate s
  | .shadowPoolGrant => Sys2Proof.Machine.execShadowPoolGrant s
  | .contextSuspend => Sys2Proof.Machine.execContextSuspend s
  | .contextResume => Sys2Proof.Machine.execContextResume s
  | .slotReset => Sys2Proof.Machine.execSlotReset s
  | .statusRead => Sys2Proof.Machine.execStatusRead s
  | .firmwareLoad => Sys2Proof.Machine.execFirmwareLoad s
  | .quote => Sys2Proof.Machine.execQuote s
  | .toluneDefine => Sys2Proof.Machine.execToluneDefine s
  | .translationInstall => Sys2Proof.Machine.execTranslationInstall s
  | .traceSet => Sys2Proof.Machine.execTraceSet s
  | .comparatorSet => Sys2Proof.Machine.execComparatorSet s
  | .warpStop => Sys2Proof.Machine.execWarpStop s
  | .peerBind => Sys2Proof.Machine.execPeerBind s
  | .contextDefine => Sys2Proof.Machine.execContextDefine s
  | .contextRelease => Sys2Proof.Machine.execContextRelease s
  | .stickyClear => Sys2Proof.Machine.execStickyClear s
  | .clockThrottle mhz => Sys2Proof.Machine.execClockThrottle mhz s
  | .freezeN low => Sys2Proof.Machine.execFreezeN low s
  | .moduleReset => Sys2Proof.Machine.execModuleReset s
  | .powerOn => Sys2Proof.Machine.execPowerOn s
  | .powerLoss => Sys2Proof.Machine.execPowerLoss s
  | .towlinePeerRequest link op va data => Sys2Proof.Machine.execTowlinePeerRequest link op va data s
  | .peerFaultReturn j why => Sys2Proof.Machine.execPeerFaultReturn j why s
  | .towlineLinkTrained link => Sys2Proof.Machine.execTowlineLinkTrained link s
  | .firmwareReady => Sys2Proof.Machine.execFirmwareReady s
  | .collectiveResultDeliver w n => Sys2Proof.Machine.execCollectiveResultDeliver w n s
  | .threadMoveComplete w l => Sys2Proof.Machine.execThreadMoveComplete w l s
  | .instructionCacheRefill w l => Sys2Proof.Machine.execInstructionCacheRefill w l s

end Sys2Proof.Machine
end

