-- ==== Sys2Proof/Machine/Turns.lean ====
section
/-!
DEFINITION. What a step does around an instruction: the acts of the world outside, what settles after every step, and
the word placed for the next step.
-/

namespace Sys2Proof.Machine

/-! ## After a step -/

/-- A head that becomes ready is timed from then; one that is not ready is not (R264). -/
def State.timeHeads (s : State) : State :=
  { s with queues := s.queues.map fun e => (e.1,
      if e.2.defined && s.headReady e.1 then { e.2 with readyAt := e.2.readyAt.or (some s.chip.ns) }
      else { e.2 with readyAt := none, aged := false }) }

/-- An entry of a join stack as it stands in the spill area; the order of its parts is the model's (log entry 43). -/
def Join.bytes (e : Join) : List Byte :=
  bytesOfNum 8 e.target.toNat ++ bytesOfNum 8 e.mask.toNat ++ bytesOfNum 8 e.arrived.toNat ++ bytesOfNum 8 e.num

/-- The entries of a warp's join stack that 16 newer ones have pushed off the core, by depth (R116). -/
def Warp.deepJoins (wp : Warp) : List (Join × Nat) := ((wp.joins.drop 16).reverse).zipIdx

/-- Deeper entries of the join stacks stand in their spill areas (R116). -/
def Chip.spillJoins (c : Chip) : Chip :=
  c.warps.foldl (fun c e => e.2.deepJoins.foldl (fun c x =>
    { c with spill := { c.spill with bytes := c.spill.bytes.writeBytes (e.2.joinBase + 32 * x.2) x.1.bytes } }) c) c

/-- Lanes of a warp that may not issue are eligible from when it may again (R150, R151). -/
def Chip.holdAges (c : Chip) : Chip :=
  { c with warps := c.warps.map fun e => (e.1,
      if c.warpRuns e.1 then e.2 else { e.2 with threads := e.2.threads.map fun t => (t.1, { t.2 with since := c.cycle }) }) }

/-- Waits that are over are dropped in every warp. -/
def Chip.dropAllWaits (c : Chip) : Chip := c.warps.foldl (fun c e => c.dropWaits e.1) c

/-- What every step leaves settled: cores to fence, trace records, heads, spilled join entries, merges after a `rejoin`, waits that
are over, the age of lanes and strays. -/
def State.settle (s : State) : State :=
  { (s.settleFailures.flushTrace.timeHeads.onChip fun c => c.spillJoins.mergeWhereDue.dropAllWaits.holdAges.ageStrays) with
    focus := none }

/-- The same for an outcome. -/
def settled : Host.Outcome State Fault Refusal → Host.Outcome State Fault Refusal
  | .next s => .next s.settle
  | x => x

/-! ## The world outside -/

/-- A cell of a lane delivers poison (R65). -/
def Chip.spoilRegister (c : Chip) (w l cell : Nat) : Chip :=
  c.modWarp w fun wp => wp.modThread l fun t => t.setCell cell { t.cellVal cell with p := true }

/-- An element of a Crucible macro delivers poison (R65, R198). -/
def Crucible.spoil (x : Crucible) (array place : Nat) : Crucible :=
  if array < 8 then
    { x with banks := Sparse.modify x.banks array fun b => { b with poison := insertNum place b.poison } }
  else if array < 16 then
    let v := x.accVal (array - 8) (place / 32) (place % 32)
    x.setAcc (array - 8) (place / 32) (place % 32) { v with p := true }
  else
    let v := Sparse.get ⟨0, false⟩ x.tables ((array - 16) * 16 + place)
    { x with tables := Sparse.set ⟨0, false⟩ x.tables ((array - 16) * 16 + place) { v with p := true } }
def Chip.spoilMacro (c : Chip) (core array place : Nat) : Option Chip :=
  let n := if array < 8 then 1024 else if array < 16 then 2048 else if array < 18 then 16 else 0
  if place < n then some { c with crucibles := Sparse.modify c.crucibles core fun x => x.spoil array place } else none

/-- The acts of a turn that is no instruction; none when it cannot happen. -/
def State.outside (s : State) : Turn → Option State
  | .event _ | .word _ _ => none
  | .hostWrite asid a bs => some (s.hostWrite asid a bs)
  | .mainWrite a bs => if a + bs.length ≤ installed then some { s with main := s.main.store a bs false } else none
  | .classGiven ctx hdr cls =>
    if cls < 16 then
      some { s with classes := (ctx, hdr, cls) :: s.classes.filter fun e => !(e.1 == ctx && e.2.1 == hdr) }
    else none
  | .placed ctx a bs => (s.chip.placeLocal ctx a bs).map fun c => { s with chip := c }
  | .coreError core => if core < 192 then some (s.fenceCore core) else none
  | .clock w l n => (s.chip.deliverClock w l n).map fun c => { s with chip := c }
  | .registerError w l cell =>
    if ((s.chip.warp w).thread l).live then some (s.onChip fun c => c.spoilRegister w l cell) else none
  | .scratchError k =>
    if k < 2 ^ 27 then some (s.onChip fun c => { c with scratch := { c.scratch with marks := insertNum k c.scratch.marks } })
    else none
  | .sharedError b k =>
    if 8 * k < (s.chip.block b).sharedSize then
      some (s.onChip fun c => c.modBlock b fun x => { x with shared := { x.shared with marks := insertNum k x.shared.marks } })
    else none
  | .mainError k =>
    if 8 * k < installed then some { s with main := { s.main with marks := insertNum k s.main.marks } } else none
  | .peerWrite peer ctx a bs => some (s.onPeer (peerMemory peer ctx) fun r => r.store a bs false)
  | .peerError peer ctx k => some (s.onPeer (peerMemory peer ctx) fun r => { r with marks := insertNum k r.marks })
  | .spillError k =>
    some (s.onChip fun c => { c with spill := { c.spill with marks := insertNum (2 * k) (insertNum (2 * k + 1) c.spill.marks) } })
  | .macroError core array place => (s.chip.spoilMacro core array place).map fun c => { s with chip := c }
  | .corrected => some { s with corrected := s.corrected + 1 }
  | .mismatch u => some (s.onChip fun c => { c with inject := some u })
  | .idle n => some (s.onChip fun c => c.pass n)

/-- A turn that may happen while the clocks are stopped or the power is off (R354). -/
def Turn.always : Turn → Bool
  | .event .moduleReset | .event .powerOn | .event .powerLoss | .hostWrite _ _ _ => true
  | _ => false

/-! ## A word placed for the next step -/

/-- The window of the placed word: the whole of it usable. -/
def placedWindow : Window where
  state := .opened
  shadow := false
  track := false
  priv := false
  pa := true
  pg := true
  px := true
  pw := true
  pr := true
  size := 4096
  base := 0
  written := []
  owner := none

/-- The run that is about to issue the placed word: a gang of four lanes, one body word issued. -/
def placedRun (cycle : Nat) : Run :=
  { Run.blank with lanes := 15, entry := 0, pc := 4, body := 1, words := [0], nextAt := cycle }

/-- The warp of the placed word. -/
def placedWarp (b n ctx cycle : Nat) : Warp :=
  { Warp.blank with
    block := b, launch := n, context := ctx, lanes := 4, alloc := 256, draw := 64, memb := 15, mthr := 16
    threads := (List.range 4).map fun l => (l, { Thread.vacant with status := .live, wid := BitVec.ofNat 64 l, nextAt := cycle })
    runs := [(0, placedRun cycle)] }

/-- The header of the launch of the placed word. -/
def placedHeader : Header :=
  { Header.blank with wmask := 1, fields := [(2, 4)], roles := [⟨0, 64, 4, 1, 256⟩], ndc := 64
                      rings := [(0, 16, 4)], cmask := 1, first := [0, 1, 1, 1] }

/-- A launch of one block with one warp, its run standing at address 4 of window 0, where the word is; the next step issues
it. The launch stands for one loaded and bound by the host (log entry 3). -/
def State.placeWord (s : State) (bytes : List Byte) : State :=
  let c := s.chip
  let n := c.next
  let b := n + 1
  let w := n + 2
  let ctx := 65535
  let context : Context := { Context.blank with defined := true, windows := [(0, placedWindow)] }
  let launch : Launch := { Launch.blank with
    ident := 1, context := ctx, header := placedHeader, status := .running, nextOrdinal := 1, blocks := 1, bankBound := true }
  let block : Block := { Block.blank with
    launch := n, context := ctx, status := .running, warps := [w], sharedSize := 4096, ndc := 64
    rings := [(0, { Ring.blank with size := 16, count := 4, free := 4 })], threads := 4 }
  { s with
    frozen := false, powered := true
    agenda := .word w 0 :: s.agenda
    chip := { c with
      next := n + 3
      contexts := Sparse.put c.contexts ctx context
      launches := Sparse.put c.launches n launch
      blocks := Sparse.put c.blocks b block
      warps := Sparse.put c.warps w (placedWarp b n ctx c.cycle)
      cores := Sparse.erase c.cores 0
      banks := Sparse.erase c.banks 0
      inject := none
      scratch := c.scratch.store 4 bytes false } }

end Sys2Proof.Machine
end

