-- ==== Sys2Proof/Machine/Auto.lean ====
section
/-!
DEFINITION. Issuing the word in focus, and the order in which things happen when the agenda names nothing (log entry 3).
-/

namespace Sys2Proof.Machine

/-- What a turn does to a state. -/
abbrev Act : Type := State → Host.Outcome State Fault Refusal

/-- Issues the word in focus: its run's next word is fetched and taken through the Mould and the decoder, and executed
(R45). -/
def issueNext (w rid : Nat) : Act := fun s =>
  match s.chip.prepare w rid with
  | .none => .fault .eventNotEnabled
  | .wait => .next { s with chip := s.chip.waitCycle }
  | .done c => .next { s with chip := c }
  | .word c i => exec i { s with chip := c, focus := some (w, rid) }

/-- An event happens; one that chooses a word issues it in the same step (R52, R149). -/
def happen (f : Act) : Act := fun s =>
  match f { s with focus := none } with
  | .next t =>
    match t.focus with
    | some (w, rid) => issueNext w rid t
    | none => .next t
  | x => x

/-! ## The order of things that can happen -/

/-- The words of gangs' runs in progress, where no promoted stray comes first (R149). -/
def State.wordActs (s : State) : List Act :=
  (s.chip.warps.filter fun e => !s.heldBack e.1).flatMap fun e =>
    (e.2.runs.filter fun r => !r.2.stray && !r.2.tolune).map fun r => issueNext e.1 r.1

/-- The event that delivers pending result n of a lane. -/
def pendAct (w l n : Nat) (p : Pend) : Act :=
  match p.kind with
  | .load => execLoadResultDeliver w l n
  | .atomic => execAtomicResultDeliver w l n
  | .divide => execDivideResultDeliver w l n
  | .fdiv => execFdivResultDeliver w l n
  | .guest => execGuestLoadDeliver w l n
  | .rput => execRputWriteDeliver w l n
  | .dpoll => execDpollResultDeliver w l n
  | .tgrab => execTgrabResultDeliver w l n
  | .clock => fun s =>
    match s.chip.deliverClock w l n with
    | some c => .next { s with chip := c }
    | none => .fault .eventNotEnabled
  | _ => execRingSlotDeliver w l n

/-- A parked lane's word is read again, where the read ends its wait (R129). -/
def spinEnd (w l : Nat) : Act := fun s =>
  match execSpinwReread w l s with
  | .next t => if (t.chip.warp w).thread l = (s.chip.warp w).thread l then .fault .eventNotEnabled else .next t
  | x => x

/-- The events of a lane. -/
def laneActs (w l : Nat) (t : Thread) : List Act :=
  (t.pend.zipIdx.map fun x => pendAct w l x.2 x.1) ++
    [execDspReadsComplete w l, execThreadMoveComplete w l, execInstructionCacheRefill w l, execLoopBufferRefill w l,
      execRegroupHoldExpiry w l, spinEnd w l, execStrayPromotion w l, execGangAgingPromotion w l, execPreemptStallTimeout w l]

/-- The events of a warp. -/
def warpActs (w : Nat) (wp : Warp) : List Act :=
  [execGo w, execStagingRegisterWrite w, execStorePerformed w] ++
    ((wp.colls.filter fun x => (x.issued &&& wp.inRun) == 0).map fun x => execCollectiveResultDeliver w x.num) ++
    (wp.threads.flatMap fun e => (wp.streams.map fun x => execStreamElementArrive w e.1 x.1) ++ laneActs w e.1 e.2) ++ [execUnbindNotice w]

/-- The events of a core's Crucible. -/
def coreActs (core : Nat) : List Act :=
  [execMatrixProductStart core, execNarrowProductComplete core, execSlicedPassComplete core, execBldComplete core,
    execCblComplete core, execDrainResultDeliver core, execMstatResultDeliver core]

/-- What a core's ports choose to issue. -/
def portActs (core : Nat) : List Act := (List.range 4).flatMap fun p => [execPortRunChoice core p, execStrayIssue core p]

/-- The Tolune instructions of a warp's lanes. -/
def toluneActs (w : Nat) (wp : Warp) : List Act := wp.threads.map fun t => execToluneInstruction w t.1

/-- The events of a job. -/
def jobActs (j : Nat) : List Act :=
  [execRqtJobComplete j, execJobStart j, execJobRingClaim j, execPageWalkComplete j, execJobChunkComplete j,
    execPeerChunkAck j, execJobComplete j]

/-- The events of a block. -/
def blockActs (b : Nat) (x : Block) : List Act :=
  (x.owed.map fun o => execEngineStopAck b o.1 o.2) ++ [execBlockComplete b, execPreemptQuantumExpiry b]

/-- The Ferryman's events for a context. -/
def contextActs (ctx : Nat) (x : Context) : List Act :=
  [execTrapRecordPost ctx, execServiceRequestPost ctx, execTrapReplyResume ctx, execTrapReplyRedirect ctx,
    execTrapReplyAbort ctx, execTrapReplyChunkServiced ctx, execTrapReplyChunkFatal ctx, execServiceReplyResume ctx,
    execServiceReplyAbort ctx, execServiceWarpRebind ctx] ++ x.windows.map fun e => execWindowOpenComplete ctx e.1

/-- The Ferryman's commands. -/
def commandActs : List Act :=
  [execWindowOpen, execWindowClose, execWindowDescriptorRead, execRingDefine, execQueueDefine, execTranslationRoot,
    execInvalidate, execShadowPoolGrant, execContextSuspend, execContextResume, execSlotReset, execStatusRead,
    execFirmwareLoad, execQuote, execToluneDefine, execTranslationInstall, execTraceSet, execComparatorSet, execWarpStop,
    execPeerBind, execContextDefine, execContextRelease, execStickyClear]

/-- The events of a launch queue. -/
def queueActs (q : Nat) : List Act := [execQueueHeadAging q, execLaunchRecord q, execMarkerRecord q, execPatchActivation q]

/-- The cores that warps or matrix results stand on. -/
def Chip.busyCores (c : Chip) : List Nat := ((c.warps.map fun e => e.2.core) ++ c.crucibles.map (·.1)).eraseDups

/-- The events that the machine itself could bring about, in a fixed order. -/
def State.eventActs (s : State) : List Act :=
  let c := s.chip
  (c.warps.flatMap fun e => warpActs e.1 e.2) ++ (c.jobs.flatMap fun e => jobActs e.1) ++
    c.busyCores.flatMap coreActs ++ (c.blocks.flatMap fun e => blockActs e.1 e.2) ++
    ((s.binds.map fun r => r.core).eraseDups.map fun k => execBindRecord k) ++
    (c.contexts.flatMap fun e => contextActs e.1 e.2) ++ commandActs ++ [execFirmwareReady, execPatchActivationComplete] ++
    (s.queues.flatMap fun e => queueActs e.1) ++ (List.range 4).map fun d => execBindBlock d

/-- Collectives that are complete while a lane is still in the run that issued them. -/
def State.earlyActs (s : State) : List Act :=
  s.chip.warps.flatMap fun e => e.2.colls.map fun x => execCollectiveResultDeliver e.1 x.num

/-- A cycle passes and a parked lane's word is read again (R129). -/
def State.spinActs (s : State) : List Act :=
  s.chip.warps.flatMap fun e => e.2.threads.map fun t => fun s => execSpinwReread e.1 t.1 (s.onChip fun c => c.pass 1)

/-- A list begun at another place. -/
def turned {α : Type} (n : Nat) (xs : List α) : List α := xs.drop (n % xs.length) ++ xs.take (n % xs.length)

/-- The words that could issue. -/
def State.issueActs (s : State) : List Act :=
  s.wordActs ++ ((s.chip.busyCores.flatMap portActs) ++ s.chip.warps.flatMap fun e => toluneActs e.1 e.2).map happen

/-- Everything that the machine itself could do: what is under way first; then a word, beginning at a place that moves on
with time; then collectives whose runs stand still, and the reading of parked words. -/
def State.acts (s : State) : List Act :=
  s.eventActs ++ (turned s.chip.cycle s.issueActs ++ (s.earlyActs ++ turned s.chip.cycle s.spinActs))

/-- The first of some acts that can happen; with none a port cycle passes. -/
def firstAct (s : State) : List Act → Host.Outcome State Fault Refusal
  | [] => .next (s.onChip fun c => c.pass 1)
  | f :: r =>
    match f s with
    | .next s => .next s
    | _ => firstAct s r

end Sys2Proof.Machine
end

