-- ==== Sys2Proof/Machine/Step.lean ====
section
/-!
DEFINITION. One step: the next turn of the agenda, or with an empty agenda the first act of the fixed order that can happen.
-/

namespace Sys2Proof.Machine

/-- A turn happens. The next word of a run is a gang's, which a promoted stray may hold back (R149): a stray's or a Tolune
instruction is chosen by its own event. -/
def takeTurn (t : Turn) (s : State) : Host.Outcome State Fault Refusal :=
  match t with
  | .event i => happen (exec i) s
  | .word w rid =>
    let r := (s.chip.warp w).run rid
    if r.stray || r.tolune || s.heldBack w then .fault .eventNotEnabled else issueNext w rid s
  | t =>
    match s.outside t with
    | some s => .next s
    | none => .fault .eventNotEnabled

/-- One step of the machine. -/
def step (s : State) : Host.Outcome State Fault Refusal :=
  match s.agenda with
  | t :: r =>
    if (s.frozen || !s.powered) && !t.always then .fault .stopped
    else settled (takeTurn t { s with agenda := r })
  | [] => if s.frozen || !s.powered then .fault .stopped else settled (firstAct s s.acts)

/-- A machine whose next step issues the instruction of a word, its bits above `nbits` zero. -/
def State.withFetchWord (s : State) (_nbits w : Nat) : State := s.placeWord (bytesOfNum 4 w)

end Sys2Proof.Machine
end

