-- ==== Sys2Proof/Safety.lean ====
section
/-!
DEFINITION. What the claims are stated in: when a word may issue, what a thread, a warp and the chip hold beside the
bookkeeping of issue, and the results the spec gives the words, written from its rules.
-/

namespace Sys2Proof.Machine

/-! ## When a word issues -/

/-- The word in focus may issue: it belongs to a run of the warp with a live lane, it passes the steps 5 to 7 of R45 that
follow decoding, nothing it needs is pending (R153, R160, R155, R187, R243, R161), its stall counts hold (R154), no
comparator matches (R384) and no check of its pipeline fails (R306). -/
def Ready (s : State) (w rid : Nat) (i : Instr) : Prop := s.focus = some (w, rid) ∧ gate s.chip w rid i = .run

/-- No register field of the word names a slot bound to a stream or a queue (R177, R180), nor can the word reach one
through an index or an implied write. -/
def Plain (s : State) (w : Nat) (i : Instr) : Prop :=
  (∀ r ∈ i.reads ++ i.writes, (s.chip.warp w).boundSlots.contains r.toNat = false) ∧
    (reaches i = true → (s.chip.warp w).boundSlots = [])

/-- The warp, the run and the lanes of the word in focus. -/
def State.warp (s : State) (w : Nat) : Warp := s.chip.warp w
def State.run (s : State) (w rid : Nat) : Run := (s.chip.warp w).run rid
def State.lanes (s : State) (w rid : Nat) : List Nat := (s.chip.warp w).active ((s.chip.warp w).run rid)
def State.thread (s : State) (w l : Nat) : Thread := (s.chip.warp w).thread l

/-! ## What is not bookkeeping of issue -/

/-- A thread without its native PC and what the scheduler notes about it: waits and times of readiness. -/
def Thread.arch (t : Thread) : Thread :=
  { t with
    pc := 0, waits := [], fix := [], flagsAt := 0, recDue := false, nextAt := 0, since := 0, safe := false, exempt := none }

/-- A warp without its threads, its runs, `rec`, the draw it holds, its join stack, and the collectives delivered to lanes
still in a run. -/
def Warp.rest (wp : Warp) : Warp :=
  { wp with threads := [], runs := [], entries := 0, drawHeld := [], joins := [], mergeDue := false, delivered := [] }

/-- The chip without time, the counters of the ports, and the warps. -/
def Chip.rest (c : Chip) : Chip := { c with cycle := 0, ps := 0, cores := [], warps := [] }

/-- What a word of run rid with lanes ls leaves alone, beside what its effect leaves in a chip c: the comparators and the
fences of every core, the runs of every other group, and of every other lane the native PC and the waits, of which an end of
the run may only end some. While the run keeps its lanes alive, the join stack, the collectives and the other lanes are wholly as c
has them; lanes that leave it may let join entries complete and what these lanes waited for be over (R117, R164). -/
structure Apart (t : State) (w rid : Nat) (ls : List Nat) (c : Chip) : Prop where
  cores : ∀ k, (t.chip.core k).comps = (c.core k).comps ∧ (t.chip.core k).fenced = (c.core k).fenced ∧
    (t.chip.core k).fencedSlots = (c.core k).fencedSlots
  runs : ∀ r, r ≠ rid → (∀ y, Sparse.find (c.warp w).runs r = some y → y.lanes ≠ 0 ∧ y.lanes &&& maskOf ls = 0) →
    Sparse.find (t.chip.warp w).runs r = Sparse.find (c.warp w).runs r
  joins : (t.chip.warp w).joins.Sublist (c.warp w).joins
  lanes : ∀ l, l ∉ ls → (t.thread w l).pc = ((c.warp w).thread l).pc ∧
    (t.thread w l).waits.Sublist ((c.warp w).thread l).waits
  going : (Sparse.find (t.chip.warp w).runs rid).map Run.lanes = some ((c.warp w).run rid).lanes →
    (∀ l ∈ ls, (t.thread w l).status = .live) →
    (t.chip.warp w).joins = (c.warp w).joins ∧ (t.chip.warp w).mergeDue = (c.warp w).mergeDue ∧
      (t.chip.warp w).delivered = (c.warp w).delivered ∧ ∀ l, l ∉ ls → t.thread w l = (c.warp w).thread l

/-- The machine t is s with a chip c, beside the bookkeeping of issue in run rid of warp w: everything outside the chip,
memory, blocks, launches, contexts, jobs, the Crucibles, the Ferryman's records, every other warp and what belongs to the
whole of warp w are as c has them, and so is every thread of the warp; the rest of the core and of the warp stays apart. -/
structure Becomes (s t : State) (w rid : Nat) (c : Chip) : Prop where
  machine : t = { s with chip := t.chip }
  rest : t.chip.rest = c.rest
  others : ∀ v, v ≠ w → t.chip.warp v = c.warp v
  own : (t.chip.warp w).rest = (c.warp w).rest
  lanes : ∀ l, (t.thread w l).arch = ((c.warp w).thread l).arch
  apart : Apart t w rid (s.lanes w rid) c

/-- Only threads of warp w in the lanes of run rid differ, beside the bookkeeping of issue. -/
structure OnlyThreads (s t : State) (w rid : Nat) : Prop where
  machine : t = { s with chip := t.chip }
  rest : t.chip.rest = s.chip.rest
  others : ∀ v, v ≠ w → t.chip.warp v = s.chip.warp v
  own : (t.chip.warp w).rest = (s.chip.warp w).rest
  apart : Apart t w rid (s.lanes w rid) s.chip

/-- The machine t is s with a chip c, beside waits of warp w that are over: an event that lets lanes go on. -/
structure Releases (s t : State) (w : Nat) (c : Chip) : Prop where
  machine : t = { s with chip := t.chip }
  rest : t.chip.rest = c.rest
  cores : t.chip.cores = c.cores
  others : ∀ v, v ≠ w → t.chip.warp v = c.warp v
  own : (t.chip.warp w).rest = (c.warp w).rest
  runs : (t.chip.warp w).runs = (c.warp w).runs
  joins : (t.chip.warp w).joins = (c.warp w).joins
  lanes : ∀ l, (t.thread w l).arch = ((c.warp w).thread l).arch ∧ (t.thread w l).pc = ((c.warp w).thread l).pc ∧
    (t.thread w l).waits.Sublist ((c.warp w).thread l).waits

/-- The lanes of the word end as an effect says, from the state before; the other lanes of the warp are as before. -/
def LanesBecome (s t : State) (w rid : Nat) (f : Nat → Thread → Thread) : Prop :=
  ∀ l, (t.thread w l).arch = (if l ∈ s.lanes w rid then f l (s.thread w l) else s.thread w l).arch

/-- The chip as the word in focus found it: time and `rec` stand as at its issue (R41, R143). -/
def State.asIssued (s t : State) (w : Nat) : Chip :=
  ({ s.chip with cycle := t.chip.cycle, ps := t.chip.ps }).modWarp w fun wp =>
    { wp with entries := (t.chip.warp w).entries }

/-- A wait of a lane: noted in the lane, or in its run until the run's end. -/
def Waiting (t : State) (w rid l : Nat) (x : Wait) : Prop := x ∈ (t.thread w l).waits ∨ x ∈ (t.run w rid).waits

/-- The registers named are not poisoned in any lane of the word. -/
def Clean (s : State) (w rid : Nat) (rs : List Reg) : Prop :=
  ∀ l ∈ s.lanes w rid, ∀ r ∈ rs, ((s.warp w).read (s.run w rid) (s.thread w l) r).p = false

/-- The value of a register of a lane of the word. -/
def State.value (s : State) (w rid l : Nat) (r : Reg) : Word := ((s.warp w).read (s.run w rid) (s.thread w l) r).v

/-! ## Events and the Mould -/

/-- Lanes of a word have taken an event and left its run (R296, R299, R302): one record names them with the word, their
temporaries are dead, and no memory, no other register and no status changes. -/
structure EventTaken (s t : State) (w rid : Nat) (ls : List Nat) (event reason : Nat) (info0 info1 : Dword) : Prop where
  machine : t = { s with chip := t.chip }
  memory : t.chip.scratch = s.chip.scratch ∧ t.chip.spill = s.chip.spill ∧ ∀ b, (t.chip.block b).shared = (s.chip.block b).shared
  matrix : t.chip.crucibles = s.chip.crucibles
  record : ∃ r, t.chip.recs = s.chip.recs ++ [r] ∧ r.num = s.chip.next ∧ r.event = event ∧ r.reason = reason ∧
    r.context = (s.warp w).context ∧ r.npc = (s.run w rid).npc ∧ r.word = (s.run w rid).raw ∧ r.lmask = maskOf ls ∧
    r.info0 = info0 ∧ r.info1 = info1 ∧ r.info2 = 0
  gone : ∀ l ∈ ls, (t.run w rid).lanes.getLsbD l = false
  lanes : ∀ l, (t.thread w l).status = (s.thread w l).status ∧
    (t.thread w l).regs = (if l ∈ ls then clearTemps (s.thread w l) else s.thread w l).regs

/-- The lanes wait for the reply to the record the event has posted, which sends them to an address (R296, R304). -/
def Parked (s t : State) (w : Nat) (ls : List Nat) (pc : Nat → Word) : Prop :=
  ∀ l ∈ ls, .trap s.chip.next (pc l) ∈ (t.thread w l).waits

/-- The eight temporaries that a routine finds (R324): the claimed word, its PC, its A, B and D registers, its field
numbers with the EXT flag, the EXT's payload, the slot's argument. -/
def routineFrame (wp : Warp) (run : Run) (t : Thread) (arg : Word) : List Val :=
  let (d, a, b) := claimedFields run.tolune run.raw
  let n (r : Reg) : Nat := r.toNat % 128
  [⟨run.raw, false⟩, ⟨run.npc, false⟩, wp.frameVal run.tolune t a, wp.frameVal run.tolune t b, wp.frameVal run.tolune t d,
    ⟨BitVec.ofNat 32 ((if run.ext.isSome then 2 ^ 31 else 0) + n d * 2 ^ 16 + n a * 2 ^ 8 + n b), false⟩,
    ⟨(run.ext.getD 0).setWidth 32, false⟩, ⟨arg, false⟩]

/-- Results still to come for a lane, each at its cell while a routine runs, and a collective's destination cells for the
lanes of a run (R324): a result for a temporary goes to the one kept aside; a cell that is given up is number 1000. -/
def pendAside (ps : List Pend) : List Pend :=
  ps.map fun p => { p with cells := p.cells.filterMap fun e => (tempAside e.1).map fun k => (k, e.2) }
def collsAside (m : Mask) (xs : List Coll) : List Coll :=
  xs.map fun x => { x with
    dest := x.dest.map fun e => if m.getLsbD e.1 then (e.1, e.2.map fun k => (tempAside k).getD 1000) else e }

/-- The run has entered a routine of resident code in place of its word (R324, R326): the frame stands in the temporaries,
the lanes' own are kept aside, with what is still to come for them, and nothing else changes. -/
structure RoutineEntered (s t : State) (w rid : Nat) (m : MouldSlot) (redirect : Bool) : Prop where
  machine : t = { s with chip := t.chip } ∧ t.chip = { s.chip with warps := t.chip.warps }
  others : ∀ v, v ≠ w → t.chip.warp v = s.chip.warp v
  own : (t.warp w).rest = { (s.warp w).rest with colls := collsAside (s.run w rid).lanes (s.warp w).colls }
  apart : (t.warp w).joins = (s.warp w).joins ∧ (t.warp w).mergeDue = (s.warp w).mergeDue ∧
    (t.warp w).delivered = (s.warp w).delivered ∧ ∀ r, r ≠ rid → Sparse.find (t.warp w).runs r = Sparse.find (s.warp w).runs r
  run : (t.run w rid).pc = BitVec.ofNat 32 residentBase + m.target ∧ (t.run w rid).lanes = (s.run w rid).lanes ∧
    (t.run w rid).emul.map (·.redirect) = some redirect ∧ (t.run w rid).tolune = false ∧ (t.run w rid).body = 0 ∧
    (t.run w rid).ext = none ∧ (t.run w rid).npc = (s.run w rid).npc ∧ (t.run w rid).raw = (s.run w rid).raw
  outside : ∀ l, l ∉ s.lanes w rid → t.thread w l = s.thread w l
  frame : ∀ l ∈ s.lanes w rid, ∀ j < 8,
    (t.thread w l).cellVal (256 + j) = (routineFrame (s.warp w) (s.run w rid) (s.thread w l) (m.word 4)).getD j ⟨0, false⟩ ∧
    (t.thread w l).cellVal (768 + j) = (s.thread w l).cellVal (256 + j)
  kept : ∀ l ∈ s.lanes w rid, (∀ k, (k < 256 ∨ 264 ≤ k) → (k < 768 ∨ 776 ≤ k) → (t.thread w l).cellVal k = (s.thread w l).cellVal k) ∧
    (t.thread w l).pend = pendAside (s.thread w l).pend ∧
    ({ t.thread w l with regs := [], pend := [], fix := [] } : Thread) = { s.thread w l with regs := [], pend := [], fix := [] }

/-! ## Lanes that stop -/

/-- A lane is switched off with a cause (R66, R301): its bit of `fmask` is set, a record of event 8 names it, and its
registers stay. -/
def SwitchedOff (s t : State) (w l cause : Nat) (npc : Word) (info : Dword → Prop) : Prop :=
  (t.thread w l).status = .off cause ∧ (t.warp w).fmask.getLsbD l = true ∧ (t.thread w l).regs = (s.thread w l).regs ∧
    ∃ e ∈ t.chip.recs, e.event = 8 ∧ e.reason = cause ∧ e.lmask = maskOf [l] ∧ e.npc = npc ∧ info e.info0

/-! ## A run that goes on -/

/-- Run y is run x once its word i has issued (R33, R36, R38, R42, R144): four bytes and one word further, with the temporaries
the word wrote alive, run-ending if the word is, and the payload of an EXT for the next word; a word that the Mould put in the
place of another gives way to the next of them, and the last of them steps over the word replaced (R323). The next word may
issue its stall count after the port is free, or 4 cycles after an instruction of Tolune code (R52). -/
structure Advanced (t : State) (i : Instr) (x y : Run) : Prop where
  pc : y.pc = if x.subst.length ≤ 1 then x.pc + 4 else x.pc
  body : y.body = if x.subst.length ≤ 1 then x.body + 1 else x.body
  subst : y.subst = x.subst.tail ∧ (x.subst.length = 1 → y.substFor = none)
  ext : y.ext = match i with
    | .ext p => some p
    | _ => none
  ended : y.ended = (x.ended || i.runEnding)
  temps : ∀ k < 8, y.tw.getLsbD k = (x.tw.getLsbD k || (!x.tolune && i.writes.contains (BitVec.ofNat 8 (120 + k))))
  kept : y.entry = x.entry ∧ y.bank = x.bank ∧ y.gen = x.gen ∧ y.stray = x.stray ∧ y.tolune = x.tolune ∧ y.emul = x.emul ∧
    y.entering = false
  next : y.lanes = x.lanes → y.nextAt =
    let n := if 8 < quads x.lanes then 2 else 1
    match i with
    | .ext _ => t.chip.cycle + n
    | _ => if x.tolune then t.chip.cycle + 4 else t.chip.cycle + n + (x.raw.extractLsb' 0 3).toNat

/-! ## Integer results -/

/-- What a word does to one lane: its warp, its run, its lane slot, its thread. -/
abbrev LaneEffect : Type := Warp → Run → Nat → Thread → Thread

/-- d := f(a), f(a, b), f(d, a, b), with the poison of every register read (R71). -/
def result1 (d a : Reg) (f : Word → Word) : LaneEffect := fun wp run _ t =>
  wp.write run t d ⟨f (wp.read run t a).v, (wp.read run t a).p⟩
def result2 (d a b : Reg) (f : Word → Word → Word) : LaneEffect := fun wp run _ t =>
  wp.write run t d ⟨f (wp.read run t a).v (wp.read run t b).v, (wp.read run t a).p || (wp.read run t b).p⟩
def result3 (d a b : Reg) (f : Word → Word → Word → Word) : LaneEffect := fun wp run _ t =>
  wp.write run t d ⟨f (wp.read run t d).v (wp.read run t a).v (wp.read run t b).v,
    (wp.read run t d).p || (wp.read run t a).p || (wp.read run t b).p⟩

/-- d := f(a, imm) (R84). -/
def resultI (d a : Reg) (i : Imm) (f : Word → Word → Word) : LaneEffect := fun wp run _ t =>
  wp.write run t d ⟨f (wp.read run t a).v (immOperand run i), (wp.read run t a).p⟩

/-- A pair written with one poison bit (R89). -/
def resultP (d a b : Reg) (f : Nat → Nat → Nat) : LaneEffect := fun wp run _ t =>
  wp.writePair run t d (BitVec.ofNat 64 (f (wp.readPair run t a).1.toNat (wp.readPair run t b).1.toNat))
    ((wp.readPair run t a).2 || (wp.readPair run t b).2)

/-- The number of leading places of a list for which a test holds. -/
def leading (p : Nat → Bool) (xs : List Nat) : Nat := (xs.takeWhile p).length

/-- The signed number of the low n bits of v. -/
def signedField (n v : Nat) : Int := if n = 0 then 0 else if v < 2 ^ (n - 1) then v else (v : Int) - 2 ^ n

/-- The field a bit-field word names: its position and its length, cut at bit 31 (R82). -/
def fieldAt (b : Word) : Nat × Nat := (b.toNat % 32, min (b.toNat / 256 % 32) (32 - b.toNat % 32))

/-- 1 for a relation that holds (R79). -/
def truth (p : Prop) [Decidable p] : Word := if p then 1 else 0

/-- The result of an integer word that is written at once (R75 to R88). -/
def intEffect : Instr → Option LaneEffect
  | .add d a b _ => some (result2 d a b fun x y => BitVec.ofNat 32 (x.toNat + y.toNat))
  | .sub d a b _ => some (result2 d a b fun x y => BitVec.ofInt 32 ((x.toNat : Int) - y.toNat))
  | .mul d a b _ => some (result2 d a b fun x y => BitVec.ofNat 32 (x.toNat * y.toNat))
  | .mulhs d a b _ => some (result2 d a b fun x y => (x.signExtend 64 * y.signExtend 64).extractLsb' 32 32)
  | .mulhu d a b _ => some (result2 d a b fun x y => (x.setWidth 64 * y.setWidth 64).extractLsb' 32 32)
  | .mad d a b _ => some (result3 d a b fun z x y => BitVec.ofNat 32 (z.toNat + x.toNat * y.toNat))
  | .and d a b _ => some (result2 d a b fun x y => x &&& y)
  | .or d a b _ => some (result2 d a b fun x y => x ||| y)
  | .xor d a b _ => some (result2 d a b fun x y => x ^^^ y)
  | .andn d a b _ => some (result2 d a b fun x y => x &&& ~~~y)
  | .shl d a b _ => some (result2 d a b fun x y => BitVec.ofNat 32 (x.toNat * 2 ^ (y.toNat % 32)))
  | .shr d a b _ => some (result2 d a b fun x y => BitVec.ofNat 32 (x.toNat / 2 ^ (y.toNat % 32)))
  | .sar d a b _ => some (result2 d a b fun x y => BitVec.ofInt 32 (x.toInt / 2 ^ (y.toNat % 32)))
  | .rol d a b _ => some (result2 d a b fun x y => x <<< (y.toNat % 32) ||| x >>> (32 - y.toNat % 32))
  | .mins d a b _ => some (result2 d a b fun x y => if x.toInt ≤ y.toInt then x else y)
  | .minu d a b _ => some (result2 d a b fun x y => if x.toNat ≤ y.toNat then x else y)
  | .maxs d a b _ => some (result2 d a b fun x y => if x.toInt ≤ y.toInt then y else x)
  | .maxu d a b _ => some (result2 d a b fun x y => if x.toNat ≤ y.toNat then y else x)
  | .seq d a b _ => some (result2 d a b fun x y => truth (x = y))
  | .sne d a b _ => some (result2 d a b fun x y => truth (x ≠ y))
  | .slt d a b _ => some (result2 d a b fun x y => truth (x.toInt < y.toInt))
  | .sltu d a b _ => some (result2 d a b fun x y => truth (x.toNat < y.toNat))
  | .sle d a b _ => some (result2 d a b fun x y => truth (x.toInt ≤ y.toInt))
  | .sleu d a b _ => some (result2 d a b fun x y => truth (x.toNat ≤ y.toNat))
  | .csel d a b _ => some (result3 d a b fun z x y => if z ≠ 0 then x else y)
  | .mov d a _ => some (result1 d a fun x => x)
  | .clz d a _ => some (result1 d a fun x => BitVec.ofNat 32 (leading (fun i => !x.getLsbD i) (List.range 32).reverse))
  | .ctz d a _ => some (result1 d a fun x => BitVec.ofNat 32 (leading (fun i => !x.getLsbD i) (List.range 32)))
  | .popc d a _ => some (result1 d a fun x => BitVec.ofNat 32 ((List.range 32).countP fun i => x.getLsbD i))
  | .brev d a _ => some (result1 d a fun x => x.reverse)
  | .abs d a _ => some (result1 d a fun x => BitVec.ofNat 32 x.toInt.natAbs)
  | .bfxu d a b _ => some (result2 d a b fun x y =>
      BitVec.ofNat 32 (x.toNat / 2 ^ (fieldAt y).1 % 2 ^ (fieldAt y).2))
  | .bfxs d a b _ => some (result2 d a b fun x y =>
      BitVec.ofInt 32 (signedField (fieldAt y).2 (x.toNat / 2 ^ (fieldAt y).1 % 2 ^ (fieldAt y).2)))
  | .bfi d a b _ => some (result3 d a b fun z x y =>
      BitVec.ofNat 32 (z.toNat - z.toNat / 2 ^ (fieldAt y).1 % 2 ^ (fieldAt y).2 * 2 ^ (fieldAt y).1 +
        x.toNat % 2 ^ (fieldAt y).2 * 2 ^ (fieldAt y).1))
  | .addi d a i _ => some (resultI d a i fun x y => BitVec.ofNat 32 (x.toNat + y.toNat))
  | .andi d a i _ => some (resultI d a i fun x y => x &&& y)
  | .ori d a i _ => some (resultI d a i fun x y => x ||| y)
  | .xori d a i _ => some (resultI d a i fun x y => x ^^^ y)
  | .shli d a i _ => some (resultI d a i fun x y => BitVec.ofNat 32 (x.toNat * 2 ^ (y.toNat % 32)))
  | .shri d a i _ => some (resultI d a i fun x y => BitVec.ofNat 32 (x.toNat / 2 ^ (y.toNat % 32)))
  | .sari d a i _ => some (resultI d a i fun x y => BitVec.ofInt 32 (x.toInt / 2 ^ (y.toNat % 32)))
  | .slti d a i _ => some (resultI d a i fun x y => truth (x.toInt < y.toInt))
  | .seqi d a i _ => some (resultI d a i fun x y => truth (x = y))
  | .movi d i _ => some fun wp run _ t => wp.write run t d ⟨wideOperand run i, false⟩
  | .lea1 d a b _ => some (result2 d a b fun x y => BitVec.ofNat 32 (x.toNat + y.toNat))
  | .lea2 d a b _ => some (result2 d a b fun x y => BitVec.ofNat 32 (x.toNat + 2 * y.toNat))
  | .lea4 d a b _ => some (result2 d a b fun x y => BitVec.ofNat 32 (x.toNat + 4 * y.toNat))
  | .lea8 d a b _ => some (result2 d a b fun x y => BitVec.ofNat 32 (x.toNat + 8 * y.toNat))
  | .add64 d a b _ => some (resultP d a b fun x y => x + y)
  | .sub64 d a b _ => some (resultP d a b fun x y => x + 2 ^ 64 - y)
  | .mulw d a b _ => some fun wp run _ t =>
      wp.writePair run t d (BitVec.ofNat 64 ((wp.read run t a).v.toNat * (wp.read run t b).v.toNat))
        ((wp.read run t a).p || (wp.read run t b).p)
  | .sltu64 d a b _ => some fun wp run _ t =>
      wp.write run t d ⟨truth ((wp.readPair run t a).1.toNat < (wp.readPair run t b).1.toNat),
        (wp.readPair run t a).2 || (wp.readPair run t b).2⟩
  | _ => none

/-- Quotient and remainder of R78: the registers and the result. -/
def divideResult : Instr → Option (Reg × Reg × Reg × (Word → Word → Word))
  | .divs d a b _ => some (d, a, b, fun x y =>
      if y.toInt = 0 then BitVec.ofInt 32 (-1)
      else if x.toInt = -2 ^ 31 ∧ y.toInt = -1 then BitVec.ofInt 32 (-2 ^ 31) else BitVec.ofInt 32 (x.toInt.tdiv y.toInt))
  | .rems d a b _ => some (d, a, b, fun x y =>
      if y.toInt = 0 then x
      else if x.toInt = -2 ^ 31 ∧ y.toInt = -1 then 0
      else BitVec.ofInt 32 (x.toInt - x.toInt.tdiv y.toInt * y.toInt))
  | .divu d a b _ => some (d, a, b, fun x y =>
      if y.toNat = 0 then BitVec.ofInt 32 (-1) else BitVec.ofNat 32 (x.toNat / y.toNat))
  | .remu d a b _ => some (d, a, b, fun x y =>
      if y.toNat = 0 then x else BitVec.ofNat 32 (x.toNat - x.toNat / y.toNat * y.toNat))
  | _ => none

/-- A divide's result stays pending with its value and its poison (R71, R72, R78). -/
def divideEffect (d a b : Reg) (f : Word → Word → Word) : LaneEffect := fun wp run _ t =>
  t.await .divide [(wp.cellIn run t d, ⟨f (wp.read run t a).v (wp.read run t b).v,
    (wp.read run t a).p || (wp.read run t b).p⟩)] 0

/-! ## Floating-point results -/

/-- How a floating-point word takes its operands and gives its result. -/
structure FloatForm where
  /-- The destination, and whether it is a pair. -/
  d : Reg
  wide : Bool
  /-- The operands in the order the function takes them, and whether they are pairs. -/
  srcs : List Reg
  pairs : Bool
  /-- The result comes later, with its flags (R97). -/
  later : Bool
  /-- The rounding mode of the word, where it is not `frm`. -/
  fixed : Option Rm
  f : Rm → List Nat → Nat × Flags

/-- Single registers in and out. -/
def single (d : Reg) (srcs : List Reg) (f : Rm → List Nat → Nat × Flags) : Option FloatForm :=
  some ⟨d, false, srcs, false, false, none, f⟩
/-- Pairs in and out. -/
def double (d : Reg) (srcs : List Reg) (f : Rm → List Nat → Nat × Flags) : Option FloatForm :=
  some ⟨d, true, srcs, true, false, none, f⟩

/-- An operation of R100 on exact values, rounded once. -/
def rounded (f : Fmt) (g : List FVal → List FVal) : Rm → List Nat → Nat × Flags := fun rm xs =>
  sumRound f rm (g (xs.map f.decode))
def plus : List FVal → List FVal := fun v => v
def minus : List FVal → List FVal
  | [a, b] => [a, b.neg]
  | _ => []
def times : List FVal → List FVal
  | [a, b] => [a.mul b]
  | _ => []
/-- Operands d, a, b: a · b + d and a · b − d. -/
def timesPlus : List FVal → List FVal
  | [d, a, b] => [a.mul b, d]
  | _ => []
def timesMinus : List FVal → List FVal
  | [d, a, b] => [a.mul b, d.neg]
  | _ => []

/-- The form of a floating-point word (R100 to R112); the approximate functions give a value within their bound that the
spec leaves free (R96, R103; log entry 6). -/
def floatForm : Instr → Option FloatForm
  | .fadd d a b _ => single d [a, b] (rounded f32 plus)
  | .fsub d a b _ => single d [a, b] (rounded f32 minus)
  | .fmul d a b _ => single d [a, b] (rounded f32 times)
  | .ffma d a b _ => single d [d, a, b] (rounded f32 timesPlus)
  | .ffms d a b _ => single d [d, a, b] (rounded f32 timesMinus)
  | .fmin d a b _ => single d [a, b] fun _ xs => fminmax f32 false (xs.getD 0 0) (xs.getD 1 0)
  | .fmax d a b _ => single d [a, b] fun _ xs => fminmax f32 true (xs.getD 0 0) (xs.getD 1 0)
  | .fcps d a b _ => single d [a, b] fun _ xs =>
      (xs.getD 0 0 % 2 ^ 31 + xs.getD 1 0 / 2 ^ 31 * 2 ^ 31, noFlags)
  | .feq d a b _ => single d [a, b] (cmpF f32 .eq)
  | .flt d a b _ => single d [a, b] (cmpF f32 .lt)
  | .fle d a b _ => single d [a, b] (cmpF f32 .le)
  | .funo d a b _ => single d [a, b] (cmpF f32 .uno)
  | .frcp d a _ => single d [a] (rcpF f32 0x5C)
  | .frsq d a _ => single d [a] rsqF
  | .fsqrt d a _ => some ⟨d, false, [a], false, true, none, sqrtF f32⟩
  | .fdiv d a b _ => some ⟨d, false, [a, b], false, true, none, divF f32⟩
  | .fexp2 d a _ => single d [a] exp2F
  | .flog2 d a _ => single d [a] log2F
  | .fsin d a _ => single d [a] sinF
  | .fcos d a _ => single d [a] cosF
  | .dadd d a b _ => double d [a, b] (rounded f64 plus)
  | .dsub d a b _ => double d [a, b] (rounded f64 minus)
  | .dmul d a b _ => double d [a, b] (rounded f64 times)
  | .dfma d a b _ => double d [d, a, b] (rounded f64 timesPlus)
  | .dmin d a b _ => double d [a, b] fun _ xs => fminmax f64 false (xs.getD 0 0) (xs.getD 1 0)
  | .dmax d a b _ => double d [a, b] fun _ xs => fminmax f64 true (xs.getD 0 0) (xs.getD 1 0)
  | .deq d a b _ => some ⟨d, false, [a, b], true, false, none, cmpF f64 .eq⟩
  | .dlt d a b _ => some ⟨d, false, [a, b], true, false, none, cmpF f64 .lt⟩
  | .dle d a b _ => some ⟨d, false, [a, b], true, false, none, cmpF f64 .le⟩
  | .ddiv d a b _ => some ⟨d, true, [a, b], true, true, none, divF f64⟩
  | .dsqrt d a _ => some ⟨d, true, [a], true, true, none, sqrtF f64⟩
  | .drcp d a _ => some ⟨d, true, [a], true, true, none, rcpF f64 0x6F⟩
  | .hadd2 d a b _ => single d [a, b] (packed (rounded f16 plus))
  | .hmul2 d a b _ => single d [a, b] (packed (rounded f16 times))
  | .hfma2 d a b _ => single d [d, a, b] (packed (rounded f16 timesPlus))
  | .badd2 d a b _ => single d [a, b] (packed (rounded bf16 plus))
  | .bmul2 d a b _ => single d [a, b] (packed (rounded bf16 times))
  | .bfma2 d a b _ => single d [d, a, b] (packed (rounded bf16 timesPlus))
  | .cvt d a c _ => some ⟨d, Field.cvtPairD c, [a], Field.cvtPairA c, false, none, fun rm xs => conversion c.toNat rm (xs.getD 0 0)⟩
  | .cvtz d a c _ =>
    some ⟨d, Field.cvtPairD c, [a], Field.cvtPairA c, false, some .rtz, fun rm xs => conversion c.toNat rm (xs.getD 0 0)⟩
  | .fclass d a _ => single d [a] fun _ xs => (fclassOf f32 (xs.getD 0 0), noFlags)
  | .fldx d a b _ => single d [a, b] scaleF
  | .frnd d a m _ => single d [a] (integralF f32 m.toNat)
  | .drnd d a m _ => double d [a] (integralF f64 m.toNat)
  | .fdot2 d a b _ => single d [d, a, b] (dotF bf16)
  | .hdot2 d a b _ => single d [d, a, b] (dotF f16)
  | .packb d a b _ => single d [a, b] (packF bf16)
  | .packh d a b _ => single d [a, b] (packF f16)
  | _ => none

/-- An operand as a number, with its poison (R88, R99). -/
def FloatForm.operand (u : FloatForm) (wp : Warp) (run : Run) (t : Thread) (r : Reg) : Nat × Bool :=
  if u.pairs then ((wp.readPair run t r).1.toNat, (wp.readPair run t r).2)
  else ((wp.read run t r).v.toNat, (wp.read run t r).p)

/-- What a floating-point word does to a lane: the result in its mode, with the poison of every register read, and the
flags added to `fflags`; a result that comes later carries its flags with it (R95, R97, R99). -/
def FloatForm.effect (u : FloatForm) : LaneEffect := fun wp run _ t =>
  let xs := u.srcs.map (u.operand wp run t)
  let r := u.f (u.fixed.getD (Rm.of t.frm)) (xs.map (·.1))
  let p := xs.any (·.2)
  let v : Dword := BitVec.ofNat 64 r.1
  if u.later then
    t.await .fdiv (if u.wide then [(wp.cellIn run t u.d, ⟨loHalf v, p⟩), (wp.cellIn run t (u.d + 1), ⟨hiHalf v, p⟩)]
      else [(wp.cellIn run t u.d, ⟨BitVec.ofNat 32 r.1, p⟩)]) r.2
  else
    let t := { t with fflags := t.fflags ||| r.2 }
    if u.wide then wp.writePair run t u.d v p else wp.write run t u.d ⟨BitVec.ofNat 32 r.1, p⟩

/-! ## Rounding -/

/-- 2 to a power. -/
def pow2 (x : Int) : Rat := if 0 ≤ x then (2 ^ x.toNat : Nat) else 1 / (2 ^ (-x).toNat : Nat)

/-- The magnitude that magnitude bits of a format stand for; those of infinity stand for the next power of two (R90). -/
def Fmt.magnitude (f : Fmt) (b : Nat) : Rat :=
  if b / 2 ^ f.fbits = 0 then (b % 2 ^ f.fbits : Nat) * pow2 f.qmin
  else (2 ^ f.fbits + b % 2 ^ f.fbits : Nat) * pow2 (f.qmin + (b / 2 ^ f.fbits - 1 : Nat))

/-- Magnitude bits b are the value v rounded to nearest, to even on a tie; v at or beyond the middle between the greatest
finite value and the next power of two gives infinity (R94). -/
def Nearest (f : Fmt) (v : Rat) (b : Nat) : Prop :=
  b ≤ f.inf ∧ ∀ c ≤ f.inf, c ≠ b →
    (v - f.magnitude b).abs < (v - f.magnitude c).abs ∨
      ((v - f.magnitude b).abs = (v - f.magnitude c).abs ∧ b % 2 = 0)
/-- Magnitude bits b are the value v cut toward zero: the greatest finite value not above v. -/
def Cut (f : Fmt) (v : Rat) (b : Nat) : Prop :=
  b < f.inf ∧ f.magnitude b ≤ v ∧ (b + 1 < f.inf → v < f.magnitude (b + 1))
/-- Magnitude bits b are the value v raised away from zero: the least value not below v, infinity if none is finite. -/
def Raised (f : Fmt) (v : Rat) (b : Nat) : Prop :=
  b ≤ f.inf ∧ (b < f.inf → v ≤ f.magnitude b) ∧ (0 < b → f.magnitude (b - 1) < v)

/-! ## Control -/

/-- Where a branch sends a lane whose register holds x (R120): its own condition, its target, or the word after. -/
def branchTo (run : Run) (x : Word) : Instr → Option Word
  | .bra i _ => some (jumpTarget run i)
  | .bnz _ i _ => some (if x.toNat ≠ 0 then branchTarget run i else run.after)
  | .bz _ i _ => some (if x.toNat = 0 then branchTarget run i else run.after)
  | .bltz _ i _ => some (if x.toInt < 0 then branchTarget run i else run.after)
  | .bgez _ i _ => some (if x.toInt < 0 then run.after else branchTarget run i)
  | .jmpr _ _ => some x
  | _ => none

/-- The register a branch tests or takes its target from. -/
def branchReg : Instr → List Reg
  | .bnz d _ _ | .bz d _ _ | .bltz d _ _ | .bgez d _ _ | .jmpr d _ => [d]
  | _ => []

/-- The logical registers that a window at base n names and one at base b did not (R60), as cells. -/
def newlyNamed (wp : Warp) (b n : Nat) : List Nat :=
  (List.range (window wp.alloc)).filterMap fun j =>
    if n + j < b + window wp.alloc then none else some (allotCell wp.alloc (n + j) 0)

/-- The window moves up with no spill: the newly named registers read 0 (R60, R122). -/
def slideUp (wp : Warp) (t : Thread) (n : Nat) : Thread :=
  { (newlyNamed wp t.base n).foldl (fun t k => t.setCell k ⟨0, false⟩) t with base := n }

/-- A call's link in the window it moved to (R122); Tolune moves no window and counts its depth (R51, R369). -/
def callEffect (k : Reg) : LaneEffect := fun wp run _ t =>
  let t := if run.tolune then { t with depth := t.depth + 1 } else slideUp wp t (t.base + 8 * k.toNat)
  wp.write run (wp.write run t 0 ⟨run.after, false⟩) 1 ⟨BitVec.ofNat 32 k.toNat, false⟩

/-- A return's window, with no fill (R123). -/
def returnEffect : LaneEffect := fun wp run _ t =>
  if run.tolune then { t with depth := t.depth - 1 } else { t with base := t.base - 8 * (wp.read run t 1).v.toNat }

/-- The words of the guest level that act on the lane alone (R135). -/
def guestEffect : Instr → Option LaneEffect
  | .gadv i _ => some fun _ run _ t =>
      let v : Word := match run.ext with
        | none => i.setWidth 32
        | some p => BitVec.ofNat 32 (p.toNat * 128 + i.toNat % 128)
      { t with gpc := t.gpc + (if v = 0 then t.glen.setWidth 32 else v) }
  | .gjmp a _ => some fun wp run _ t => { t with gpc := (wp.read run t a).v }
  | .gjrel a _ => some fun wp run _ t => { t with gpc := t.gpc + (wp.read run t a).v }
  | _ => none
def guestReg : Instr → List Reg
  | .gjmp a _ | .gjrel a _ => [a]
  | _ => []

/-! ## Memory -/

/-- The lanes' accesses of the word are allowed by a chip: the base register is clean, the address is a multiple of a
unit, and no byte breaks a rule of R254. -/
def Permitted (s : State) (c : Chip) (w rid : Nat) (i : Instr) (a : Reg) (need : Need) (reads : Bool) (unit : Nat) : Prop :=
  Clean s w rid [a] ∧ ∀ l ∈ s.lanes w rid, ∃ x n r wr, laneAccess (s.warp w) (s.run w rid) (s.thread w l) i = some (x, n, r, wr) ∧
    x.toNat % unit = 0 ∧ c.check w need reads true x n = none

/-- A load: destination, base, bytes, sign extension, whether it must be aligned, and whether it follows the warp's
earlier stores (R226, R227). -/
def loadForm : Instr → Option (Reg × Reg × Nat × Bool × Bool × Bool)
  | .ldb d a _ _ => some (d, a, 1, false, false, false)
  | .ldbs d a _ _ => some (d, a, 1, true, false, false)
  | .ldh d a _ _ => some (d, a, 2, false, false, false)
  | .ldhs d a _ _ => some (d, a, 2, true, false, false)
  | .ldw d a _ _ => some (d, a, 4, false, false, false)
  | .ldd d a _ _ => some (d, a, 8, false, false, false)
  | .ldq d a _ _ => some (d, a, 16, false, false, false)
  | .ldo d a _ o z _ => some (d, a, if z = 0 then 4 else 8, false, true, o == 3)
  | _ => none

/-- A guest load: destination, displacement, bytes, sign extension (R134). -/
def guestLoadForm : Instr → Option (Reg × Imm × Nat × Bool)
  | .gldb d i _ => some (d, i, 1, false)
  | .gldbs d i _ => some (d, i, 1, true)
  | .gldh d i _ => some (d, i, 2, false)
  | .gldhs d i _ => some (d, i, 2, true)
  | .gldw d i _ => some (d, i, 4, false)
  | _ => none

/-- The registers n bytes at an address give: one register, extended, or four bytes to a register (R226). A byte with a
poison mark poisons the register it lands in. -/
def loaded (c : Chip) (w : Nat) (x : Word) (n : Nat) (sign : Bool) : List Val :=
  let m (k len : Nat) : Nat × Bool :=
    let bs := c.loadBytes w (x + BitVec.ofNat 32 k) len
    (numOfBytes bs.1, bs.2)
  if n < 4 then
    [⟨if sign then BitVec.ofInt 32 (signedField (8 * n) (m 0 n).1) else BitVec.ofNat 32 (m 0 n).1, (m 0 n).2⟩]
  else (List.range (n / 4)).map fun k => ⟨BitVec.ofNat 32 (m (4 * k) 4).1, (m (4 * k) 4).2⟩

/-- What a load leaves pending in a lane: the registers from d on with what memory gave (R153, R226). -/
def loadEffect (c : Chip) (w : Nat) (kind : PendKind) (d : Reg) (n : Nat) (sign : Bool) (addr : Warp → Run → Thread → Word) :
    LaneEffect := fun wp run _ t =>
  let vs := loaded c w (addr wp run t) n sign
  t.await kind (vs.zipIdx.map fun v => (wp.cellIn run t (d + BitVec.ofNat 8 v.2), v.1)) 0

/-- A store: data, base, bytes, whether it must be aligned (R226, R227). -/
def storeForm : Instr → Option (Reg × Reg × Nat × Bool)
  | .stb d a _ _ => some (d, a, 1, false)
  | .sth d a _ _ => some (d, a, 2, false)
  | .stw d a _ _ => some (d, a, 4, false)
  | .std d a _ _ => some (d, a, 8, false)
  | .stq d a _ _ => some (d, a, 16, false)
  | .sto d a _ _ z _ => some (d, a, if z = 0 then 4 else 8, true)
  | _ => none

/-- The first n bytes of the registers from d on, and their poison. -/
def dataOf (wp : Warp) (run : Run) (t : Thread) (d : Reg) (n : Nat) : List Byte × Bool :=
  let vs := (List.range ((n + 3) / 4)).map fun k => wp.read run t (d + BitVec.ofNat 8 k)
  ((vs.flatMap fun (v : Val) => bytesOfNum 4 v.v.toNat).take n, vs.any (·.p))

/-- The stores a word issues, in lane order (R226, R238, R285). -/
def storesOf (wp : Warp) (run : Run) (i : Instr) (d : Reg) (n : Nat) : List Store :=
  (wp.active run).map fun l =>
    let t := wp.thread l
    let x := ((laneAccess wp run t i).map (·.1)).getD 0
    { lane := l, kind := if stagingStore x n then .staging else if goStore x n then .go else .plain, addr := x
      bytes := (dataOf wp run t d n).1, poison := (dataOf wp run t d n).2, npc := run.npc, word := run.raw
      wid := t.wid, gpc := t.gpc, rentry := t.rentry, due := none }

/-- A store that touches the staging registers is one of R238, with clean data for JC0 to JC3. -/
def StagingUse (s : State) (w rid : Nat) (i : Instr) (d : Reg) (n : Nat) : Prop :=
  ∀ l ∈ s.lanes w rid, ∀ x r wr, laneAccess (s.warp w) (s.run w rid) (s.thread w l) i = some (x, n, r, wr) →
    (touchesStaging x n = true → stagingStore x n = true ∨ goStore x n = true) ∧
    (stagingStore x n = true → (dataOf (s.warp w) (s.run w rid) (s.thread w l) d n).2 = false)

/-- The lane's store of n bytes is a GO, and what its card then makes of the lane: the fault, or none (R238, R241). The
card is what the warp's earlier stores leave (log entry 5). -/
def GoAt (s : State) (w rid l : Nat) (i : Instr) (n : Nat) : Prop :=
  ∃ x r wr, laneAccess (s.warp w) (s.run w rid) (s.thread w l) i = some (x, n, r, wr) ∧ goStore x n = true
def GoStop (s : State) (w rid l : Nat) : Option Stop :=
  (s.chip.drain w).goStop w l (s.run w rid).npc (s.thread w l).gpc (s.thread w l).rentry

/-- An integer atomic: data and old value, base, and the function of the old value m, the operand v and the second operand
u; none leaves memory as it is (R228). -/
def atomicForm : Instr → Option (Reg × Reg × Nat × (Nat → Nat → Nat → Option Nat))
  | .aadd d a _ _ z _ => some (d, a, if z = 0 then 4 else 8, fun m v _ => some (m + v))
  | .aand d a _ _ z _ => some (d, a, if z = 0 then 4 else 8, fun m v _ => some (m &&& v))
  | .aor d a _ _ z _ => some (d, a, if z = 0 then 4 else 8, fun m v _ => some (m ||| v))
  | .axor d a _ _ z _ => some (d, a, if z = 0 then 4 else 8, fun m v _ => some (m ^^^ v))
  | .amins d a _ _ z _ =>
    let n := if z = 0 then 4 else 8
    some (d, a, n, fun m v _ => some (if signedField (8 * n) m ≤ signedField (8 * n) v then m else v))
  | .aminu d a _ _ z _ => some (d, a, if z = 0 then 4 else 8, fun m v _ => some (if m ≤ v then m else v))
  | .amaxs d a _ _ z _ =>
    let n := if z = 0 then 4 else 8
    some (d, a, n, fun m v _ => some (if signedField (8 * n) v ≤ signedField (8 * n) m then m else v))
  | .amaxu d a _ _ z _ => some (d, a, if z = 0 then 4 else 8, fun m v _ => some (if v ≤ m then m else v))
  | .axch d a _ _ z _ => some (d, a, if z = 0 then 4 else 8, fun _ v _ => some v)
  | .acas d a _ _ z _ => some (d, a, if z = 0 then 4 else 8, fun m v u => if m = v then some u else none)
  | _ => none

/-- One lane's atomic: memory takes the new value at once, and the old one is pending for d (R228). Only `acas` reads a
second operand, and only its old value is poisoned by the first. -/
def atomicLaneEffect (i : Instr) (d : Reg) (n : Nat) (f : Nat → Nat → Nat → Option Nat) (w rid l : Nat) (c : Chip) : Chip :=
  let wp := c.warp w
  let run := wp.run rid
  let t := wp.thread l
  let x := ((laneAccess wp run t i).map (·.1)).getD 0
  let old := c.loadBytes w x n
  let v := dataOf wp run t d n
  let u := dataOf wp run t (d + BitVec.ofNat 8 (n / 4)) n
  let cas := comparing i
  let c := match f (numOfBytes old.1) (numOfBytes v.1) (numOfBytes u.1) with
    | some r => c.performWrite w l run.npc x (bytesOfNum n r) (old.2 || v.2 || (cas && u.2))
    | none => c
  c.modWarp w fun wp => wp.modThread l fun t => t.await .atomic
    ((List.range (n / 4)).map fun k => (wp.cellIn run t (d + BitVec.ofNat 8 k),
      ⟨BitVec.ofNat 32 (numOfBytes ((old.1.drop (4 * k)).take 4)), old.2 || (cas && v.2)⟩)) 0

/-- The lanes of a run one after another, lowest first. -/
def Chip.eachLane (c : Chip) (w rid : Nat) (f : Nat → Chip → Chip) : Chip :=
  ((c.warp w).active ((c.warp w).run rid)).foldl (fun c l => f l c) c

/-- The lanes of a run. -/
def Chip.lanesOf (c : Chip) (w rid : Nat) : List Nat := (c.warp w).active ((c.warp w).run rid)

/-- The lanes of a group arrive together at a barrier of their block: the first arrival of a generation says how it
completes, and a full generation completes (R237). -/
def arriveAt (w rid id : Nat) (count : Option Reg) (c : Chip) : Chip :=
  let b := (c.warp w).block
  let h := (c.launch (c.warp w).launch).header
  let old := Sparse.get Barrier.fresh (c.block b).bars id
  let ls := c.lanesOf w rid
  let kind : BarKind := match count with
    | some a => .counted ((c.warp w).read ((c.warp w).run rid) ((c.warp w).thread (ls.headD 0)) a).v.toNat
    | none => .all
  let ts := ls.map fun l => h.threadIndex ((c.warp w).thread l).wid
  let new : Barrier :=
    { old with
      opener := if old.opener = none then some kind else old.opener
      arrived := old.arrived ++ ts.filter fun k => !old.arrived.contains k
      participants := old.participants ++ ts.filter fun k => !old.participants.contains k }
  if ls = [] then c else (c.modBlock b fun x => { x with bars := Sparse.put x.bars id new }).checkBarrier b id

/-! ## Warp-wide words -/

/-- A collective word's source, its second source, and its destination registers (R168 to R173). -/
def collForm : Instr → Option (Reg × Option Reg × List Reg)
  | .vote d a m _ => some (a, none, if m = 2 then [d, d + 1] else [d])
  | .shfi d a b _ => some (a, some b, [d])
  | .shfu d a _ _ => some (a, none, [d])
  | .shfd d a _ _ => some (a, none, [d])
  | .shfx d a _ _ => some (a, none, [d])
  | .redf d a _ _ => some (a, none, [d])
  | .redi d a _ _ => some (a, none, [d])
  | .scni d a _ _ _ => some (a, none, [d])
  | .matchw d a _ => some (a, none, [d, d + 1])
  | _ => none

/-- What the lanes of a word give to its collective, and where they take the result (R164). -/
def contributions (wp : Warp) (run : Run) (a : Reg) (b : Option Reg) : Sparse Contribution :=
  (wp.active run).map fun l =>
    (l, ⟨wp.read run (wp.thread l) a, match b with | some r => wp.read run (wp.thread l) r | none => ⟨0, false⟩⟩)
def collCells (wp : Warp) (run : Run) (ds : List Reg) : Sparse (List Nat) :=
  (wp.active run).map fun l => (l, ds.map (wp.cellIn run (wp.thread l)))

/-- The instance a word joins: one at its PC for the same word that none of its lanes has issued (R163, R164). -/
def openInstance (wp : Warp) (run : Run) (i : Instr) : Option Coll :=
  wp.colls.find? fun x => x.pc == run.pc && collCode x.word == collCode i && x.issued &&& maskOf (wp.active run) == 0

/-! ## The Crucible -/

/-- The value of a voted register of a matrix word: that of its lowest lane (R191). -/
def votedValue (wp : Warp) (run : Run) (r : Reg) : Word := (wp.read run (wp.thread ((wp.active run).headD 0)) r).v

/-- The format or control word, and the addresses, that a matrix word brings to the queue. -/
def matrixOperands : Instr → Option Reg × Option Reg × Option Reg
  | .bld _ a b _ => (some b, some a, none)
  | .cbl _ a _ => (none, some a, none)
  | .mma _ _ b _ | .mmab _ _ b _ | .mmas _ _ b _ => (some b, none, none)
  | .rqt d a b _ => (some d, some a, some b)
  | _ => (none, none, none)

/-- The queue entry of a matrix word with what it captured (R187): the word, its warp and lanes, its voted values, the
fragment or the registers it moves, the destinations, the tile or table it has read. -/
def entryOf (c : Chip) (w rid : Nat) (i : Instr) (frag : Sparse Val) (dest : Sparse (List Nat)) (load : TileLoad)
    (rows : List (Nat × Nat)) (sample : Word) : MatrixEntry :=
  let wp := c.warp w
  let run := wp.run rid
  let val (r : Option Reg) : Word := match r with | some r => votedValue wp run r | none => 0
  { word := i, warp := w, lanes := maskOf (wp.active run), npc := run.npc, raw := run.raw
    fmt := val (matrixOperands i).1, addr := val (matrixOperands i).2.1, addr2 := val (matrixOperands i).2.2
    frag := frag, dest := dest, load := load, rows := rows, sample := sample
    rentry := (wp.thread ((wp.active run).headD 0)).rentry, retry := (wp.thread ((wp.active run).headD 0)).retry
    num := c.next }

/-- The entry joins the queue of the warp's core (R187). -/
def Chip.enqueue (c : Chip) (w : Nat) (e : MatrixEntry) : Chip :=
  { c with
    next := c.next + 1
    crucibles := Sparse.put c.crucibles (c.warp w).core
      { c.crucible (c.warp w).core with queue := (c.crucible (c.warp w).core).queue ++ [e] } }

/-- The job of an accepted `rqt` (R206). -/
def requantJob (c : Chip) (w rid : Nat) (e : MatrixEntry) : Job :=
  let wp := c.warp w
  let l := (c.lanesOf w rid).headD 0
  let t := wp.thread l
  { kind := .rqt e.fmt e.addr e.addr2 none, status := .waiting, context := wp.context, block := wp.block, warp := w
    lane := l, lanes := maskOf (c.lanesOf w rid), wid := t.wid, launch := wp.launch, npc := e.npc, word := e.raw, gpc := t.gpc, rentry := e.rentry
    die := dieOf wp.core, cluster := clusterOf wp.core, jc0 := 0, jc1 := 0, jc2 := 0
    jc3 := BitVec.ofNat 64 (e.fmt.toNat % 64), cursor := 0, claim := none, chunk := [], fault := none, traced := false }

/-- A product's slot and format word (R202, R203, R223). -/
def productForm : Instr → Option (Reg × Reg)
  | .mma d _ b _ | .mmab d _ b _ | .mmas d _ b _ => some (d, b)
  | _ => none

/-- The trap a product takes before any effect, in the order of R191: event, reason and info fields. -/
def ProductTrap (s : State) (w rid : Nat) (i : Instr) (d b : Reg) (event reason : Nat) (info0 info1 : Dword) : Prop :=
  let f := votedValue (s.warp w) (s.run w rid) b
  let differ := (s.lanes w rid).filter fun l => decide (s.value w rid l b ≠ f)
  let reserved := 2 ^ 18 ≤ f.toNat ∨ fmtAcc f = 3 ∨ 5 < fmtA f ∨ 5 < fmtB f
  let tag := ((s.chip.crucible (s.warp w).core).bank (fmtBank f)).tag
  let held : Dword := BitVec.ofNat 64 (f.toNat + tag.word.toNat % 2 ^ 25 * 2 ^ 32)
  let passes := differ = [] ∧ ¬reserved ∧ productLegal i f = true ∧ ¬(fmtA f = 5 ∧ d.toNat % 2 = 1) ∧
    (∀ a n, fragmentExtent (s.warp w) (s.run w rid) i = some (a, n) → extentBad (s.warp w) (s.run w rid) a n = false)
  (differ ≠ [] ∧ event = 4 ∧ reason = 0 ∧ info0 = f.setWidth 64 ∧ info1 = maskOf differ) ∨
    (differ = [] ∧ reserved ∧ event = 4 ∧ reason = 1 ∧ info0 = f.setWidth 64 ∧ info1 = 0) ∨
    (differ = [] ∧ ¬reserved ∧ productLegal i f = false ∧ event = 4 ∧ reason = 2 ∧ info0 = f.setWidth 64 ∧ info1 = 0) ∨
    (passes ∧ tag.fmt = 15 ∧ event = 5 ∧ reason = 0 ∧ info0 = held ∧ info1 = 0) ∨
    (passes ∧ tag.fmt ≠ 15 ∧ (tag.fmt ≠ fmtB f ∨ tag.s ≠ fmtS f ∨ tag.scl ≠ fmtScl f) ∧ event = 5 ∧ reason = 1 ∧
      info0 = held ∧ info1 = 0)

/-- Registers of the word's lanes as captured: lane · 128 + index (R192). -/
def captured (wp : Warp) (run : Run) (rs : List Reg) : Sparse Val :=
  (wp.active run).flatMap fun l => rs.zipIdx.map fun r => (l * 128 + r.2, wp.read run (wp.thread l) r.1)

/-! ## Special registers -/

/-- What each selector of R63 gives a lane. -/
def specialValue (c : Chip) (wp : Warp) (run : Run) (l : Nat) (t : Thread) (sel : Nat) : Option Word :=
  let n := c.launch wp.launch
  match sel with
  | 0x00 => some (BitVec.ofNat 32 l)
  | 0x01 => some (t.wid.extractLsb' 0 32)
  | 0x02 => some (t.wid.extractLsb' 32 32)
  | 0x03 => some (fieldValue n.header.fields 0 t.wid.toNat)
  | 0x04 => some (fieldValue n.header.fields 1 t.wid.toNat)
  | 0x05 => some (fieldValue n.header.fields 2 t.wid.toNat)
  | 0x06 => some (fieldValue n.header.fields 3 t.wid.toNat)
  | 0x07 => some (fieldValue n.header.fields 4 t.wid.toNat)
  | 0x08 => some (fieldValue n.header.fields 5 t.wid.toNat)
  | 0x09 => some (BitVec.ofNat 32 wp.role)
  | 0x0A => some (BitVec.ofNat 32 wp.core)
  | 0x0B => some (BitVec.ofNat 32 (8 * ((List.range 24).filter n.header.cmask.getLsbD).length))
  | 0x0C => some (BitVec.ofNat 32 (if wp.alloc = 0 then 0 else t.base % wp.alloc))
  | 0x0D => some (BitVec.ofNat 32 wp.alloc)
  | 0x10 => some t.gpc
  | 0x11 => some t.gcb
  | 0x12 => some t.htb
  | 0x13 => some (t.gop.setWidth 32)
  | 0x14 => some (t.glen.setWidth 32)
  | 0x15 => some (t.gmode.setWidth 32)
  | 0x18 => some (t.frm.setWidth 32)
  | 0x19 => some (t.fflags.setWidth 32)
  | 0x1A => some (wp.memb.extractLsb' 0 32)
  | 0x1B => some (wp.memb.extractLsb' 32 32)
  | 0x1C => some (wp.fmask.extractLsb' 0 32)
  | 0x1D => some (wp.fmask.extractLsb' 32 32)
  | 0x1E => some wp.entries
  | 0x1F => some (BitVec.ofNat 32 wp.mthr)
  | 0x20 => some (run.lanes.extractLsb' 0 32)
  | 0x21 => some (run.lanes.extractLsb' 32 32)
  | 0x22 => some (t.absent.setWidth 32)
  | 0x30 => some (BitVec.ofNat 32 wp.draw)
  | 0x38 => some (BitVec.ofNat 32 ((if wp.stallchk then 1 else 0) + (if n.replayable then 2 else 0) + 16))
  | 0x39 => some (BitVec.ofNat 32 (run.bank * 65536 + run.gen % 65536))
  | _ => none

/-- A lane's own entry written (R57, R375); none for an entry that cannot be written. -/
def specialWrite (sel : Nat) (v : Word) (t : Thread) : Option Thread :=
  match sel with
  | 0x10 => some { t with gpc := v }
  | 0x11 => some { t with gcb := v }
  | 0x12 => some { t with htb := BitVec.ofNat 32 (v.toNat / 8 * 8) }
  | 0x15 => if v.toNat % 4 = 3 then none else some { t with gmode := v.setWidth 2 }
  | 0x18 => some { t with frm := v.setWidth 2 }
  | 0x19 => some { t with fflags := v.setWidth 5 }
  | 0x1A | 0x1B | 0x1F => some t
  | _ => none

/-- A warp's entry written by the lowest issuing lane: bits of lane slots the warp lacks stay 0, and `mthr` is at most 64
(R375). -/
def specialWarp (sel : Nat) (v : Word) (wp : Warp) : Warp :=
  match sel with
  | 0x1A => { wp with memb := (hiHalf wp.memb ++ v) &&& maskOf (List.range wp.lanes) }
  | 0x1B => { wp with memb := (v ++ loHalf wp.memb) &&& maskOf (List.range wp.lanes) }
  | 0x1F => { wp with mthr := min v.toNat 64 }
  | _ => wp

/-- The registers whose poison kills a lane of a word, and the cause (R65, R66): the base of an access 5, the index of a
register or a stream's position 5, a condition, a count, a link or an indirect target 6, an argument of a service 7, a value
written to a special register 8. -/
def poisonKills (i : Instr) : Option (List Reg × Nat) :=
  match i with
  | .bnz d _ _ | .bz d _ _ | .bltz d _ _ | .bgez d _ _ => some ([d], 6)
  | .jmpr a _ | .callr _ a _ | .gjmp a _ | .gjrel a _ => some ([a], 6)
  | .ret _ => some ([0, 1], 6)
  | .dwait _ a _ | .bara a _ _ | .barw a _ _ => some ([a], 6)
  | .svc _ _ => some (regs 0 8, 7)
  | .spinw _ a _ _ | .rget _ a _ | .rput _ a _ => some ([a], 5)
  | .afxa _ a _ _ _ _ | .afxr _ a _ _ _ _ | .afxz _ a _ _ _ | .tinit a _ _ | .tgrab _ a _ => some ([a], 5)
  | .spos _ a t _ _ => if t = 1 then some ([a], 5) else none
  | .swr a _ _ => some ([a], 8)
  | i =>
    match loadForm i, storeForm i, atomicForm i with
    | some (_, a, _), _, _ => some ([a], 5)
    | none, some (_, a, _), _ => some ([a], 5)
    | none, none, some (_, a, _) => some ([a], 5)
    | none, none, none => none

/-- A word that performs the warp's stores before it looks at its lanes' operands (R227, R228, log entry 5). -/
def drainsFirst (i : Instr) : Bool :=
  match i with
  | .afxa _ _ _ _ _ _ | .afxr _ _ _ _ _ _ | .afxz _ _ _ _ _ | .tinit _ _ _ | .tgrab _ _ _ => true
  | i => ((loadForm i).any fun f => f.2.2.2.2.2) || (atomicForm i).isSome

/-- The voted registers of a matrix word in the order in which they are judged, each with the cause that its poison kills
with: an address 5, another 8 (R191 step 1). -/
def votedKills : Instr → List (Reg × Nat)
  | .bld _ a b _ => [(a, 5), (b, 8)]
  | .cbl _ a _ => [(a, 5)]
  | .mma _ _ b _ | .mmab _ _ b _ | .mmas _ _ b _ => [(b, 8)]
  | .rqt d a b _ => [(a, 5), (b, 5), (d, 8)]
  | _ => []

/-- The values that no lane of a word is forbidden (R123, R126, R179, R234, R375): a link is a slide of the window, an index
names a register, a counter or a stream is there, a special register can take what is written to it. -/
def UsesAllowed (s : State) (w rid : Nat) (i : Instr) : Prop :=
  ∀ l ∈ s.lanes w rid,
    match i with
    | .rget _ a _ | .rput _ a _ => ((s.warp w).read (s.run w rid) (s.thread w l) a).p = true ∨
        (s.value w rid l a).toNat < (if (s.run w rid).tolune then (s.warp w).alloc else window (s.warp w).alloc)
    | .ret _ => (∃ r ∈ ([0, 1] : List Reg), ((s.warp w).read (s.run w rid) (s.thread w l) r).p = true) ∨
        (if (s.run w rid).tolune then s.value w rid l 1 = 0
        else 1 ≤ (s.value w rid l 1).toNat ∧ (s.value w rid l 1).toNat ≤ 15 ∧
          8 * (s.value w rid l 1).toNat ≤ (s.thread w l).base)
    | .dwait d _ _ => d.toNat < (s.chip.block (s.warp w).block).ndc
    | .spos _ _ _ m _ => (Sparse.find (s.warp w).streams m.toNat).isSome
    | .swr a b _ => (specialWrite b.toNat (if ((s.warp w).read (s.run w rid) (s.thread w l) a).p then 0
        else s.value w rid l a) (s.thread w l)).isSome
    | _ => True

/-! ## More words -/

/-- The register numbers g3 of a guest trap's record holds: opcode, kind, code (R137). -/
def guestTrapWord (op : BitVec 8) (kind code : Nat) : Word := BitVec.ofNat 32 (op.toNat + kind % 16 * 256 + code % 2 ^ 14 * 2 ^ 16)

/-- A guest trap delivered to the program: g0 to g3 hold the native PC, `gcb`, `gpc` and the record's word (R137). -/
def guestTrapEffect (kind code : Nat) : LaneEffect := fun wp run _ t =>
  wp.write run (wp.write run (wp.write run (wp.write run t 0 ⟨run.npc, false⟩) 1 ⟨t.gcb, false⟩) 2 ⟨t.gpc, false⟩) 3
    ⟨guestTrapWord t.gop kind code, false⟩

/-- The spilled unit of a lane below its floor goes back to its registers, poison included (R60, R61). -/
def fillOnce (c : Chip) (wp : Warp) (l : Nat) (t : Thread) : Thread :=
  let u := t.floor / 8 - 1
  { (List.range 8).foldl (fun t r => t.setCell (allotCell wp.alloc (8 * u) r)
      ⟨BitVec.ofNat 32 (c.spill.bytes.num (wp.spillBase + 2048 * u + 32 * l + 4 * r) 4),
        c.spill.marks.contains ((wp.spillBase + 2048 * u + 32 * l) / 4 + r)⟩) t with floor := t.floor - 8 }

/-- The spill-store bytes of the n units of a lane from its floor up (R61): unit and first byte. -/
def spilledUnits (wp : Warp) (t : Thread) (l n : Nat) : List (Nat × Nat) :=
  (List.range n).map fun j => (t.floor / 8 + j, wp.spillBase + 2048 * (t.floor / 8 + j) + 32 * l)

/-- A chip without its spill store. -/
def Chip.unspilled (c : Chip) : Chip := { c.rest with spill := ⟨[], []⟩ }

/-- The first n units of each lane from its floor up stand in the spill store, poison included, and every other byte of
the store is as before (R61). -/
def Spilled (s t : State) (w rid : Nat) (n : Nat → Nat) : Prop :=
  (∀ l ∈ s.lanes w rid, ∀ u ∈ spilledUnits (s.warp w) (s.thread w l) l (n l), ∀ r < 8,
    t.chip.spill.bytes.num (u.2 + 4 * r) 4 = ((s.thread w l).cellVal (allotCell (s.warp w).alloc (8 * u.1) r)).v.toNat ∧
      t.chip.spill.marks.contains (u.2 / 4 + r) = ((s.thread w l).cellVal (allotCell (s.warp w).alloc (8 * u.1) r)).p) ∧
  ∀ a, (∀ l ∈ s.lanes w rid, ∀ u ∈ spilledUnits (s.warp w) (s.thread w l) l (n l), a < u.2 ∨ u.2 + 32 ≤ a) →
    t.chip.spill.bytes.read a = s.chip.spill.bytes.read a

/-- The units a call must spill so that its window fits above the floor (R60). -/
def callSpills (wp : Warp) (t : Thread) (k : Reg) : Nat :=
  if k = 0 then 0 else (t.base + 8 * k.toNat + window wp.alloc - (t.floor + wp.alloc) + 7) / 8

/-- Where a call sends a lane whose registers hold some values (R122). -/
def calleeOf (run : Run) (value : Reg → Word) : Instr → Option Word
  | .call _ m _ => some (branchTarget run m)
  | .callr _ a _ => some (value a)
  | _ => none

/-- A lane waits for the reply to a record of event 2 of its own, which sends it after the word (R136, R137). -/
def GuestParked (s t : State) (w rid l : Nat) : Prop :=
  ∃ r ∈ t.chip.recs, s.chip.next ≤ r.num ∧ r.event = 2 ∧ r.lmask = maskOf [l] ∧
    .trap r.num (s.run w rid).after ∈ (t.thread w l).waits

/-- A descriptor in the registers from a on that R176 allows: some elements, no reserved bit or size, and a base whose
window agrees with its space. -/
def goodDescriptor (base count ctl : Word) : Prop :=
  count ≠ 0 ∧ ctl.extractLsb' 7 25 = 0 ∧ ctl.extractLsb' 2 2 = 0 ∧ ctl.extractLsb' 0 2 ≠ 3 ∧
    (if ctl.getLsbD 6 then windowOf base = 15 else windowOf base < 14)

/-- A slot that no other stream and no queue, or no other queue and no stream, is bound to (R177, R180). -/
def SlotFree (wp : Warp) (slot : Nat) (stream queue : Option Nat) : Prop :=
  (∀ e ∈ wp.streams, e.2.slot = slot → stream = some e.1) ∧ ∀ e ∈ wp.queues, e.2.slot = some slot → queue = some e.1

/-- The effect of a word of one lane that answers at once: an integer word, or a floating-point word whose result does
not come later. -/
def laneResult (i : Instr) : Option LaneEffect :=
  (intEffect i).or ((floatForm i).bind fun u => if u.later then none else some u.effect)

/-- The bound slots among registers, each once. -/
def boundIn (wp : Warp) (rs : List Reg) : List Nat :=
  ((rs.map BitVec.toNat).filter fun k => wp.boundSlots.contains k).eraseDups

/-- A lane's place in a queue, and the value of a lane in its entry p (R180). -/
def Queue.place (q : Queue) (t : Thread) (n : Nat) : Nat := Sparse.get q.first t.qptr n
def Queue.entry (q : Queue) (p l : Nat) : Val := Sparse.get ⟨0, false⟩ (q.fifo.getD (p - q.first) []) l

/-- The stores and the queue registers of a warp once a value that was still to come for a lane's bound slot is there: the
lane's element has its bytes, and the place kept in a store queue its value (R153, R178, R180). -/
def Warp.comes (wp : Warp) (l slot : Nat) (v : Val) (x : Warp) : Prop :=
  x.storeQ = wp.storeQ.map (fun y => if y.lane = l ∧ y.due = some slot then
      { y with bytes := bytesOfNum y.bytes.length v.v.toNat, poison := v.p, due := none } else y) ∧
    ∀ n q, Sparse.find wp.queues n = some q → ∃ q', Sparse.find x.queues n = some q' ∧ q'.slot = q.slot ∧ q'.first = q.first ∧
      match q.due.find? fun d => decide (d.1 = l ∧ d.2.1 = slot) with
      | none => q' = q
      | some d => q'.due = q.due.erase d ∧ (q.first ≤ d.2.2 → q'.entry d.2.2 l = v) ∧
          ∀ k j, q.first ≤ k → q.first ≤ d.2.2 → (k ≠ d.2.2 ∨ j ≠ l) → q'.entry k j = q.entry k j

/-- The next element of a lane at a bound slot: that of a stream, 0 beyond its end, or of a queue (R178, R180). -/
def Warp.element (wp : Warp) (t : Thread) (l slot : Nat) : Val :=
  match wp.streamAt slot, wp.queueAt slot with
  | some (n, x), _ =>
    if x.count ≤ Sparse.get 0 t.spos n then ⟨0, false⟩ else (Sparse.get [] t.selem n).headD ⟨0, false⟩
  | none, some (n, q) => q.entry (q.place t n) l
  | none, none => ⟨0, false⟩

/-- A lane's place at a bound slot moves on by one, a stream's not beyond its end; the element that a load stream had
ready there is used up. -/
def Warp.moved (wp : Warp) (slot : Nat) (t : Thread) : Thread :=
  match wp.streamAt slot, wp.queueAt slot with
  | some (n, x), _ =>
    if x.count ≤ Sparse.get 0 t.spos n then t
    else { t with
      spos := Sparse.put t.spos n (Sparse.get 0 t.spos n + 1)
      selem := if x.ctl.getLsbD 5 then t.selem else Sparse.put t.selem n (Sparse.get [] t.selem n).tail }
  | none, some (n, q) => { t with qptr := Sparse.put t.qptr n (q.place t n + 1) }
  | none, none => t

/-- A lane's elements stand where its word reads its registers, and its places move on. -/
def Warp.takes (wp : Warp) (slots : List Nat) (l : Nat) (t : Thread) : Thread :=
  slots.foldl (fun t slot => (wp.moved slot t).setCell (512 + slot) (wp.element t l slot)) t

/-- The store of a lane's element of a store stream (R178). -/
def Warp.elementStore (wp : Warp) (run : Run) (t : Thread) (l slot : Nat) (v : Val) : Option Store :=
  match wp.streamAt slot with
  | some (n, x) =>
    let p := Sparse.get 0 t.spos n
    let size := 2 ^ (x.ctl.toNat % 4)
    if x.count ≤ p then none
    else some { lane := l, kind := .element, addr := BitVec.ofNat 32 (x.base.toNat + x.stride.toNat * p + size * l)
                bytes := bytesOfNum size v.v.toNat, poison := v.p, npc := run.npc, word := run.raw
                wid := t.wid, gpc := t.gpc, rentry := t.rentry, due := none }
  | none => none

/-- A load queue without the entries that all of some lanes have taken (R180). -/
def Queue.freed (q : Queue) (n : Nat) (ts : List Thread) : Queue :=
  let low := (ts.map fun t => q.place t n).foldl min (q.first + q.fifo.length)
  { q with fifo := q.fifo.drop (low - q.first), first := max q.first low }

/-- No element that a word takes or gives is one its window turns away (R178). -/
def ElementsAllowed (s : State) (w rid : Nat) (i : Instr) : Prop :=
  ∀ l ∈ s.lanes w rid, ∀ slot ∈ boundIn (s.warp w) (i.reads ++ i.writes), ∀ n x, (s.warp w).streamAt slot = some (n, x) →
    x.count ≤ Sparse.get 0 (s.thread w l).spos n ∨
      s.chip.elementFault w x l (Sparse.get 0 (s.thread w l).spos n) = none

/-- The group of a word leaves its run at the trailer (R41): temporaries dead, the run kept in the loop buffer (R148). -/
def trailerEffect (f : BitVec 3) : LaneEffect := fun _ run _ t =>
  let t := if run.stray || run.emul.isSome then t
    else { t with loopBuf := ((run.entry, run.words.reverse) :: t.loopBuf.filter fun e => e.1 != run.entry).take 2 }
  { t with
    regs := t.regs.filter fun e => e.1 < 256 ∨ 1024 ≤ e.1, entryNext := f.getLsbD 0, yielded := f.getLsbD 1, promoted := none }

/-- A tile load of a `bld`, read as it is accepted (R200; log entry 12). -/
def tileLoadOf (c : Chip) (w rid : Nat) (a b : Reg) : Option (TileLoad × List (Nat × Nat)) :=
  let x := votedValue (c.warp w) ((c.warp w).run rid) a
  let f := votedValue (c.warp w) ((c.warp w).run rid) b
  match c.readTile w x (fmtB f) (fmtS f) (fmtScl f) with
  | .bank rows k => some (.bank k, rows)
  | _ => none

/-- The sixteen entries of a codebook in memory (R201). -/
def tableAt (c : Chip) (w : Nat) (x : Word) : List Val :=
  (List.range 16).map fun k =>
    let bs := c.loadBytes w (x + BitVec.ofNat 32 (2 * k)) 2
    ⟨BitVec.ofNat 32 (numOfBytes bs.1), bs.2⟩

/-! ## Results that arrive -/

/-- A cell that is the latch of a bound slot (R178, R180). -/
def latched (k : Nat) : Bool := decide (512 ≤ k ∧ k < 640)

/-- The warp, the lane, the place among the lane's pending results, and the kinds of result a delivery brings (R153). -/
def deliveryOf : Instr → Option (Nat × Nat × Nat × (PendKind → Bool))
  | .loadResultDeliver w l n => some (w, l, n, fun k => decide (k = .load))
  | .atomicResultDeliver w l n => some (w, l, n, fun k => decide (k = .atomic))
  | .divideResultDeliver w l n => some (w, l, n, fun k => decide (k = .divide))
  | .fdivResultDeliver w l n => some (w, l, n, fun k => decide (k = .fdiv))
  | .guestLoadDeliver w l n => some (w, l, n, fun k => decide (k = .guest))
  | .rputWriteDeliver w l n => some (w, l, n, fun k => decide (k = .rput))
  | .dpollResultDeliver w l n => some (w, l, n, fun k => decide (k = .dpoll))
  | .tgrabResultDeliver w l n => some (w, l, n, fun k => decide (k = .tgrab))
  | .ringSlotDeliver w l n => some (w, l, n, fun k => match k with
      | .ring _ known _ _ => known
      | _ => false)
  | _ => none

/-- Values written to cells, in order. -/
def written (regs : Sparse Val) (cells : Sparse Val) : Sparse Val :=
  cells.foldl (fun m e => Sparse.set ⟨0, false⟩ m e.1 e.2) regs

/-- A lane that has received values: what is still pending, its flags, and for a lane that waits, the time. A value whose
word has been withdrawn from a cell lands nowhere (R306, R324), and no stall count covers a register that has its value (R72). -/
def Thread.landed (t : Thread) (cells : Sparse Val) (pend : List Pend) (flags : BitVec 5) (now : Nat) : Thread :=
  let cells := cells.filter fun e => decide (e.1 ≠ 1000)
  { t with
    pend := pend, fflags := t.fflags ||| flags, regs := written t.regs cells
    fix := t.fix.filter fun f => decide (f.cell ∉ cells.map (·.1))
    since := if t.waits = [] then t.since else now }

/-- Staging register k written, with its written bit (R238). -/
def staged (k : Nat) (v : Dword) (t : Thread) : Thread :=
  let t := { t with jcw := t.jcw ||| BitVec.ofNat 4 (2 ^ k) }
  if k = 0 then { t with jc0 := v } else if k = 1 then { t with jc1 := v } else if k = 2 then { t with jc2 := v }
  else { t with jc3 := v }

/-- The value of an element of a stream: its bytes as an unsigned or a signed number (R176). -/
def Stream.element (x : Stream) (bs : List Byte) : Word :=
  if x.ctl.getLsbD 4 then BitVec.ofInt 32 (signedField (8 * x.esize) (numOfBytes bs)) else BitVec.ofNat 32 (numOfBytes bs)

/-- The members of a collective among the warp's lane slots, and those that live (R163). -/
def Coll.memberLanes (x : Coll) (wp : Warp) : List Nat := (List.range wp.lanes).filter fun l => x.members.getLsbD l
def Coll.liveMembers (x : Coll) (wp : Warp) : List Nat :=
  (x.memberLanes wp).filter fun l => decide ((wp.thread l).status = .live)

/-- The integer reductions with their identities (R171). -/
def reduction (m : Nat) : (Word → Word → Word) × Word :=
  if m = 0 then (fun x y => BitVec.ofNat 32 (x.toNat + y.toNat), 0)
  else if m = 1 then (fun x y => x &&& y, BitVec.ofNat 32 (2 ^ 32 - 1))
  else if m = 2 then (fun x y => x ||| y, 0)
  else if m = 3 then (fun x y => x ^^^ y, 0)
  else if m = 4 then (fun x y => if x.toInt ≤ y.toInt then x else y, BitVec.ofNat 32 (2 ^ 31 - 1))
  else (fun x y => if x.toInt ≤ y.toInt then y else x, BitVec.ofNat 32 (2 ^ 31))

/-- Node (k, i) of the tree of `redf` over 64 leaves: its value and the flags raised in it (R170). -/
def treeNode (op : Nat → Nat → Nat × Flags) (leaf : Nat → Nat) : Nat → Nat → Nat × Flags
  | 0, i => (leaf i, 0)
  | k + 1, i =>
    let x := treeNode op leaf k (2 * i)
    let y := treeNode op leaf k (2 * i + 1)
    ((op x.1 y.1).1, x.2 ||| y.2 ||| (op x.1 y.1).2)

/-- The operation of a `redf` node and its identity: the rounded sum, the greater, the lesser (R170). -/
def redfNode (m : Nat) : (Nat → Nat → Nat × Flags) × Nat :=
  if m = 0 then (fun x y => rounded f32 plus .rne [x, y], 0x80000000)
  else (fun x y => fminmax f32 (decide (m = 1)) x y, 0x7FC00000)

/-- The source slot of a shuffle, none where the lane takes its own value (R169). -/
def sourceSlot (i : Instr) (lanes l : Nat) (b : Word) : Option Nat :=
  match i with
  | .shfi _ _ _ _ => some (b.toNat % 64)
  | .shfu _ _ n _ => if l < n.toNat then none else some (l - n.toNat)
  | .shfd _ _ n _ => if lanes ≤ l + n.toNat then none else some (l + n.toNat)
  | .shfx _ _ n _ => some (l ^^^ n.toNat)
  | _ => none

/-- What a collective gives lane l: the values of its registers, the flags it raises, and the bit of `absent` it writes
with the value (R167 to R173). -/
def Coll.answer (x : Coll) (wp : Warp) (l : Nat) : List Val × Flags × Nat × Bool :=
  let live := x.liveMembers wp
  let gone := decide (live ≠ x.memberLanes wp)
  let a (k : Nat) : Val := (Sparse.get ⟨⟨0, false⟩, ⟨0, false⟩⟩ x.given k).a
  let b (k : Nat) : Val := (Sparse.get ⟨⟨0, false⟩, ⟨0, false⟩⟩ x.given k).b
  let p := live.any fun k => (a k).p
  let mask (ks : List Nat) : List Val := [⟨loHalf (maskOf ks), p⟩, ⟨hiHalf (maskOf ks), p⟩]
  match x.word with
  | .vote _ _ m _ =>
    (if m = 0 then [⟨truth (gone = false ∧ ∀ k ∈ live, (a k).v ≠ 0), p⟩]
    else if m = 1 then [⟨truth (∃ k ∈ live, (a k).v ≠ 0), p⟩]
    else if m = 2 then mask (live.filter fun k => decide ((a k).v ≠ 0))
    else if m = 3 then [⟨BitVec.ofNat 32 (live.countP fun k => decide ((a k).v ≠ 0)), p⟩]
    else [⟨truth (gone = false ∧ ∀ k ∈ live, ∀ j ∈ live, (a k).v = (a j).v), p⟩], 0, 1, gone)
  | .redf _ _ m _ =>
    let r := treeNode (redfNode m.toNat).1 (fun k => if k ∈ live then (a k).v.toNat else (redfNode m.toNat).2) 6 0
    ([⟨BitVec.ofNat 32 r.1, p⟩], r.2, 1, gone)
  | .redi _ _ m _ => ([⟨(live.map fun k => (a k).v).foldl (reduction m.toNat).1 (reduction m.toNat).2, p⟩], 0, 1, gone)
  | .scni _ _ e o _ =>
    let ks := live.filter fun k => decide (if e = 1 then k < l else k ≤ l)
    ([⟨(ks.map fun k => (a k).v).foldl (reduction o.toNat).1 (reduction o.toNat).2, ks.any fun k => (a k).p⟩], 0, 1, gone)
  | .matchw _ _ _ =>
    let ks := live.filter fun k => decide ((a k).v = (a l).v)
    ([⟨loHalf (maskOf ks), p || (a l).p⟩, ⟨hiHalf (maskOf ks), p || (a l).p⟩], 0, 1, gone)
  | i =>
    match sourceSlot i wp.lanes l (b l).v with
    | none => ([a l], 0, 0, false)
    | some k => if k ∈ live then ([⟨(a k).v, (a k).p || (b l).p⟩], 0, 0, false) else ([⟨0, (b l).p⟩], 0, 0, true)

/-! ## Matrix events -/

/-- The products, and the narrow ones (R202, R203, R223). -/
def isNarrow : Instr → Bool
  | .mma _ _ _ _ | .mmab _ _ _ _ => true
  | _ => false
def isProduct : Instr → Bool
  | .mmas _ _ _ _ => true
  | i => isNarrow i

/-- The slot a narrow product writes and the rows of A it takes (R192, R203). -/
def productRows (x : Crucible) (e : MatrixEntry) : Option (Reg × (Nat → ARow)) :=
  match e.word with
  | .mma d _ _ _ => some (d, fun l => x.rowOf e.frag (fmtA e.fmt) l (fmtScl e.fmt))
  | .mmab d a _ _ => some (d, fun l => x.rowFromSlot a.toNat (fmtA e.fmt) l)
  | _ => none

/-- Words of a restored image join the queue again in their order, each with the sample that is then right (R208, R221). -/
def Crucible.admits (x : Crucible) : List MatrixEntry → List MatrixEntry
  | [] => x.queue
  | e :: r => Crucible.admits { x with queue := x.queue ++ [{ e with sample := x.sample }] } r

/-- The Crucible with its product over. -/
def Crucible.ended (x : Crucible) : Crucible :=
  { x with cur := none, saved := [], queue := Crucible.admits { x with cur := none, saved := [] } x.saved }

/-- A result of a kind that a lane awaits in the cells a matrix word named. -/
def awaits (kind : PendKind) (cells : List Nat) (p : Pend) : Bool :=
  decide (p.kind = kind ∧ p.cells.map (·.1) = cells)

/-- Every lane of a reading matrix word still awaits its result, in registers that are no bound slots. -/
def MatrixReaders (s : State) (e : MatrixEntry) (kind : PendKind) : Prop :=
  ∀ l ∈ e.lanes.lanes, (s.thread e.warp l).pend.any (awaits kind (Sparse.get [] e.dest l)) = true ∧
    ∀ k ∈ Sparse.get [] e.dest l, latched k = false

/-- The head word is gone from a core's queue and its lanes have their values; nothing else changes. -/
def MatrixGiven (s t : State) (core : Nat) (e : MatrixEntry) (r : List MatrixEntry) (kind : PendKind)
    (vals : Nat → List Val) : Prop :=
  t = { s with chip := t.chip } ∧
    t.chip = { s.chip.modCrucible core fun x => { x with queue := r } with warps := t.chip.warps } ∧
    (∀ v, v ≠ e.warp → t.chip.warp v = s.chip.warp v) ∧ (t.chip.warp e.warp).rest = (s.chip.warp e.warp).rest ∧
    ∀ l, t.thread e.warp l = if l ∈ e.lanes.lanes then
        (s.thread e.warp l).landed ((Sparse.get [] e.dest l).zip (vals l))
          ((s.thread e.warp l).pend.eraseP (awaits kind (Sparse.get [] e.dest l))) 0 s.chip.cycle
      else s.thread e.warp l

/-- A scratchpad byte as a window shows it to a launch: its shadow line's, where a test on the launch and the line
holds, or the scratchpad's own (R225, R248, R251); a byte of block shared memory. -/
def Chip.located (c : Chip) (ctx : Nat) (shadowed : Nat → Bool) (a : Word) : Nat × Nat :=
  let v := (c.context ctx).window (windowOf a)
  if windowOf a = 15 then (1, a.toNat - sharedStart)
  else (if v.shadow && shadowed ((v.base + offsetOf a) / 64) then 2 else 0, v.base + offsetOf a)

/-- Where a read of a launch takes a byte from, and where a write of it puts it (R251). -/
def Chip.readsFrom (c : Chip) (ctx launch : Nat) (a : Word) : Nat × Nat :=
  c.located ctx (fun line => (Sparse.find (c.launch launch).shadowLines line).isSome) a
def Chip.writesTo (c : Chip) (ctx launch : Nat) (a : Word) : Nat × Nat :=
  c.located ctx (fun line => (c.launch launch).replayable || (Sparse.find (c.launch launch).shadowLines line).isSome) a

/-! ## Jobs -/

/-- A job parks at its chunk on a fault at a place: one record of event 9 names it with the place, the access and the
chunk, and nothing is written (R340, R301). -/
def JobParked (s t : State) (id : Nat) (j : Job) (space addr : Nat) (write : Bool) : Prop :=
  t.job id = some { j with
      status := .parked, fault := some s.chip.next, chunk := if sideSpace j.jc0 = 5 then j.chunk else [] } ∧ t.main = s.main ∧
    t.chip.scratch = s.chip.scratch ∧
    ∃ r, t.chip.recs = s.chip.recs ++ [r] ∧ r.num = s.chip.next ∧ r.event = 9 ∧ r.reason = 0 ∧ r.context = j.context ∧
      r.wids = [j.wid] ∧ r.job = some id ∧ r.seq = none ∧ r.info0 = BitVec.ofNat 64 (space * 2 ^ 60 + addr) ∧
      r.info1 = BitVec.ofNat 64 (j.dc + 64 * j.chan + 1024 * j.op + if write then 4096 else 0) ∧
      r.info2 = BitVec.ofNat 64 (j.cursor / 4096)

/-- A counter of a block. -/
def State.counter (s : State) (b dc : Nat) : Word := Sparse.get 0 (s.chip.block b).counters dc

/-- A context's completion ring takes one more unit (R346, R347). -/
def State.ringRoom (s : State) (ctx : Nat) : Prop :=
  s.slipwayFenced = false ∧ ∃ g, s.ring ctx 2 = some g ∧ (g.tail + 2 ^ 32 - g.head) % 2 ^ 32 + 1 ≤ 2 ^ g.size

/-- A job has stopped with an error entry: it alone is gone, and its counter rises with the posting of the entry: at once
where no entry waits and the ring has room (R244, R391, R392). -/
structure JobStopped (s t : State) (id : Nat) (j : Job) : Prop where
  gone : t.job id = none
  others : ∀ k, k ≠ id → t.job k = s.job k
  memory : t.main = s.main ∧ t.chip.scratch = s.chip.scratch
  posted : s.outbox = [] → s.ringRoom j.context → (Sparse.find s.chip.blocks j.block).isSome →
    t.counter j.block j.dc = s.counter j.block j.dc + 1 ∧ t.outbox = []
  waits : s.outbox = [] → ¬ s.ringRoom j.context →
    t.counter j.block j.dc = s.counter j.block j.dc ∧ t.outbox.map OutEntry.due = [some (.counter j.block j.dc)]

/-! ## Commands and the package -/

/-- The code of a command (R348, R349, R368, R385, R386). -/
def commandOf : Instr → Option Nat
  | .windowOpen => some 1
  | .windowClose => some 2
  | .windowDescriptorRead => some 3
  | .ringDefine => some 4
  | .queueDefine => some 5
  | .translationRoot => some 6
  | .invalidate => some 7
  | .shadowPoolGrant => some 8
  | .contextSuspend => some 9
  | .contextResume => some 10
  | .slotReset => some 11
  | .statusRead => some 12
  | .firmwareLoad => some 13
  | .quote => some 14
  | .toluneDefine => some 15
  | .translationInstall => some 16
  | .traceSet => some 17
  | .comparatorSet => some 18
  | .warpStop => some 19
  | .peerBind => some 20
  | .contextDefine => some 21
  | .contextRelease => some 22
  | .stickyClear => some 23
  | _ => none

/-- The argument bits a command uses: offset, lowest bit, number of bits (R349, R368, R385, R386). -/
def argumentsOf (code : Nat) : List (Nat × Nat × Nat) :=
  match code with
  | 1 => [(8, 0, 4), (16, 0, 64), (24, 0, 64)]
  | 2 => [(8, 0, 4)]
  | 3 => [(8, 0, 4), (16, 0, 64)]
  | 4 => [(8, 0, 3), (8, 8, 1), (16, 0, 64), (24, 0, 5), (32, 0, 64)]
  | 5 => [(8, 0, 6), (8, 8, 2), (8, 16, 1), (12, 0, 16), (16, 0, 64), (24, 0, 5), (32, 0, 64)]
  | 6 => [(8, 0, 48), (16, 0, 32)]
  | 7 => [(8, 0, 57), (16, 0, 64)]
  | 8 => [(8, 0, 48), (16, 0, 64)]
  | 11 => [(8, 0, 8), (8, 8, 4)]
  | 12 => [(8, 0, 64)]
  | 13 | 14 => [(8, 0, 64), (16, 0, 64)]
  | 15 => [(8, 0, 32), (12, 0, 32), (16, 0, 32)]
  | 16 => [(8, 0, 32), (12, 0, 32), (16, 0, 64)]
  | 17 => [(8, 0, 3), (12, 0, 5), (16, 0, 32), (20, 0, 32), (24, 0, 2)]
  | 18 => [(8, 0, 16), (12, 0, 32), (16, 0, 32), (24, 0, 64)]
  | 19 => [(8, 0, 32), (16, 0, 64)]
  | 20 => [(8, 0, 3), (8, 8, 1), (12, 0, 32)]
  | 21 => [(8, 0, 32), (16, 0, 1)]
  | 23 => [(8, 0, 2)]
  | _ => []

/-- The next command has a code, a context that is defined or that command 21 defines, and no bit set without a use; one
for the device names context 0 (R349). -/
structure Commanded (s : State) (code ctx : Nat) (bs : List Byte) : Prop where
  entry : s.commandEntry = some bs
  coded : field bs 0 1 = code
  context : field bs 2 2 = ctx
  args : badArgs bs (argumentsOf code) = false
  device : deviceCommand code = true → ctx = 0
  defined : code = 21 ∨ (s.chip.context ctx).defined = true

/-- The next command is refused: status 2, and a type-5 entry of its context with the reason (R348, R349). -/
def State.commandRefused (s : State) (ctx reason : Nat) : State := (s.endCommand 2).refuseEntry ctx 0 reason s.chead

/-- The fields of a window's descriptor hold (R248, R349). -/
abbrev DescriptorHolds (lo hi : Nat) : Prop :=
  lo % 4096 = 0 ∧ lo < 2 ^ 30 ∧ hi / 2 ^ 44 = 0 ∧ hi / 2 ^ 37 % 4 = 0 ∧ hi % 2 ^ 32 % 4096 = 0 ∧ hi % 2 ^ 32 ≠ 0 ∧
    hi % 2 ^ 32 ≤ 2 ^ 28 ∧ lo / 2 ^ 28 = (lo + hi % 2 ^ 32 - 1) / 2 ^ 28

/-- A context changed. -/
def State.setContext (s : State) (ctx : Nat) (f : Context → Context) : State :=
  { s with chip := { s.chip with contexts := Sparse.put s.chip.contexts ctx (f (s.chip.context ctx)) } }

/-- What a reset leaves of a machine: the fuses but for the leaf counts, board flash, the world outside and the plan of the
model stay, the flashed firmware runs, and all else is as after reset (R333, R335, R348, R354). -/
def AfterReset (s t : State) : Prop :=
  t.revoked = s.revoked ∧ t.serial = s.serial ∧ t.flashed = s.flashed ∧ t.firmware = s.flashed ∧ t.host = s.host ∧
    t.peers = s.peers ∧ t.main = Ram.empty ∧ t.frozen = false ∧ t.slipwayFenced = false ∧ t.queues = [] ∧ t.binds = [] ∧
    t.activation = none ∧ t.outbox = [] ∧ t.replies = [] ∧ t.errorLog = [] ∧ t.corrected = 0 ∧ t.tlb = [] ∧ t.regBlock.ready = false ∧ t.regBlock.written = 0 ∧ t.chead = 0 ∧
    t.chip = { Chip.reset with choices := s.chip.choices, freeCount := s.chip.freeCount }


/-! ## The whole machine -/

/-- A memory with its marks is in its canonical form: its bytes, and its marked words rising. -/
abbrev Ram.wf (r : Ram) : Prop := r.bytes.wf ∧ r.marks.Pairwise (· < ·)

/-- Every memory of the machine is in its canonical form, poison marks included: main memory, the scratchpad, the spill
store, the shared memories of the blocks, the shadow lines of the launches, the memories of the peers, and host memory. -/
def State.MemoriesCanonical (s : State) : Prop :=
  s.main.wf ∧ s.chip.scratch.wf ∧ s.chip.spill.wf ∧ (∀ e ∈ s.chip.blocks, e.2.shared.wf) ∧
    (∀ e ∈ s.chip.launches, ∀ x ∈ e.2.shadowLines, x.2.wf) ∧ (∀ e ∈ s.peers, e.2.wf) ∧ ∀ e ∈ s.host, e.2.wf

/-- The Mould bank of a run has no slot that could claim its word (R320, R325). -/
def Unclaimed (s : State) (w rid : Nat) : Prop := (s.chip.bankOf (s.run w rid).bank).slots = []

/-- The bytes of a word in memory as a warp fetches them, each with its poison. -/
def State.fetched (s : State) (w : Nat) (a : Word) : List (Byte × Bool) :=
  (List.range 4).map fun k => s.chip.readByte (s.warp w).context (s.warp w).launch (s.warp w).block (a + BitVec.ofNat 32 k)

/-- The next word of a run, in the order of R320, decodes to i: it stands in the loop buffer of a stray's run or can be
fetched from memory, no substitution or routine of the Mould is in progress, and the Mould claims nothing (R45, R148). -/
def NextIs (s : State) (w rid : Nat) (i : Instr) (word : Word) : Prop :=
  ∃ x, Sparse.find (s.warp w).runs rid = some x ∧ x.icWait = false ∧ x.subst = [] ∧ x.emul = none ∧ Unclaimed s w rid ∧
    (let y := x.buffer[(x.pc - x.entry).toNat / 4]?
    let m := BitVec.ofNat 32 (numOfBytes ((s.fetched w x.pc).map (·.1)))
    word = y.getD (if x.tolune then toluneOrder m else m) ∧
      (y = none → s.chip.check w .fetch true true x.pc 4 = none ∧ ∀ b ∈ s.fetched w x.pc, b.2 = false)) ∧
    decodeOrdered x.tolune word = .ok i

/-- The machine with a word noted in its run and in focus. -/
def State.noted (s : State) (w rid : Nat) (word : Word) : State :=
  { s with focus := some (w, rid), chip := s.chip.modWarp w fun wp => wp.modRun rid fun r => r.note word }

/-- A lane's access that R254 does not allow: misaligned for its unit, or turned away by its window. -/
def Violates (s : State) (w rid l : Nat) (i : Instr) (need : Need) (reads : Bool) (unit : Nat) : Prop :=
  ∃ x n r wr, laneAccess (s.warp w) (s.run w rid) (s.thread w l) i = some (x, n, r, wr) ∧
    (x.toNat % unit ≠ 0 ∨ (s.chip.check w need reads true x n).isSome)

/-- A word of memory that the Mould or a fetch meets next: the run can issue, no substitution or routine is in progress,
and no loop buffer holds it (R45, R148). -/
def FetchesAt (s : State) (w rid : Nat) (x : Run) : Prop :=
  Sparse.find (s.warp w).runs rid = some x ∧ x.icWait = false ∧ x.subst = [] ∧ x.emul = none

/-- A slot of the Mould claims the next word y of a run, and no comparator halts it first (R320, R321, R383). -/
def Claims (s : State) (w rid : Nat) (x : Run) (y : Word) (m : MouldSlot) : Prop :=
  FetchesAt s w rid x ∧ s.chip.nextWord w rid = .word y ∧ s.chip.wordSlot w rid y = some m ∧ s.chip.nativeMatch w rid = none

end Sys2Proof.Machine
end

