-- ==== Sys2Proof/Certificates/Slice0/Obligations.lean ====
section
/-!
DEFINITION. The statements for the provers, in the terms of Sys2Proof/Safety.lean. Each says of an instruction or of an
event when it completes and everything its execution changes; a rule of the spec is cited with each.
-/

open Sys2Proof Sys2Proof.Machine

/-! ## Encoding -/

/-- R26, R29 to R48: a well-formed native instruction has a word, and the word decodes to it, whatever its operands are.
-/
def Obligations.NativeRoundTrip : Prop :=
  ∀ i : Instr, i.wf = true → ∃ w, encode i = some w ∧ decodeNative w = .ok i

/-- R49 to R51: a well-formed Tolune instruction has four bytes, and they decode to it. -/
def Obligations.ToluneRoundTrip : Prop :=
  ∀ i : Instr, i.wfTolune = true → ∃ w, encodeTolune i = some w ∧ decodeTolune w = .ok i

/-- R26, R43 to R46: a word that decodes is the one encoding of a well-formed instruction, so that no two words stand
for the same instruction and no reserved bit is passed over. -/
def Obligations.NoBitIsDropped : Prop :=
  (∀ w i, decodeNative w = .ok i → i.wf = true ∧ encode i = some w) ∧
  ∀ w i, decodeTolune w = .ok i → i.wfTolune = true ∧ encodeTolune i = some w

/-- R26 to R31, R33, R49, R86: words written out from the encodings of the spec decode to the instructions they stand
for, a word of a reserved opcode and one with a reserved bit set to none. -/
def Obligations.SampleWords : Prop :=
  decodeNative (0x18#8 ++ 5#7 ++ 6#7 ++ 7#7 ++ 3#3) = .ok (.add 5 6 7 3) ∧
    decodeNative (0x3E#8 ++ 5#7 ++ 6#7 ++ 0x7F#7 ++ 0#3) = .ok (.addi 5 6 (-1) 0) ∧
    decodeNative (0x02#8 ++ 0x48D1#21 ++ 0#3) = .ok (.ext 0x48D1) ∧
    decodeNative (0x45#8 ++ 9#7 ++ 0x1678#14 ++ 0#3) = .ok (.movi 9 0x1678 0) ∧
    decodeNative (0x01#8 ++ 127#7 ++ 4#7 ++ 119#7 ++ 3#3) = .ok (.runt 127 4 119 3) ∧
    decodeNative (0x03#8 ++ 0x1FFFFF#21 ++ 1#3) = .ok (.bra (-1) 1) ∧
    decodeNative (0x04#8 ++ 3#7 ++ 0x2000#14 ++ 0#3) = .ok (.bnz 3 (-8192) 0) ∧
    decodeNative (0x0A#8 ++ 15#7 ++ 1#14 ++ 0#3) = .ok (.call 15 1 0) ∧
    decodeNative (0x50#8 ++ 1#7 ++ 2#7 ++ 3#7 ++ 7#3) = .ok (.fadd 1 2 3 7) ∧
    decodeNative (0x64#8 ++ 2#7 ++ 4#7 ++ 6#7 ++ 0#3) = .ok (.dadd 2 4 6 0) ∧
    decodeNative (0x84#8 ++ 8#7 ++ 9#7 ++ 0x40#7 ++ 2#3) = .ok (.ldw 8 9 (-64) 2) ∧
    decodeNative (0x8D#8 ++ 8#7 ++ 9#7 ++ 10#4 ++ 2#2 ++ 1#1 ++ 0#3) = .ok (.sto 8 9 10 2 1 0) ∧
    decodeNative (0x9B#8 ++ 0#14 ++ 3#4 ++ 1#2 ++ 0#1 ++ 4#3) = .ok (.fence 3 1 4) ∧
    decodeNative (0xA7#8 ++ 1#7 ++ 2#7 ++ 0#3 ++ 1#1 ++ 5#3 ++ 0#3) = .ok (.scni 1 2 1 5 0) ∧
    decodeNative (0xB0#8 ++ 119#7 ++ 0#14 ++ 6#3) = .ok (.dsp 119 6) ∧
    decodeNative (0xC5#8 ++ 16#7 ++ 6#7 ++ 0#4 ++ 1#1 ++ 3#2 ++ 0#3) = .ok (.drn 16 6 1 3 0) ∧
    decodeNative (0xD3#8 ++ 4#7 ++ 15#7 ++ 0#7 ++ 0#3) = .ok (.rwait 4 15 0) ∧
    decodeNative (0xE0#8 ++ 4#7 ++ 0#7 ++ 19#7 ++ 0#3) = .ok (.srd 4 19 0) ∧
    decodeNative 0x4512B3C0 = .ok (.movi 9 0x1678 0) ∧ decodeTolune 0x07060518 = .ok (.add 5 6 7 0) ∧
    (∀ i, decodeNative 0xFF000000 ≠ .ok i) ∧ ∀ i, decodeNative (0xB0#8 ++ 119#7 ++ 1#14 ++ 6#3) ≠ .ok i

/-! ## The step, reset, and the whole machine -/

/-- R41, R45, R148, R149, R162: where the next thing to happen is the word of a gang's run, no promoted stray takes the
port's next cycle, and its bytes decode to i, a step executes i, with the word noted in its run, and settles what every
step settles. Where the next thing is an event, a step executes it, and one that chose the word of a stray or of a
Tolune group executes that word too. An event that faults makes the step fault. -/
def Obligations.StepRunsTheDecodedWord : Prop :=
  ∀ (s : State) (rest : List Turn), s.frozen = false → s.powered = true →
    (∀ (w rid : Nat) (i : Instr) (word : Word), s.agenda = .word w rid :: rest → (s.run w rid).stray = false →
      (s.run w rid).tolune = false → ({ s with agenda := rest } : State).heldBack w = false → NextIs s w rid i word →
      step s = settled (exec i (({ s with agenda := rest } : State).noted w rid word))) ∧
    (∀ e : Instr, s.agenda = .event e :: rest →
      (∀ t, exec e { s with agenda := rest, focus := none } = .next t →
        (t.focus = none → step s = settled (.next t)) ∧
        ∀ (w rid : Nat) (i : Instr) (word : Word), t.focus = some (w, rid) → NextIs t w rid i word →
          step s = settled (exec i (t.noted w rid word))) ∧
      ∀ f, exec e { s with agenda := rest, focus := none } = .fault f → step s = .fault f)

/-- The state after reset: nothing bound, launched or queued, no queue defined, every host register 0, no core, channel
or link fenced, no error sticky, context 0 defined alone, no memory listed, the native clock running and the power on.
Log entry 2 names the values among these that the spec does not give: they are the model's choice. -/
def Obligations.ResetState : Prop :=
  let s := State.reset
  s.chip.warps = [] ∧ s.chip.blocks = [] ∧ s.chip.launches = [] ∧ s.chip.jobs = [] ∧ s.queues = [] ∧ s.binds = [] ∧
    s.activation = none ∧ s.tlb = [] ∧ s.errorLog = [] ∧ s.chead = 0 ∧ s.regBlock.ready = false ∧ s.regBlock.ctail = 0 ∧
    s.regBlock.cbase = 0 ∧ s.regBlock.csize = 0 ∧ s.regBlock.cidx = 0 ∧ s.regBlock.casid = 0 ∧ s.regBlock.written = 0 ∧
    s.chip.fencedChannels = [] ∧ s.chip.fencedRqt = [] ∧ s.slipwayFenced = false ∧ s.frozen = false ∧ s.powered = true ∧
    (s.chip.context 0).defined = true ∧ (∀ n, n ≠ 0 → (s.chip.context n).defined = false) ∧
    (∀ n k, ((s.chip.context n).window k).state = .closed) ∧ (∀ n, (s.chip.context n).stickyIe = false ∧ (s.chip.context n).stickyPe = false) ∧
    (∀ k, (s.chip.core k).fenced = false) ∧ (∀ n, (s.towline n).trained = false) ∧ s.main = Ram.empty ∧ s.chip.scratch = Ram.empty ∧
    s.chip.bank = 0 ∧ s.chip.gen = 0

/-- Every step keeps every memory in its canonical form, from any state in which they are: main memory and the
scratchpad with their poison marks, the spill store with its marks, the shared memory of the blocks, the shadow lines of
the launches, the memories of the peers and the memory of the host. -/
def Obligations.MemoriesStayCanonical : Prop :=
  ∀ s t : State, s.MemoriesCanonical → step s = .next t → t.MemoriesCanonical

/-- The memories are in their canonical form after reset. -/
def Obligations.MemoriesCanonicalAtReset : Prop :=
  State.reset.MemoriesCanonical

/-- R333, R335: no step takes a fuse back: the serial number and the revoked keys stay, and the leaves a machine has
used never come again. -/
def Obligations.FusesNeverGoBack : Prop :=
  ∀ s t : State, step s = .next t → t.serial = s.serial ∧ t.revoked = s.revoked ∧
    (s.leafBlocks < t.leafBlocks ∨ (t.leafBlocks = s.leafBlocks ∧ s.leaf ≤ t.leaf))

/-! ## Words that do not issue, and accesses that are not allowed -/

/-- R45 to R47, R150: a word that is illegal where it stands kills its warp, if the Mould claims nothing: every live
thread stops with cause 10, one record of event 7 names the reason, the context's sticky bit is set and no memory
changes. R326: where an event slot claims it, a REDIRECT sends the group to a routine and an ESCALATE parks it on a
record. A word that must wait changes nothing but the time and the counters. R154, R384: a short stall count in
stall-check mode and a comparator's match park the group on a record, to resume at its region entry. R306: a failed
check sends the group back to its region entry with a record of the attempt, the second attempt with a failure for the
Ferryman. R320 to R324: a word that a slot claims parks the group (TRAP), gives way to the template words (REWRITE), or
to a routine of resident code (EMULATE). Which reason a word of several faults has (log entry 113), which source the
stall-check record names (log entry 93), the attempts of a group with different counts (46), where Tolune lanes resume
(90) and what a frame takes of a bound slot (111) are the model's readings. -/
def Obligations.WordsThatDoNotIssue : Prop :=
  (∀ (s : State) (w rid : Nat) (i : Instr), s.focus = some (w, rid) → (encode i).isSome = true →
    (∀ r, gate s.chip w rid i = .illegal r → Unclaimed s w rid → (Sparse.find s.chip.warps w).isSome →
      ∃ t, exec i s = .next t ∧ t = { s with chip := t.chip } ∧ t.chip.scratch = s.chip.scratch ∧
        t.chip.spill = s.chip.spill ∧ (∀ b, (t.chip.block b).shared = (s.chip.block b).shared) ∧
        (∀ l, (t.thread w l).status = if (s.thread w l).status = .live ∧ l < 64 then .killed 10 else (s.thread w l).status) ∧
        (t.warp w).runs = [] ∧ (t.chip.context (s.warp w).context).stickyIe = true ∧
        (∃ e, t.chip.recs = s.chip.recs ++ [e] ∧ e.event = 7 ∧ e.reason = r.code ∧ e.npc = (s.run w rid).npc ∧
          e.num = s.chip.next ∧ e.context = (s.warp w).context) ∧
        ∀ v, v ≠ w → (t.warp v).threads.map (fun e => (e.2.status, e.2.regs)) = (s.warp v).threads.map fun e => (e.2.status, e.2.regs)) ∧
    (∀ r m, gate s.chip w rid i = .illegal r → claimable r = true → s.chip.faultSlot w rid 0 = some m →
      (Sparse.find (s.warp w).runs rid).isSome →
      ∃ t, exec i s = .next t ∧
        (m.action = 3 → RoutineEntered s t w rid m true) ∧
        (m.action ≠ 3 → EventTaken s t w rid (s.lanes w rid) 0 0 m.code 0 ∧
          Parked s t w (s.lanes w rid) fun _ => s.chip.afterTrap w (s.run w rid))) ∧
    (∀ leaf, gate s.chip w rid i = .wait leaf →
      ∃ t, exec i s = .next t ∧ t = { s with chip := { s.chip with cycle := s.chip.cycle + 1, ps := t.chip.ps, cores := t.chip.cores } }) ∧
    (∀ r f n, gate s.chip w rid i = .short r f n →
      ∃ t, exec i s = .next t ∧
        EventTaken s t w rid (s.lanes w rid) 3 0 (BitVec.ofNat 64 (f.npc.toNat + r.toNat % 128 * 2 ^ 32 +
          f.cls % 16 * 2 ^ 40 + min n 15 * 2 ^ 44)) 0 ∧
        Parked s t w (s.lanes w rid) fun l => (s.thread w l).restart (s.run w rid)) ∧
    (∀ kind k, gate s.chip w rid i = .halt kind k →
      ∃ t, exec i s = .next t ∧
        EventTaken s t w rid (s.lanes w rid) 1 0 (BitVec.ofNat 64 ((kind + 1) * 2 ^ 16 + k * 2 ^ 20)) 0 ∧
        Parked s t w (s.lanes w rid) (fun l => (s.thread w l).restart (s.run w rid)) ∧
        ∀ l ∈ s.lanes w rid, (t.thread w l).exempt = some ((s.run w rid).npc, kind * 8 + k)) ∧
    (∀ u, gate s.chip w rid i = .mismatch u →
      let attempt := (s.thread w ((s.lanes w rid).headD 0)).retry + 1
      ∃ t, exec i s = .next t ∧
        EventTaken s t w rid (s.lanes w rid) 6 0
          (BitVec.ofNat 64 (u + 256 * attempt + 65536 * portOf (s.warp w).slot)) 0 ∧
        (∀ l ∈ s.lanes w rid, (t.thread w l).pc = (s.thread w l).restart (s.run w rid) ∧ (t.thread w l).retry = attempt) ∧
        t.chip.failures = s.chip.failures ++ if 2 ≤ attempt then [((s.warp w).core, (s.warp w).launch)] else [])) ∧
  ∀ (s : State) (w rid : Nat) (x : Run) (y : Word) (m : MouldSlot), Claims s w rid x y m →
    let v : State := { s.noted w rid y with focus := s.focus }
    (m.action = 0 →
      ∃ t, issueNext w rid s = .next t ∧ EventTaken v t w rid (s.lanes w rid) 0 0 m.code 0 ∧
        Parked s t w (s.lanes w rid) fun _ => s.chip.afterTrap w x) ∧
    (∀ z zs i, m.action = 1 → m.rewrite y x.tolune = z :: zs → decodeOrdered x.tolune z = .ok i →
      issueNext w rid s = exec i { s with
        focus := some (w, rid)
        chip := s.chip.modWarp w fun wp => wp.modRun rid fun r => { r with
          subst := z :: zs, substFor := some (x.pc, y), body := if x.ext.isSome then x.body - 1 else x.body
          ext := if m.keepExt then x.ext else none, words := z :: (x.note y).words.drop 1 } }) ∧
    (∀ i, m.action = 2 → misplaced x y = none → framePending (s.warp w) x y = false → m.target.toNat < 2 ^ 23 →
      decodeNative ((s.chip.bankOf x.bank).code.getD (m.target.toNat / 4) 0) = .ok i →
      ∃ t, issueNext w rid s = exec i t ∧ RoutineEntered { v with focus := some (w, rid) } t w rid m false)

/-- R254, R66, R301: in a load or a store whose base registers are clean, each lane whose access is misaligned for it or
not allowed by its window is switched off with cause 2: its bit of `fmask` is set, a record of event 8 names it, and it
writes nothing; a store in which every lane is turned away stores nothing. R250: a store to a never-written line of a
tracked window is no violation. R65, R228, R230, R232, R238, R191, R351: a lane whose base, index, condition, count,
link, target, argument or value is poisoned is killed with the cause of that use, and so is one that stores poison to a
staging register or whose voted register of a matrix word is poisoned. R121, R122: a lane whose indirect target is no
`land` word is switched off with cause 4. R45, R162: lanes whose next word cannot be fetched are switched off with cause
1, and their run is gone. That a load does not see the line that only a queued store has written is the model's reading
(log entry 122). -/
def Obligations.AccessViolations : Prop :=
  (∀ (s : State) (w rid : Nat) (i : Instr) (d a : Reg) (n : Nat),
    Ready s w rid i → Plain s w i → Unclaimed s w rid → Clean s w rid [a] →
    (∀ sign aligned drains, loadForm i = some (d, a, n, sign, aligned, drains) → drains = false →
      ∃ t, exec i s = .next t ∧ t = { s with chip := t.chip } ∧ t.chip.scratch = s.chip.scratch ∧
        (t.warp w).storeQ = (s.warp w).storeQ ∧
        ∀ l ∈ s.lanes w rid, Violates s w rid l i .load true (if aligned then n else 1) →
          SwitchedOff s t w l 2 (s.run w rid).npc fun _ => True) ∧
    (∀ aligned, storeForm i = some (d, a, n, aligned) → Clean s w rid [d] →
      (∀ l ∈ s.lanes w rid, Violates s w rid l i .store false (if aligned then n else 1)) →
      ∃ t, exec i s = .next t ∧ t = { s with chip := t.chip } ∧ t.chip.scratch = s.chip.scratch ∧
        (t.warp w).storeQ = (s.warp w).storeQ ∧
        ∀ l ∈ s.lanes w rid, SwitchedOff s t w l 2 (s.run w rid).npc fun _ => True)) ∧
  (∀ (s : State) (w rid : Nat) (i : Instr) (rs : List Reg) (cause : Nat), poisonKills i = some (rs, cause) → Ready s w rid i →
    Plain s w i → Unclaimed s w rid → UsesAllowed s w rid i →
    ∃ t, exec i s = .next t ∧ t = { s with chip := t.chip } ∧
      ∀ l ∈ (if drainsFirst i then (s.chip.drain w).lanesOf w rid else s.lanes w rid),
        (∃ r ∈ rs, ((s.warp w).read (s.run w rid) (s.thread w l) r).p = true) →
        (t.thread w l).status = .killed cause ∧ (t.thread w l).regs = (s.thread w l).regs) ∧
  (∀ (s : State) (w rid : Nat) (i : Instr) (d a : Reg) (n : Nat) (aligned : Bool), storeForm i = some (d, a, n, aligned) →
    Ready s w rid i → Plain s w i → Unclaimed s w rid → Clean s w rid [a] →
    ∃ t, exec i s = .next t ∧ t = { s with chip := t.chip } ∧
      ∀ l ∈ s.lanes w rid, ∀ x r wr, laneAccess (s.warp w) (s.run w rid) (s.thread w l) i = some (x, n, r, wr) →
        stagingStore x n = true → s.chip.check w .store false true x n = none →
        (dataOf (s.warp w) (s.run w rid) (s.thread w l) d n).2 = true →
        (t.thread w l).status = .killed 8 ∧ (t.thread w l).regs = (s.thread w l).regs) ∧
  (∀ (s : State) (w rid : Nat) (i : Instr), votedKills i ≠ [] → Ready s w rid i → Plain s w i → Unclaimed s w rid →
    ∃ t, exec i s = .next t ∧ t = { s with chip := t.chip } ∧
      ∀ l ∈ s.lanes w rid, ∀ r cause,
        (votedKills i).find? (fun x => ((s.warp w).read (s.run w rid) (s.thread w l) x.1).p) = some (r, cause) →
        (t.thread w l).status = .killed cause ∧ (t.thread w l).regs = (s.thread w l).regs) ∧
  (∀ (s : State) (w rid : Nat) (i : Instr) (k a : Reg) (st : Stall), i = .jmpr a st ∨ i = .callr k a st →
    Ready s w rid i → Plain s w i → Unclaimed s w rid →
    ∃ t, exec i s = .next t ∧ t = { s with chip := t.chip } ∧
      ∀ l ∈ s.lanes w rid, ((s.warp w).read (s.run w rid) (s.thread w l) a).p = false →
        s.chip.landAt w (s.thread w l).tolune (s.value w rid l a) = false →
        SwitchedOff s t w l 4 (s.run w rid).npc fun x => x = (s.value w rid l a).setWidth 64) ∧
  ∀ (s : State) (w rid : Nat) (x : Run) (info : Nat), FetchesAt s w rid x →
    x.buffer[(x.pc - x.entry).toNat / 4]? = none →
    (∃ code addr, s.chip.check w .fetch true true x.pc 4 = some (code, addr) ∧ info = addr.toNat + code * 2 ^ 32) ∨
      (s.chip.check w .fetch true true x.pc 4 = none ∧ (∃ b ∈ s.fetched w x.pc, b.2 = true) ∧ info = x.pc.toNat + 2 ^ 48) →
    ∃ t, issueNext w rid s = .next t ∧ t = { s with chip := t.chip } ∧ Sparse.find (t.warp w).runs rid = none ∧
      ∀ l ∈ s.lanes w rid, SwitchedOff s t w l 1 x.npc fun y => y = BitVec.ofNat 64 info

/-- R225, R248, R251: bytes written to local memory lie at the window's base plus their offsets, in a shadow line of the
launch where the window has them, or in block shared memory: each reads back there, from every window that shows the
same place, and every byte at another place reads as before, a line copied to a shadow line included. -/
def Obligations.LocalWrites : Prop :=
  ∀ (c : Chip) (ctx launch blk : Nat) (a : Word) (bs : List Byte) (poison : Bool), windowOf a ≠ 14 →
    offsetOf a + bs.length ≤ 2 ^ 28 → (windowOf a = 15 → (Sparse.find c.blocks blk).isSome) →
    (((c.context ctx).window (windowOf a)).shadow = true → ((c.context ctx).window (windowOf a)).base % 64 = 0) →
    let d := c.writeLocal ctx launch blk a bs poison
    ∀ x : Word, windowOf x ≠ 14 →
      (∀ i < bs.length, d.readsFrom ctx launch x = c.writesTo ctx launch (a + BitVec.ofNat 32 i) →
        (d.readByte ctx launch blk x).1 = bs.getD i 0) ∧
      ((∀ i < bs.length, d.readsFrom ctx launch x ≠ c.writesTo ctx launch (a + BitVec.ofNat 32 i)) →
        (d.readByte ctx launch blk x).1 = (c.readByte ctx launch blk x).1)

/-! ## Words of one lane -/

/-- R75 to R88: each integer word that answers at once writes the result the rules give, poisoned as R71 says, and
changes nothing else. R78, R72: the four divides leave quotient or remainder pending for d, with the fixed results of a
divisor of 0 and of the overflow case, and change nothing else. -/
def Obligations.IntegerWords : Prop :=
  (∀ (s : State) (w rid : Nat) (i : Instr) (f : LaneEffect), intEffect i = some f → Ready s w rid i → Plain s w i →
      ∃ t, exec i s = .next t ∧ OnlyThreads s t w rid ∧ LanesBecome s t w rid (f (s.warp w) (s.run w rid))) ∧
  (∀ (s : State) (w rid : Nat) (i : Instr) (d a b : Reg) (f : Word → Word → Word), divideResult i = some (d, a, b, f) →
      Ready s w rid i → Plain s w i →
      ∃ t, exec i s = .next t ∧ OnlyThreads s t w rid ∧ LanesBecome s t w rid (divideEffect d a b f (s.warp w) (s.run w rid)))

/-- R95, R97, R99 to R112: each floating-point word gives its function of the operands in its rounding mode, adds its
flags to `fflags`, passes poison on, and changes nothing else; division and roots answer later. The approximate
functions of R103 give values the spec leaves free (log entry 6), and the signs of zeros of `fsin` and `fcos` beside the
examples of R103 are the model's reading (121). -/
def Obligations.FloatWords : Prop :=
  ∀ (s : State) (w rid : Nat) (i : Instr) (u : FloatForm), floatForm i = some u → Ready s w rid i → Plain s w i →
    ∃ t, exec i s = .next t ∧ OnlyThreads s t w rid ∧ LanesBecome s t w rid (u.effect (s.warp w) (s.run w rid))

/-- R94: an exact non-zero value m · 2^x is rounded once into each format: to nearest with ties to even, toward zero,
down or up by the mode. -/
def Obligations.RoundingIsCorrect : Prop :=
  ∀ (f : Fmt), f ∈ [f64, f32, f16, bf16] → ∀ (neg : Bool) (m : Nat) (x : Int), m ≠ 0 →
    Nearest f (m * pow2 x) (roundMag f .rne neg m x).1 ∧ Cut f (m * pow2 x) (roundMag f .rtz neg m x).1 ∧
    (if neg then Raised f (m * pow2 x) (roundMag f .rdn neg m x).1 else Cut f (m * pow2 x) (roundMag f .rdn neg m x).1) ∧
    (if neg then Cut f (m * pow2 x) (roundMag f .rup neg m x).1 else Raised f (m * pow2 x) (roundMag f .rup neg m x).1)

/-! ## Transfers and the register window -/

/-- R33, R36, R38, R42, R52: a run goes on after each of its words: four bytes and one body word further, with the
word's temporaries alive, its run-ending mark, an EXT's payload and the stall count for the next, and within a
substitution to the next word of it (R323); all its lanes have stopped or wait where it is gone, but for an instruction
of Tolune code, which leaves its lanes at the next one. R119, R33: `nop` and `land` do nothing, and an EXT gives its
payload to the next word. R52: a Tolune `nop` or `land` moves its lanes to the next instruction and changes nothing
else. R41, R42, R38: the trailer ends the run: its lanes go on at the word after it, or where the run's last word sent
them, with the trailer's flags, their temporaries dead. The machine may choose a merge at it only when one is due
(R156). -/
def Obligations.RunsAdvance : Prop :=
  (∀ (s : State) (w rid : Nat) (i : Instr), (encode i).isSome = true → (∀ d a b f, i ≠ .runt d a b f) → Ready s w rid i →
      Unclaimed s w rid →
      let x := s.run w rid
      ∃ t, exec i s = .next t ∧
        (∀ y, Sparse.find (t.warp w).runs rid = some y → Advanced t i x y) ∧
        (Sparse.find (t.warp w).runs rid = none → (x.tolune = true ∧ x.subst.length ≤ 1) ∨
          ∀ l ∈ s.lanes w rid, (t.thread w l).status ≠ .live ∨ (t.thread w l).waits ≠ []) ∧
        (x.tolune = true → x.subst.length ≤ 1 → Sparse.find (t.warp w).runs rid = none ∧
          (x.ended = false → i.runEnding = false → ∀ l ∈ s.lanes w rid, (t.thread w l).status = .live →
            (∀ r p, .trap r p ∉ (t.thread w l).waits) → (t.thread w l).pc = x.pc + 4))) ∧
  (∀ (s : State) (w rid : Nat) (i : Instr), (∃ st, i = .nop st ∨ i = .land st) ∨ (∃ p, i = .ext p) → Ready s w rid i →
      (s.run w rid).tolune = false →
      ∃ t, exec i s = .next t ∧ OnlyThreads s t w rid ∧ LanesBecome s t w rid (fun _ x => x) ∧
        Advanced t i (s.run w rid) (t.run w rid)) ∧
  (∀ (s : State) (w rid : Nat) (st : Stall) (i : Instr), i = .nop st ∨ i = .land st → Ready s w rid i →
      (s.run w rid).tolune = true → (s.run w rid).subst = [] → (s.run w rid).ended = false →
      ∃ t, exec i s = .next t ∧ OnlyThreads s t w rid ∧ LanesBecome s t w rid (fun _ x => x) ∧
        ∀ l ∈ s.lanes w rid, (t.thread w l).pc = (s.run w rid).pc + 4) ∧
  (∀ (s : State) (w rid : Nat) (d a b : Reg) (f : BitVec 3), Ready s w rid (.runt d a b f) → (s.run w rid).emul = none →
      s.chip.choices = [] →
      ∃ t, exec (.runt d a b f) s = .next t ∧ OnlyThreads s t w rid ∧
        LanesBecome s t w rid (trailerEffect f (s.warp w) (s.run w rid)) ∧ Sparse.find (t.warp w).runs rid = none ∧
        ∀ l ∈ s.lanes w rid, (t.thread w l).pc = (if (s.run w rid).ended then (s.thread w l).pc else (s.run w rid).pc + 4))

/-- R120, R121, R29, R50: a branch sends each lane to its target or to the word after its trailer, by the lane's own
register; `jmpr` sends it to a `land` word; nothing else changes. -/
def Obligations.Branches : Prop :=
  ∀ (s : State) (w rid : Nat) (i : Instr), (branchTo (s.run w rid) 0 i).isSome → Ready s w rid i → Plain s w i →
    Clean s w rid (branchReg i) →
    (∀ a st, i = .jmpr a st → ∀ l ∈ s.lanes w rid, s.chip.landAt w (s.thread w l).tolune (s.value w rid l a) = true) →
    ∃ t, exec i s = .next t ∧ OnlyThreads s t w rid ∧ LanesBecome s t w rid (fun _ x => x) ∧
      ∀ l ∈ s.lanes w rid,
        some (t.thread w l).pc = branchTo (s.run w rid) (s.value w rid l ((branchReg i).headD 0)) i

/-- R122, R60, R51: a call with room in the allotment slides the window, gives the newly named registers 0, leaves the
link in g0 and g1 and sends the lanes to the target; in Tolune no window moves. R60, R61: a call without room first
spills the units that make it; a lane that would spill beyond 32 units is killed with cause 9. R123, R51: a return whose
window is resident slides it back by the link's slide and sends the lanes to the link; R60: one whose window is not
fills the units it lacks first. R123: a link that is no slide of the window is an illegal use, and kills the warp where
the Mould claims nothing, and a lane whose target has a low bit set is switched off with cause 4; that a Tolune link
must be 0 and that one bad link beside poisoned ones kills the warp are the model's choices (log entries 9 and 22).
R125, R60: `wbase` moves the window up, the newly named registers reading 0, with the spills that takes, or down, with
the fills. That poison is spilled for each register is the model's reading (log entry 8). -/
def Obligations.CallsAndReturns : Prop :=
  (∀ (s : State) (w rid : Nat) (k : Reg) (i : Instr), (∃ m st, i = .call k m st) ∨ (∃ a st, i = .callr k a st) →
      Ready s w rid i → Plain s w i →
      ((s.run w rid).tolune = false → ∀ l ∈ s.lanes w rid, (s.thread w l).floor ≤ (s.thread w l).base ∧
        (s.thread w l).base + 8 * k.toNat + window (s.warp w).alloc ≤ (s.thread w l).floor + (s.warp w).alloc) →
      (∀ a st, i = .callr k a st → Clean s w rid [a] ∧
        ∀ l ∈ s.lanes w rid, s.chip.landAt w (s.thread w l).tolune (s.value w rid l a) = true) →
      ∃ t, exec i s = .next t ∧ OnlyThreads s t w rid ∧ LanesBecome s t w rid (callEffect k (s.warp w) (s.run w rid)) ∧
        ∀ l ∈ s.lanes w rid, some (t.thread w l).pc = calleeOf (s.run w rid) (fun a => s.value w rid l a) i) ∧
  (∀ (s : State) (w rid : Nat) (k : Reg) (i : Instr) (n : Nat → Nat),
      (∃ m st, i = .call k m st) ∨ (∃ a st, i = .callr k a st) → Ready s w rid i → Plain s w i →
      (s.run w rid).tolune = false → (∀ l ∈ s.lanes w rid, n l = callSpills (s.warp w) (s.thread w l) k) →
      (∀ a st, i = .callr k a st → Clean s w rid [a] ∧
        ∀ l ∈ s.lanes w rid, s.chip.landAt w (s.thread w l).tolune (s.value w rid l a) = true) →
      ∃ t, exec i s = .next t ∧ t = { s with chip := t.chip } ∧
        (∀ l ∈ s.lanes w rid,
          if n l ≠ 0 ∧ 32 < (s.thread w l).floor / 8 + n l then (t.thread w l).status = .killed 9
          else (t.thread w l).status = .live ∧ some (t.thread w l).pc = calleeOf (s.run w rid) (fun a => s.value w rid l a) i) ∧
        ((∀ l ∈ s.lanes w rid, n l = 0 ∨ (s.thread w l).floor / 8 + n l ≤ 32) →
          t.chip.unspilled = s.chip.unspilled ∧ (∀ v, v ≠ w → t.chip.warp v = s.chip.warp v) ∧
          (t.chip.warp w).rest = (s.chip.warp w).rest ∧ Apart t w rid (s.lanes w rid) s.chip ∧
          LanesBecome s t w rid (fun l x => { callEffect k (s.warp w) (s.run w rid) l x with floor := x.floor + 8 * n l }) ∧
          Spilled s t w rid n)) ∧
  (∀ (s : State) (w rid : Nat) (st : Stall), Ready s w rid (.ret st) → Plain s w (.ret st) → Clean s w rid [0, 1] →
      (∀ l ∈ s.lanes w rid, (s.value w rid l 0).extractLsb' 0 2 = 0 ∧
        (if (s.run w rid).tolune then s.value w rid l 1 = 0
        else 1 ≤ (s.value w rid l 1).toNat ∧ (s.value w rid l 1).toNat ≤ 15 ∧
          (s.thread w l).floor + 8 * (s.value w rid l 1).toNat ≤ (s.thread w l).base)) →
      ∃ t, exec (.ret st) s = .next t ∧ OnlyThreads s t w rid ∧
        LanesBecome s t w rid (returnEffect (s.warp w) (s.run w rid)) ∧
        ∀ l ∈ s.lanes w rid, (t.thread w l).pc = s.value w rid l 0) ∧
  (∀ (s : State) (w rid : Nat) (st : Stall), Ready s w rid (.ret st) → Plain s w (.ret st) → Clean s w rid [0, 1] →
      (s.run w rid).tolune = false →
      (∀ l ∈ s.lanes w rid, (s.value w rid l 0).extractLsb' 0 2 = 0 ∧ 1 ≤ (s.value w rid l 1).toNat ∧
        (s.value w rid l 1).toNat ≤ 15 ∧ 8 * (s.value w rid l 1).toNat ≤ (s.thread w l).base) →
      ∃ t, exec (.ret st) s = .next t ∧ OnlyThreads s t w rid ∧
        LanesBecome s t w rid (fun l x =>
          let b := x.base - 8 * (s.value w rid l 1).toNat
          { repeatTimes ((x.floor - b + 7) / 8) (fillOnce s.chip (s.warp w) l) x with base := b }) ∧
        ∀ l ∈ s.lanes w rid, (t.thread w l).pc = s.value w rid l 0) ∧
  (∀ (s : State) (w rid : Nat) (st : Stall), Ready s w rid (.ret st) → Plain s w (.ret st) → Unclaimed s w rid →
      (∃ l ∈ s.lanes w rid, (∀ r ∈ ([0, 1] : List Reg), ((s.warp w).read (s.run w rid) (s.thread w l) r).p = false) ∧
        (if (s.run w rid).tolune then s.value w rid l 1 ≠ 0
        else (s.value w rid l 1).toNat = 0 ∨ 15 < (s.value w rid l 1).toNat ∨
          (s.thread w l).base < 8 * (s.value w rid l 1).toNat)) →
      ∃ t, exec (.ret st) s = .next t ∧ t = { s with chip := t.chip } ∧ (t.warp w).runs = [] ∧
        (∀ l, (t.thread w l).status =
          if (s.thread w l).status = .live ∧ l < 64 then .killed 10 else (s.thread w l).status) ∧
        ∃ e, t.chip.recs = s.chip.recs ++ [e] ∧ e.event = 7 ∧ e.reason = 9 ∧ e.npc = (s.run w rid).npc) ∧
  (∀ (s : State) (w rid : Nat) (st : Stall), Ready s w rid (.ret st) → Plain s w (.ret st) → Unclaimed s w rid →
      UsesAllowed s w rid (.ret st) →
      ∃ t, exec (.ret st) s = .next t ∧ t = { s with chip := t.chip } ∧
        ∀ l ∈ s.lanes w rid, (∀ r ∈ ([0, 1] : List Reg), ((s.warp w).read (s.run w rid) (s.thread w l) r).p = false) →
          (s.value w rid l 0).toNat % 4 ≠ 0 →
          SwitchedOff s t w l 4 (s.run w rid).npc fun x => x = (s.value w rid l 0).setWidth 64) ∧
  (∀ (s : State) (w rid : Nat) (k : Reg) (st : Stall) (n : Nat → Nat), Ready s w rid (.wbase 0 k st) →
      (∀ l ∈ s.lanes w rid, n l = callSpills (s.warp w) (s.thread w l) k) →
      ∃ t, exec (.wbase 0 k st) s = .next t ∧ t = { s with chip := t.chip } ∧
        (∀ l ∈ s.lanes w rid, (t.thread w l).status =
          if n l ≠ 0 ∧ 32 < (s.thread w l).floor / 8 + n l then .killed 9 else .live) ∧
        ((∀ l ∈ s.lanes w rid, n l = 0 ∨ (s.thread w l).floor / 8 + n l ≤ 32) →
          t.chip.unspilled = s.chip.unspilled ∧ (∀ v, v ≠ w → t.chip.warp v = s.chip.warp v) ∧
          (t.chip.warp w).rest = (s.chip.warp w).rest ∧ Apart t w rid (s.lanes w rid) s.chip ∧
          LanesBecome s t w rid (fun l x =>
            { slideUp (s.warp w) x (x.base + 8 * k.toNat) with floor := x.floor + 8 * n l }) ∧
          Spilled s t w rid n)) ∧
  (∀ (s : State) (w rid : Nat) (k : Reg) (st : Stall), Ready s w rid (.wbase 1 k st) →
      (∀ l ∈ s.lanes w rid, 8 * k.toNat ≤ (s.thread w l).base) →
      ∃ t, exec (.wbase 1 k st) s = .next t ∧ OnlyThreads s t w rid ∧
        LanesBecome s t w rid (fun l x =>
          let b := x.base - 8 * k.toNat
          { repeatTimes ((x.floor - b + 7) / 8) (fillOnce s.chip (s.warp w) l) x with base := b })) ∧
  (∀ (s : State) (w rid : Nat) (d k : Reg) (st : Stall), d = 0 ∨ d = 1 → Ready s w rid (.wbase d k st) →
      Plain s w (.wbase d k st) →
      (∀ l ∈ s.lanes w rid, (s.thread w l).floor ≤ (s.thread w l).base ∧
        (if d = 1 then (s.thread w l).floor + 8 * k.toNat ≤ (s.thread w l).base
        else (s.thread w l).base + 8 * k.toNat + window (s.warp w).alloc ≤ (s.thread w l).floor + (s.warp w).alloc)) →
      ∃ t, exec (.wbase d k st) s = .next t ∧ OnlyThreads s t w rid ∧
        LanesBecome s t w rid fun _ x =>
          if d = 1 then { x with base := x.base - 8 * k.toNat } else slideUp (s.warp w) x (x.base + 8 * k.toNat))

/-- R182, R61: `wspl` writes the units from the floor up to the spill window, poison included, and raises the floor;
registers, every other spilled unit and all else stay; a lane that would spill beyond 32 units is killed with cause 9,
its registers as they were. That poison is kept for each register is the model's reading (log entry 8). R182, R61:
`wfil` gives the units below the floor back to their registers, poison included, and lowers the floor. -/
def Obligations.SpillAndFill : Prop :=
  (∀ (s : State) (w rid : Nat) (k : Reg) (st : Stall) (n : Nat → Nat), Ready s w rid (.wspl k st) →
      (∀ l ∈ s.lanes w rid,
        n l = (if k = 0 then ((s.thread w l).base - (s.thread w l).floor) / 8 else k.toNat) ∧
        (s.thread w l).floor + 8 * n l ≤ (s.thread w l).base ∧ (s.thread w l).floor / 8 + n l ≤ 32) →
      ∃ t, exec (.wspl k st) s = .next t ∧ t = { s with chip := t.chip } ∧ t.chip.unspilled = s.chip.unspilled ∧
        (∀ v, v ≠ w → t.chip.warp v = s.chip.warp v) ∧ (t.chip.warp w).rest = (s.chip.warp w).rest ∧
        Apart t w rid (s.lanes w rid) s.chip ∧
        LanesBecome s t w rid (fun l x => { x with floor := x.floor + 8 * n l }) ∧
        Spilled s t w rid n) ∧
  (∀ (s : State) (w rid : Nat) (k : Reg) (st : Stall) (n : Nat → Nat), Ready s w rid (.wspl k st) →
      (∀ l ∈ s.lanes w rid,
        n l = (if k = 0 then ((s.thread w l).base - (s.thread w l).floor) / 8 else k.toNat) ∧
        (s.thread w l).floor + 8 * n l ≤ (s.thread w l).base) →
      ∃ t, exec (.wspl k st) s = .next t ∧ t = { s with chip := t.chip } ∧ t.chip.scratch = s.chip.scratch ∧
        ∀ l ∈ s.lanes w rid,
          (t.thread w l).status = (if n l ≠ 0 ∧ 32 < (s.thread w l).floor / 8 + n l then .killed 9 else .live) ∧
          (t.thread w l).regs = (s.thread w l).regs) ∧
  (∀ (s : State) (w rid : Nat) (k : Reg) (st : Stall) (n : Nat → Nat), Ready s w rid (.wfil k st) →
      (∀ l ∈ s.lanes w rid, n l = (if k = 0 then (s.thread w l).floor / 8 else k.toNat) ∧ 8 * n l ≤ (s.thread w l).floor ∧
        (s.thread w l).base + window (s.warp w).alloc + 8 * n l ≤ (s.warp w).alloc + (s.thread w l).floor) →
      ∃ t, exec (.wfil k st) s = .next t ∧ OnlyThreads s t w rid ∧
        LanesBecome s t w rid fun l x => repeatTimes (n l) (fillOnce s.chip (s.warp w) l) x)

/-- R126: `rget` copies the register its index names, and `rput` leaves a write of it pending. -/
def Obligations.IndexedRegisters : Prop :=
  ∀ (s : State) (w rid : Nat) (d a : Reg) (st : Stall) (i : Instr), i = .rget d a st ∨ i = .rput d a st →
    Ready s w rid i → Plain s w i → Clean s w rid [a] →
    (∀ l ∈ s.lanes w rid, (s.value w rid l a).toNat <
      (if (s.run w rid).tolune then (s.warp w).alloc else window (s.warp w).alloc)) →
    ∃ t, exec i s = .next t ∧ OnlyThreads s t w rid ∧
      LanesBecome s t w rid fun l x =>
        let r : Reg := BitVec.ofNat 8 (s.value w rid l a).toNat
        match i with
        | .rget _ _ _ => (s.warp w).write (s.run w rid) x d ((s.warp w).read (s.run w rid) x r)
        | _ => x.await .rput [((s.warp w).cellIn (s.run w rid) x r, (s.warp w).read (s.run w rid) x d)] 0

/-! ## Joins, ends and events -/

/-- R115: `jpt` puts an entry with the group's lanes and its target on top of the join stack. R117: `rejoin` lets each
lane arrive at the innermost entry that holds it and names this address, leaving the masks of the entries above; a lane
with no such entry goes on. -/
def Obligations.JoinWords : Prop :=
  (∀ (s : State) (w rid : Nat) (m : Imm21) (st : Stall), Ready s w rid (.jpt m st) → (s.warp w).joins.length < 256 →
      ∃ t, exec (.jpt m st) s = .next t ∧
        Becomes s t w rid (({ s.chip with next := s.chip.next + 1 } : Chip).modWarp w fun wp => { wp with
          joins := ⟨s.chip.next, jumpTarget (s.run w rid) m, maskOf (s.lanes w rid), 0⟩ :: wp.joins }) ∧
        (t.warp w).joins.head? = some ⟨s.chip.next, jumpTarget (s.run w rid) m, maskOf (s.lanes w rid), 0⟩) ∧
  (∀ (s : State) (w rid : Nat) (st : Stall), Ready s w rid (.rejoin st) → (s.run w rid).tolune = false →
      ∃ t, exec (.rejoin st) s = .next t ∧
        Becomes s t w rid (s.chip.modWarp w fun wp => { wp with
          joins := (s.lanes w rid).foldl (fun js l =>
            match innermost js l (s.run w rid).pc with
            | some e => arrive e.num l js
            | none => js) wp.joins }) ∧
        ∀ l ∈ s.lanes w rid, (t.thread w l).pc = (s.run w rid).after)

/-- R113: the join key of a thread is its native PC and, in position mode, its guest position; two keys are equal only
when both parts are, and a thread in position mode never shares the key of a thread in another mode. -/
def Obligations.JoinKeys : Prop :=
  (∀ t : Thread, t.gmode = 0 ∨ t.gmode = 2 → t.key = (t.pc, none)) ∧
    (∀ t : Thread, t.gmode = 1 → t.key = (t.pc, some (t.gcb + t.gpc))) ∧
    (∀ t u : Thread, t.key = u.key ↔ t.key.1 = u.key.1 ∧ t.key.2 = u.key.2) ∧
    ∀ t u : Thread, t.gmode = 1 → u.gmode ≠ 1 → t.key ≠ u.key

/-- R127, R66: `exit` ends the group's threads with cause 0, counts them in the block, and leaves their registers,
memory and every other thread as they are. R128, R351: `svc` asks for a service with its code and lanes, and the lanes
wait for the reply. R128, R295, R296, R299: `trap` takes event 0 and `brk` event 1: one record names the group with the
code in info0, the temporaries die, and the lanes wait for a reply that resumes them after the trailer. -/
def Obligations.EndsAndTrapWords : Prop :=
  (∀ (s : State) (w rid : Nat) (st : Stall), Ready s w rid (.exit st) → (Sparse.find s.chip.blocks (s.warp w).block).isSome →
      ∃ t, exec (.exit st) s = .next t ∧ t = { s with chip := t.chip } ∧
        ({ t.chip.rest with blocks := [] } : Chip) = { s.chip.rest with blocks := [] } ∧
        ({ t.chip.block (s.warp w).block with bars := [] } : Block) = { s.chip.block (s.warp w).block with
          exited := (s.chip.block (s.warp w).block).exited + (s.lanes w rid).length, bars := [] } ∧
        (∀ b, b ≠ (s.warp w).block → t.chip.block b = s.chip.block b) ∧
        (∀ v, v ≠ w → (t.chip.warp v).rest = (s.chip.warp v).rest ∧ (t.chip.warp v).runs = (s.chip.warp v).runs ∧
          (t.chip.warp v).joins = (s.chip.warp v).joins ∧ ∀ l, (t.thread v l).arch = (s.thread v l).arch ∧
            (t.thread v l).pc = (s.thread v l).pc ∧ (t.thread v l).waits.Sublist (s.thread v l).waits) ∧
        (t.chip.warp w).rest = (s.chip.warp w).rest ∧
        Apart t w rid (s.lanes w rid) (s.chip.modWarp w fun wp => { wp with joins := wp.joins.map fun e =>
          { e with mask := e.mask &&& ~~~maskOf (s.lanes w rid), arrived := e.arrived &&& ~~~maskOf (s.lanes w rid) } }) ∧
        LanesBecome s t w rid fun _ x => { x with status := .exited, pend := [] }) ∧
  (∀ (s : State) (w rid : Nat) (m : Imm14) (st : Stall), Ready s w rid (.svc m st) → Plain s w (.svc m st) →
      Clean s w rid (regs 0 8) →
      ∃ t, exec (.svc m st) s = .next t ∧
        Becomes s t w rid { s.chip with
          next := s.chip.next + 1
          services := s.chip.services ++ [{
            num := s.chip.next, context := (s.warp w).context, warp := w, core := (s.warp w).core, wslot := (s.warp w).slot, code := m.toNat, npc := (s.run w rid).npc
            launch := (s.warp w).launch, lanes := maskOf (s.lanes w rid), seq := none, unbound := false, replied := false
            writes := [], at' := t.chip.ns }] } ∧
        ∀ l ∈ s.lanes w rid, .service s.chip.next ∈ (t.thread w l).waits) ∧
  (∀ (s : State) (w rid : Nat) (m : Imm14) (st : Stall) (i : Instr) (event : Nat),
      (i = .trap m st ∧ event = 0) ∨ (i = .brk m st ∧ event = 1) → Ready s w rid i →
      ∃ t, exec i s = .next t ∧
        Becomes s t w rid (((s.asIssued t w).post ((s.asIssued t w).record w (s.lanes w rid) (s.run w rid).npc (s.run w rid).raw
          event 0 (m.setWidth 64) 0 0)).modWarp w fun wp => wp.mapLanes (s.lanes w rid) fun _ x => clearTemps x) ∧
        ∀ l ∈ s.lanes w rid, .trap s.chip.next (s.run w rid).after ∈ (t.thread w l).waits)

/-- R129: each lane of a `spinw` reads its word; a value that differs from b goes to d, and a lane whose word equals b
parks. A lane whose word in memory is poisoned is killed with cause 6 (R65). That d is written in the step of the read
that differs, and that a poisoned value stops its lane there, is the model's reading (log entry 20). -/
def Obligations.SpinWord : Prop :=
  (∀ (s : State) (w rid : Nat) (d a b : Reg) (st : Stall), Ready s w rid (.spinw d a b st) → Plain s w (.spinw d a b st) →
    Clean s w rid [a] →
    (∀ l ∈ s.lanes w rid, (s.value w rid l a).toNat % 4 = 0 ∧ s.chip.check w .load true true (s.value w rid l a) 4 = none ∧
      (s.chip.loadBytes w (s.value w rid l a) 4).2 = false) →
    ∃ t, exec (.spinw d a b st) s = .next t ∧ OnlyThreads s t w rid ∧
      LanesBecome s t w rid (fun l x =>
        let y : Word := BitVec.ofNat 32 (numOfBytes (s.chip.loadBytes w (s.value w rid l a) 4).1)
        if y = s.value w rid l b then x else (s.warp w).write (s.run w rid) x d ⟨y, false⟩) ∧
      ∀ l ∈ s.lanes w rid, numOfBytes (s.chip.loadBytes w (s.value w rid l a) 4).1 = (s.value w rid l b).toNat →
        .spin (s.value w rid l a) (s.value w rid l b) ((s.warp w).cellIn (s.run w rid) (s.thread w l) d)
          (s.run w rid).npc (s.run w rid).raw ∈ (t.thread w l).waits) ∧
  ∀ (s : State) (w rid : Nat) (d a b : Reg) (st : Stall), Ready s w rid (.spinw d a b st) → Plain s w (.spinw d a b st) →
    Unclaimed s w rid →
    ∃ t, exec (.spinw d a b st) s = .next t ∧ t = { s with chip := t.chip } ∧ t.chip.scratch = s.chip.scratch ∧
      ∀ l ∈ s.lanes w rid, ((s.warp w).read (s.run w rid) (s.thread w l) a).p = false →
        (s.value w rid l a).toNat % 4 = 0 → s.chip.check w .load true true (s.value w rid l a) 4 = none →
        (s.chip.loadBytes w (s.value w rid l a) 4).2 = true →
        (t.thread w l).status = .killed 6 ∧ (t.thread w l).regs = (s.thread w l).regs

/-- R136, R137: with a guest trap entry that is `land`, `gtrap` gives each lane its record in g0 to g3 and sends it
there; without an entry each lane parks on a record of event 2 of its own, to go on after the word. R131, R130: a `dsp`
reads each lane's opcode byte and handler entry and sets `gop` and `glen`; a lane with an entry of kind 0 goes to the
handler, a `land` word, once its reads are complete; a lane with another kind takes the guest trap of that kind, to the
guest trap entry or, without one, to the host. R135: `gadv` advances `gpc` by its count, or by `glen` for a count of 0;
`gjmp` and `gjrel` set it from a register. -/
def Obligations.GuestLevel : Prop :=
  (∀ (s : State) (w rid : Nat) (m : Imm14) (st : Stall), Ready s w rid (.gtrap m st) → Plain s w (.gtrap m st) →
      ((s.chip.launch (s.warp w).launch).header.gtrap ≠ 0 →
        s.chip.landAt w (s.run w rid).tolune (s.chip.launch (s.warp w).launch).header.gtrap = true →
        ∃ t, exec (.gtrap m st) s = .next t ∧ OnlyThreads s t w rid ∧
          LanesBecome s t w rid (guestTrapEffect 4 m.toNat (s.warp w) (s.run w rid)) ∧
          ∀ l ∈ s.lanes w rid, (t.thread w l).pc = (s.chip.launch (s.warp w).launch).header.gtrap) ∧
      ((s.chip.launch (s.warp w).launch).header.gtrap = 0 →
        ∃ t, exec (.gtrap m st) s = .next t ∧
          Becomes s t w rid ((s.asIssued t w).eachLane w rid fun l c =>
            (c.post (c.record w [l] (s.run w rid).npc (s.run w rid).raw 2 0 ((s.thread w l).gcb ++ (s.thread w l).gpc)
              ((guestTrapWord (s.thread w l).gop 4 m.toNat).setWidth 64) 0)).modWarp w fun wp =>
                wp.modThread l clearTemps) ∧
          ∀ l ∈ s.lanes w rid, GuestParked s t w rid l)) ∧
  (∀ (s : State) (w rid : Nat) (k : Reg) (st : Stall) (op : Nat → BitVec 8) (e : Nat → Dword),
      Ready s w rid (.dsp k st) → Plain s w (.dsp k st) →
      (∀ l ∈ s.lanes w rid, s.chip.dispatchRead w (s.thread w l) = .ok (op l, e l)) →
      (∀ l ∈ s.lanes w rid, entryKind (e l) = 0 → s.chip.landAt w (s.run w rid).tolune (loHalf (e l)) = true) →
      ((∀ l ∈ s.lanes w rid, entryKind (e l) ≠ 0 → (s.chip.launch (s.warp w).launch).header.gtrap ≠ 0 ∧
          s.chip.landAt w (s.run w rid).tolune (s.chip.launch (s.warp w).launch).header.gtrap = true) →
        ∃ t, exec (.dsp k st) s = .next t ∧ OnlyThreads s t w rid ∧
          LanesBecome s t w rid (fun l x =>
            let y : Thread := { x with gop := op l, glen := (e l).extractLsb' 36 4 }
            if entryKind (e l) = 0 then y else guestTrapEffect (entryKind (e l)) 0 (s.warp w) (s.run w rid) l y) ∧
          ∀ l ∈ s.lanes w rid,
            (t.thread w l).pc = (if entryKind (e l) = 0 then loHalf (e l)
              else (s.chip.launch (s.warp w).launch).header.gtrap) ∧
            (entryKind (e l) = 0 → .dispatch k.toNat ((s.thread w l).gmode != 0) ∈ (t.thread w l).waits)) ∧
      ((s.chip.launch (s.warp w).launch).header.gtrap = 0 →
        ∃ t, exec (.dsp k st) s = .next t ∧
          Becomes s t w rid (((s.asIssued t w).lanesDo w rid fun _ _ l x =>
              { x with gop := op l, glen := (e l).extractLsb' 36 4 }).eachLane w rid fun l c =>
            if entryKind (e l) = 0 then c
            else (c.post (c.record w [l] (s.run w rid).npc (s.run w rid).raw 2 0 ((s.thread w l).gcb ++ (s.thread w l).gpc)
              ((guestTrapWord (op l) (entryKind (e l)) 0).setWidth 64) 0)).modWarp w fun wp => wp.modThread l clearTemps) ∧
          ∀ l ∈ s.lanes w rid,
            if entryKind (e l) = 0 then (t.thread w l).pc = loHalf (e l) ∧
              .dispatch k.toNat ((s.thread w l).gmode != 0) ∈ (t.thread w l).waits
            else GuestParked s t w rid l)) ∧
  (∀ (s : State) (w rid : Nat) (i : Instr) (f : LaneEffect), guestEffect i = some f → Ready s w rid i → Plain s w i →
      Clean s w rid (guestReg i) →
      ∃ t, exec i s = .next t ∧ OnlyThreads s t w rid ∧ LanesBecome s t w rid (f (s.warp w) (s.run w rid)))

/-! ## Memory words -/

/-- R226, R227, R153: an allowed load leaves the registers it fills pending with what memory holds, the warp's own
earlier stores seen first (R285), and changes nothing else; a sequential `ldo` performs those stores before. R134, R113:
an allowed guest load reads at `gcb` + `gpc` + its displacement with the permission g, and changes nothing else. That a
load reads when it issues, from the warp's queue of stores first, is the model's choice among what R275 to R291 allow
(log entry 5). -/
def Obligations.Loads : Prop :=
  (∀ (s : State) (w rid : Nat) (i : Instr) (d a : Reg) (n : Nat) (sign aligned drains : Bool),
      loadForm i = some (d, a, n, sign, aligned, drains) → Ready s w rid i → Plain s w i →
      Permitted s (if drains then s.chip.drain w else s.chip) w rid i a .load true (if aligned then n else 1) →
      ∃ t, exec i s = .next t ∧
        Becomes s t w rid ((if drains then (s.asIssued t w).drain w else s.asIssued t w).lanesDo w rid
          (loadEffect (if drains then (s.asIssued t w).drain w else s.asIssued t w) w .load d n sign fun wp run x =>
            ((laneAccess wp run x i).map (·.1)).getD 0))) ∧
  (∀ (s : State) (w rid : Nat) (i : Instr) (d : Reg) (m : Imm) (n : Nat) (sign : Bool),
      guestLoadForm i = some (d, m, n, sign) → Ready s w rid i → Plain s w i →
      (∀ l ∈ s.lanes w rid,
        s.chip.check w .guest true true ((s.thread w l).guestAddr + immOperand (s.run w rid) m) n = none) →
      ∃ t, exec i s = .next t ∧ OnlyThreads s t w rid ∧
        LanesBecome s t w rid (loadEffect s.chip w .guest d n sign (fun _ run x => x.guestAddr + immOperand run m)
          (s.warp w) (s.run w rid)))

/-- R226, R227, R238, R285: an allowed store puts each lane's address and bytes, lowest lane first, behind the warp's
earlier stores; memory itself, every register and all else are unchanged until the store is performed. R238, R241: a
lane whose GO finds a staging register unwritten or a card that breaks a rule is switched off with cause 3, judged as
the warp's earlier stores leave the card; that the card is judged at issue is the model's reading (log entry 5). R231,
R281, R285: a release or full `fence` performs every earlier store of the warp; an acquire `fence` does nothing more in
a machine that reads in order. So is the queue of stores; a job of no bytes that GO starts is complete at once (log
entry 28). -/
def Obligations.StoresAndFences : Prop :=
  (∀ (s : State) (w rid : Nat) (i : Instr) (d a : Reg) (n : Nat) (aligned : Bool),
      storeForm i = some (d, a, n, aligned) → Ready s w rid i → Plain s w i →
      Permitted s s.chip w rid i a .store false (if aligned then n else 1) → StagingUse s w rid i d n →
      (∀ l ∈ s.lanes w rid, GoAt s w rid l i n → GoStop s w rid l = none) →
      ∃ t, exec i s = .next t ∧
        Becomes s t w rid (s.chip.modWarp w fun wp => { wp with storeQ := wp.storeQ ++ storesOf wp (s.run w rid) i d n })) ∧
  (∀ (s : State) (w rid : Nat) (i : Instr) (d a : Reg) (n : Nat) (aligned : Bool),
      storeForm i = some (d, a, n, aligned) → Ready s w rid i → Plain s w i → Unclaimed s w rid → Clean s w rid [a] →
      ∃ t, exec i s = .next t ∧ t = { s with chip := t.chip } ∧
        ∀ l ∈ s.lanes w rid, ∀ x : Stop, GoAt s w rid l i n → GoStop s w rid l = some x → x.cause = 3 →
          ((s.chip.drain w).warp w).active (((s.chip.drain w).warp w).run rid) = s.lanes w rid →
          SwitchedOff s t w l 3 (s.run w rid).npc fun y => y = BitVec.ofNat 64 (x.detail * 2 ^ 40)) ∧
  (∀ (s : State) (w rid : Nat) (c : BitVec 4) (o : BitVec 2) (st : Stall), Ready s w rid (.fence c o st) →
      ∃ t, exec (.fence c o st) s = .next t ∧
        Becomes s t w rid (if o = 1 then s.asIssued t w else (s.asIssued t w).drain w))

/-- R228: an allowed integer atomic performs the warp's earlier stores, then acts lane by lane in ascending order:
memory takes f(m, v) and d awaits m. R229, R230: `afxa` adds each lane's value on the cell's grid, `afxr` leaves the
rounded sum pending, `afxz` clears the cell and sets its exponent, each cell 32 bytes in one step. R381: each records
the watched words it touches. That `afxz` reads nothing, and that an atomic follows the warp's earlier stores, are the
model's choices (log entries 11 and 5). -/
def Obligations.Atomics : Prop :=
  (∀ (s : State) (w rid : Nat) (i : Instr) (d a : Reg) (n : Nat) (f : Nat → Nat → Nat → Option Nat),
      atomicForm i = some (d, a, n, f) → Ready s w rid i → Plain s w i →
      Permitted s (s.chip.drain w) w rid i a .atomic true n →
      ∃ t, exec i s = .next t ∧
        Becomes s t w rid (((s.asIssued t w).drain w).eachLane w rid (atomicLaneEffect i d n f w rid))) ∧
  (∀ (s : State) (w rid : Nat) (i : Instr) (d a : Reg),
      (∃ c o z st, i = .afxa d a c o z st) ∨ (∃ c o z st, i = .afxr d a c o z st) ∨ (∃ c o st, i = .afxz d a c o st) →
      Ready s w rid i → Plain s w i →
      Permitted s (s.chip.drain w) w rid i a .atomic (match i with | .afxz _ _ _ _ _ => false | _ => true) 32 →
      ∃ t, exec i s = .next t ∧
        Becomes s t w rid (((s.asIssued t w).drain w).eachLane w rid fun l c =>
          let wp := c.warp w
          let run := wp.run rid
          let x := ((laneAccess wp run (wp.thread l) i).map (·.1)).getD 0
          let m := c.loadBytes w x 32
          let cell := FxCell.ofNum (numOfBytes m.1)
          match i with
          | .afxa d _ _ _ z _ =>
            let v := dataOf wp run (wp.thread l) d (if z = 0 then 4 else 8)
            c.performWrite w l run.npc x (bytesOfNum 32 (if v.2 then cell
              else cell.add ((if z = 0 then f32 else f64).decode (numOfBytes v.1))).toNum) (m.2 || v.2)
          | .afxr d _ _ _ z _ =>
            let n := cell.read (if z = 0 then f32 else f64)
            (c.watchRead w l run.npc x 32).modWarp w fun wp => wp.modThread l fun t => t.await .atomic
              ((wp.cellIn run t d, ⟨BitVec.ofNat 32 n, m.2⟩) ::
                (if z = 0 then [] else [(wp.cellIn run t (d + 1), ⟨BitVec.ofNat 32 (n / 2 ^ 32), m.2⟩)])) 0
          | .afxz d _ _ _ _ =>
            let v := wp.read run (wp.thread l) d
            c.performWrite w l run.npc x
              (bytesOfNum 32 (FxCell.toNum ⟨0, (v.v.extractLsb' 0 16).toInt, false, false, false⟩)) v.p
          | _ => c))

/-- R232: `tinit` writes the sixteen bytes of each lane's counter with the clamped fields, and `tgrab` takes its share
and leaves the first index and the count pending, lane by lane. R234: `dwait` holds the group's next run until each
lane's target is reached, `dpoll` leaves the counter's value pending and `drst` clears it, for a counter allotted to the
block. That `tinit` reads nothing of a tracked line is the model's reading (log entry 11). -/
def Obligations.Counters : Prop :=
  (∀ (s : State) (w rid : Nat) (a b d : Reg) (st : Stall),
      (Ready s w rid (.tinit a b st) → Plain s w (.tinit a b st) → Clean s w rid [a] →
        (∀ l ∈ s.lanes w rid, (s.value w rid l a).toNat % 16 = 0 ∧
          (s.chip.drain w).check w .tundish false true (s.value w rid l a) 16 = none) →
        ∃ t, exec (.tinit a b st) s = .next t ∧
          Becomes s t w rid (((s.asIssued t w).drain w).eachLane w rid fun l c =>
            let r (k : Nat) : Val := (c.warp w).read ((c.warp w).run rid) ((c.warp w).thread l) (b + BitVec.ofNat 8 k)
            let mx := max ((r 3).v.toNat % 2 ^ 16) 1
            let mn := min (max ((r 2).v.toNat % 2 ^ 16) 1) mx
            (c.performWrite w l ((c.warp w).run rid).npc (s.value w rid l a)
              (bytesOfNum 4 0 ++ bytesOfNum 4 (r 0).v.toNat) (r 0).p).performWrite w l ((c.warp w).run rid).npc
              (s.value w rid l a + 8)
              (bytesOfNum 4 (max (r 1).v.toNat 1) ++ bytesOfNum 2 mn ++ bytesOfNum 2 mx) ((r 1).p || (r 2).p || (r 3).p))) ∧
      (Ready s w rid (.tgrab d a st) → Plain s w (.tgrab d a st) → Clean s w rid [a] →
        (∀ l ∈ s.lanes w rid, (s.value w rid l a).toNat % 16 = 0 ∧
          (s.chip.drain w).check w .tundish true true (s.value w rid l a) 16 = none) →
        ∃ t, exec (.tgrab d a st) s = .next t ∧
          Becomes s t w rid (((s.asIssued t w).drain w).eachLane w rid fun l c =>
            let x := s.value w rid l a
            let field (k n : Nat) : Nat := numOfBytes (c.loadBytes w (x + BitVec.ofNat 32 k) n).1
            let p := (c.loadBytes w x 16).2
            let mx := max (field 14 2) 1
            let mn := min (max (field 12 2) 1) mx
            let left := field 4 4 - field 0 4
            let parts := max (field 8 4) 1
            let n := min (min mx (max mn ((left + 2 * parts - 1) / (2 * parts)))) left
            ((c.performWrite w l ((c.warp w).run rid).npc x (bytesOfNum 4 (field 0 4 + n)) p).watchRead w l
              ((c.warp w).run rid).npc (x + 8) 8).modWarp w fun wp => wp.modThread l fun t => t.await .tgrab
                [(wp.cellIn (wp.run rid) t d, ⟨BitVec.ofNat 32 (field 0 4), p⟩),
                  (wp.cellIn (wp.run rid) t (d + 1), ⟨BitVec.ofNat 32 n, p⟩)] 0))) ∧
  (∀ (s : State) (w rid : Nat) (d a : Reg) (st : Stall),
      (Ready s w rid (.dwait d a st) → Plain s w (.dwait d a st) → Clean s w rid [a] →
        d.toNat < (s.chip.block (s.warp w).block).ndc →
        ∃ t, exec (.dwait d a st) s = .next t ∧ OnlyThreads s t w rid ∧ LanesBecome s t w rid (fun _ x => x) ∧
          ∀ l ∈ s.lanes w rid, ∀ k ∈ s.lanes w rid, .counter k d.toNat (s.value w rid k a) ∈
            (if (s.run w rid).tolune then (t.thread w l).waits else (t.run w rid).waits)) ∧
      (Ready s w rid (.dpoll d a st) → Plain s w (.dpoll d a st) → a.toNat < (s.chip.block (s.warp w).block).ndc →
        ∃ t, exec (.dpoll d a st) s = .next t ∧ OnlyThreads s t w rid ∧
          LanesBecome s t w rid fun _ x => x.await .dpoll [((s.warp w).cellIn (s.run w rid) x d,
            ⟨Sparse.get 0 (s.chip.block (s.warp w).block).counters a.toNat, false⟩)] 0) ∧
      (Ready s w rid (.drst d st) → d.toNat < (s.chip.block (s.warp w).block).ndc →
        ∃ t, exec (.drst d st) s = .next t ∧
          Becomes s t w rid (s.chip.modBlock (s.warp w).block fun b => { b with counters := Sparse.put b.counters d.toNat 0 })))

/-- R235, R236: `rwait` awaits the head slot of a ring of the block, known at once when the ring has a filled slot;
`rclm` takes its place among the claimants and the free slots are given in their order; `rcmt` commits the slot its
lowest lane names; `rrel` performs the warp's stores and releases the head slot. A release performs the warp's queue of
stores first (log entry 5). -/
def Obligations.Rings : Prop :=
  ∀ (s : State) (w rid : Nat) (d a : Reg) (st : Stall) (r : Ring) (n : Nat),
    Sparse.find (s.chip.block (s.warp w).block).rings n = some r →
    (a.toNat = n → Ready s w rid (.rwait d a st) → Plain s w (.rwait d a st) →
      ∃ t, exec (.rwait d a st) s = .next t ∧
        Becomes s t w rid (({ s.chip with next := s.chip.next + 1 } : Chip).lanesDo w rid fun wp run _ x =>
          x.await (.ring false (decide (0 < r.filled)) n s.chip.next) [(wp.cellIn run x d, ⟨r.slotAddr r.head, false⟩)] 0)) ∧
    (a.toNat = n → Ready s w rid (.rclm d a st) → Plain s w (.rclm d a st) →
      ∃ t, exec (.rclm d a st) s = .next t ∧
        Becomes s t w rid (((({ s.asIssued t w with next := s.chip.next + 1 } : Chip).lanesDo w rid fun wp run _ x =>
          x.await (.ring true false n s.chip.next) [(wp.cellIn run x d, ⟨0, false⟩)] 0).modRing (s.warp w).block n
            fun r => r.await (.group w s.chip.next t.chip.cycle ((s.warp w).slot * 64 + (s.lanes w rid).headD 0))).settleRing
              (s.warp w).block n)) ∧
    (d.toNat = n → Ready s w rid (.rcmt d a st) → Plain s w (.rcmt d a st) → ∀ k,
      ((s.warp w).read (s.run w rid) (s.thread w ((s.lanes w rid).headD 0)) a).p = false →
      r.slotAt (s.value w rid ((s.lanes w rid).headD 0) a) = some k →
      ∃ t, exec (.rcmt d a st) s = .next t ∧
        Becomes s t w rid ((((s.asIssued t w).drain w).modRing (s.warp w).block n fun r => r.commit k).settleRing
          (s.warp w).block n)) ∧
    (d.toNat = n → Ready s w rid (.rrel d st) →
      ∃ t, exec (.rrel d st) s = .next t ∧
        Becomes s t w rid ((((s.asIssued t w).drain w).modRing (s.warp w).block n Ring.release).settleRing
          (s.warp w).block n))

/-- R237: the lanes of `bar`, `bara` and `barw` arrive together in the open generation after the warp's earlier stores
are performed, and complete it when it is full; `bar` and `barw` hold the group's next run until that generation is
over. That the lanes of one group arrive in one step, all in one generation, with the expected count of its lowest lane,
is the model's reading (log entry 30). -/
def Obligations.Barriers : Prop :=
  ∀ (s : State) (w rid : Nat) (i : Instr) (id : Reg) (count : Option Reg) (waits : Bool),
    (∃ st, i = .bar id st ∧ count = none ∧ waits = true) ∨ (∃ a st, i = .bara a id st ∧ count = some a ∧ waits = false) ∨
      (∃ a st, i = .barw a id st ∧ count = some a ∧ waits = true) →
    Ready s w rid i → Plain s w i → Clean s w rid count.toList →
    ∃ t, exec i s = .next t ∧
      Becomes s t w rid (arriveAt w rid id.toNat count ((s.asIssued t w).drain w)) ∧
      (waits = true → ∀ l ∈ ((s.asIssued t w).drain w).lanesOf w rid,
        Waiting t w rid l (.barrier id.toNat
          (Sparse.get Barrier.fresh (((s.asIssued t w).drain w).block (s.warp w).block).bars id.toNat).gen))

/-! ## Warp-wide words -/

/-- R163 to R165: a collective word adds its lanes and their registers to the open instance at its PC, or opens one with
the member mask, and holds the group's next run until the instance delivers. -/
def Obligations.CollectiveWords : Prop :=
  ∀ (s : State) (w rid : Nat) (i : Instr) (a : Reg) (b : Option Reg) (ds : List Reg), collForm i = some (a, b, ds) →
    Ready s w rid i → Plain s w i →
    match openInstance (s.warp w) (s.run w rid) i with
    | some x =>
      ∃ t, exec i s = .next t ∧
        Becomes s t w rid (s.chip.modWarp w fun wp => { wp with colls := wp.colls.map fun y => if y.num = x.num then
          { y with
            issued := y.issued ||| maskOf (s.lanes w rid), given := y.given ++ contributions wp (s.run w rid) a b
            dest := y.dest ++ collCells wp (s.run w rid) ds } else y }) ∧
        ∀ l ∈ s.lanes w rid, Waiting t w rid l (.collective x.num)
    | none =>
      ∃ t, exec i s = .next t ∧
        Becomes s t w rid (({ s.chip with next := s.chip.next + 1 } : Chip).modWarp w fun wp => { wp with colls := wp.colls ++ [{
          num := s.chip.next, pc := (s.run w rid).pc, raw := (s.run w rid).raw, word := i, members := wp.memb
          issued := maskOf (s.lanes w rid), given := contributions wp (s.run w rid) a b
          dest := collCells wp (s.run w rid) ds }] }) ∧
        ∀ l ∈ s.lanes w rid, Waiting t w rid l (.collective s.chip.next)

/-- R174, R175: `elect` gives 1 to the lowest lane of the group and 0 to the others; `qswz` gives each lane a register
of a lane of its quad, or 0 with the bit of `absent` when that lane is not in the group. -/
def Obligations.GroupLocalWords : Prop :=
  ∀ (s : State) (w rid : Nat) (d a b : Reg) (st : Stall),
    (Ready s w rid (.elect d st) → Plain s w (.elect d st) →
      ∃ t, exec (.elect d st) s = .next t ∧ OnlyThreads s t w rid ∧ (∀ l x, Waiting t w rid l x → Waiting s w rid l x) ∧
        LanesBecome s t w rid fun l x => (s.warp w).write (s.run w rid) x d
          ⟨if ∀ k ∈ s.lanes w rid, l ≤ k then 1 else 0, false⟩) ∧
    (Ready s w rid (.qswz d a b st) → Plain s w (.qswz d a b st) →
      ∃ t, exec (.qswz d a b st) s = .next t ∧ OnlyThreads s t w rid ∧ (∀ l x, Waiting t w rid l x → Waiting s w rid l x) ∧
        LanesBecome s t w rid fun l x =>
          let y := (s.warp w).read (s.run w rid) x b
          let k := l / 4 * 4 + y.v.toNat % 4
          let z := (s.warp w).read (s.run w rid) (s.thread w k) a
          if k ∈ s.lanes w rid then
            { (s.warp w).write (s.run w rid) x d ⟨z.v, z.p || y.p⟩ with absent := x.absent &&& 2 }
          else { (s.warp w).write (s.run w rid) x d ⟨0, y.p⟩ with absent := x.absent ||| 1 })

/-- R176, R177, R179, R180: `sbind` binds a stream by the descriptor of the lowest lane, with every position 0, or
unbinds it; `spos` reads and may set the lane's position; `qbind` binds or unbinds a queue register and keeps its
contents, and each lane's place in them (the model's reading, log entry 117). R178, R180: a word of one lane that names
bound slots takes each lane's next element of a load stream or a load queue in place of a register, 0 beyond a stream's
end, and gives its result to the lane's next element of a store stream, a queued store, or of a store queue; each such
place moves on by one, and the entries of a load queue that every live lane has taken are freed. -/
def Obligations.StreamWords : Prop :=
  (∀ (s : State) (w rid : Nat) (i : Instr) (f : LaneEffect), laneResult i = some f → Ready s w rid i →
    boundIn (s.warp w) (i.reads ++ i.writes) ≠ [] → ElementsAllowed s w rid i →
    let wp := s.warp w
    let run := s.run w rid
    let put := boundIn wp i.writes
    let done (l : Nat) (x : Thread) : Thread := f wp run l (wp.takes (boundIn wp i.reads) l x)
    let value (l slot : Nat) : Val := (done l (s.thread w l)).cellVal (512 + slot)
    ∃ t, exec i s = .next t ∧ t = { s with chip := t.chip } ∧ t.chip.rest = s.chip.rest ∧
      (∀ v, v ≠ w → t.chip.warp v = s.chip.warp v) ∧
      ({ (t.chip.warp w).rest with storeQ := [], queues := [] } : Warp) = { wp.rest with storeQ := [], queues := [] } ∧
      Apart t w rid (s.lanes w rid) s.chip ∧
      LanesBecome s t w rid (fun l x => put.foldl (fun y slot => wp.moved slot y) (done l x)) ∧
      (t.warp w).storeQ = wp.storeQ ++ ((s.lanes w rid).flatMap fun l =>
        put.filterMap fun slot => wp.elementStore run (s.thread w l) l slot (value l slot)) ∧
      ∀ n q, Sparse.find wp.queues n = some q →
        (n < 4 → Sparse.find (t.warp w).queues n = some (q.freed n ((t.warp w).liveLanes.map (t.thread w)))) ∧
        (4 ≤ n → ∃ q', Sparse.find (t.warp w).queues n = some q' ∧ q'.slot = q.slot ∧ q'.first = q.first ∧
          (∀ slot ∈ put, wp.queueAt slot = some (n, q) → wp.streamAt slot = none →
            ∀ l ∈ s.lanes w rid, q'.entry (q.place (s.thread w l) n) l = value l slot) ∧
          ∀ k l, q.first ≤ k → (∀ slot ∈ put, wp.queueAt slot = some (n, q) → wp.streamAt slot = none → l ∈ s.lanes w rid →
              k ≠ max q.first (q.place (s.thread w l) n)) → q'.entry k l = q.entry k l)) ∧
  ∀ (s : State) (w rid : Nat) (n a b d : Reg) (t' : BitVec 1) (m : BitVec 3) (st : Stall),
    (Ready s w rid (.sbind n a b st) → Plain s w (.sbind n a b st) → b ≠ 127 → Clean s w rid (regs a 4) →
      SlotFree (s.warp w) b.toNat (some n.toNat) none →
      let r (k : Nat) : Word := s.value w rid ((s.lanes w rid).headD 0) (a + BitVec.ofNat 8 k)
      goodDescriptor (r 0) (r 2) (r 3) →
      ∃ t, exec (.sbind n a b st) s = .next t ∧
        Becomes s t w rid (({ s.chip with next := s.chip.next + 1 } : Chip).modWarp w fun wp =>
          { (wp.mapLanes (List.range wp.lanes) fun _ x =>
              { x with spos := Sparse.put x.spos n.toNat 0, selem := Sparse.erase x.selem n.toNat }) with
            streams := Sparse.put wp.streams n.toNat ⟨b.toNat, r 0, r 1, (r 2).toNat, r 3, s.chip.next⟩ })) ∧
    (Ready s w rid (.sbind n a 127 st) → Plain s w (.sbind n a 127 st) → (Sparse.find (s.warp w).streams n.toNat).isSome →
      ∃ t, exec (.sbind n a 127 st) s = .next t ∧
        Becomes s t w rid (s.chip.modWarp w fun wp => { wp with streams := Sparse.erase wp.streams n.toNat })) ∧
    (Ready s w rid (.spos d a t' m st) → Plain s w (.spos d a t' m st) → (Sparse.find (s.warp w).streams m.toNat).isSome →
      (t' = 1 → Clean s w rid [a]) →
      ∃ t, exec (.spos d a t' m st) s = .next t ∧ OnlyThreads s t w rid ∧
        LanesBecome s t w rid fun l x =>
          let y := (s.warp w).write (s.run w rid) x d ⟨BitVec.ofNat 32 (Sparse.get 0 x.spos m.toNat), false⟩
          if t' = 1 then { y with
            spos := Sparse.put x.spos m.toNat (s.value w rid l a).toNat, selem := Sparse.erase x.selem m.toNat } else y) ∧
    (Ready s w rid (.qbind n b st) →
      (if b = 127 then (Sparse.get Queue.blank (s.warp w).queues n.toNat).slot.isSome
      else SlotFree (s.warp w) b.toNat none (some n.toNat)) →
      ∃ t, exec (.qbind n b st) s = .next t ∧
        Becomes s t w rid (s.chip.modWarp w fun wp =>
          let q := Sparse.get Queue.blank wp.queues n.toNat
          { wp with queues := Sparse.put wp.queues n.toNat { q with slot := if b = 127 then none else some b.toNat } }))

/-- R187, R191, R200 to R206, R208, R161: a matrix word that passes its votes joins the queue of its core with what it
captured at issue: a product its fragment, and its draw; `bld` and `cbl` the tile and the table they read; `acl` its
registers; `rqt` after the warp's stores are performed, with a job in the hazard unit; `drn` and `mstat` leave their
destinations pending. R191, R296: a product whose votes differ, whose format word is reserved or is no legal
combination, or whose bank is empty or holds another format, takes event 4 or 5 before any effect and parks its group,
to resume at its region entry (in Tolune code at the word, log entry 90). A `bld` whose descriptor is poisoned kills its
lanes; one with a read that its window turns away switches them off with cause 2 and empties its bank in its turn
(R200). That a `bld` reads its tile as it is accepted is the model's reading (log entry 12), and so is the place of the
odd-slot check (log entry 98). A done counter of `rqt` that is not allotted to the block is illegal (log entry 31), and
the slots that `mstat` samples are those that an accepted word reads or writes (log entry 32). -/
def Obligations.MatrixWords : Prop :=
  (∀ (s : State) (w rid : Nat) (i : Instr) (d b : Reg) (event reason : Nat) (info0 info1 : Dword),
    productForm i = some (d, b) → Ready s w rid i → Plain s w i → Clean s w rid [b] →
    ProductTrap s w rid i d b event reason info0 info1 →
    ∃ t, exec i s = .next t ∧ EventTaken s t w rid (s.lanes w rid) event reason info0 info1 ∧
      Parked s t w (s.lanes w rid) fun l => (s.thread w l).restart (s.run w rid)) ∧
  ∀ (s : State) (w rid : Nat) (i : Instr), Ready s w rid i → Plain s w i →
    Clean s w rid ((votedRegs i).map (·.1)) → vote s.chip w rid i = .ok →
    match i with
    | .mma _ _ _ _ | .mmab _ _ _ _ | .mmas _ _ _ _ =>
      ∃ t, exec i s = .next t ∧
        Becomes s t w rid ((s.chip.enqueue w (entryOf s.chip w rid i
          (captured (s.warp w) (s.run w rid) (fragment (s.warp w) (s.run w rid) i)) [] .nothing [] 0)).modWarp w fun wp =>
            { wp with drawProduct := wp.drawProduct + i.drawUnits })
    | .bld _ a b _ =>
      match tileLoadOf s.chip w rid a b with
      | some (load, rows) =>
        ∃ t, exec i s = .next t ∧ Becomes s t w rid (s.chip.enqueue w (entryOf s.chip w rid i [] [] load rows 0))
      | none =>
        let x := votedValue (s.warp w) (s.run w rid) a
        let f := votedValue (s.warp w) (s.run w rid) b
        Unclaimed s w rid →
        ∃ t, exec i s = .next t ∧ t = { s with chip := t.chip } ∧ t.chip.scratch = s.chip.scratch ∧
          (∀ k, k ≠ (s.warp w).core → t.chip.crucible k = s.chip.crucible k) ∧
          (s.chip.readTile w x (fmtB f) (fmtS f) (fmtScl f) = .poisoned →
            t.chip.crucible (s.warp w).core = s.chip.crucible (s.warp w).core ∧
            ∀ l ∈ s.lanes w rid, (t.thread w l).status = .killed 5 ∧ (t.thread w l).regs = (s.thread w l).regs) ∧
          ∀ code addr, s.chip.readTile w x (fmtB f) (fmtS f) (fmtScl f) = .violation (code, addr) →
            t.chip.crucible (s.warp w).core = { s.chip.crucible (s.warp w).core with
              queue := (s.chip.crucible (s.warp w).core).queue ++ [entryOf s.chip w rid i [] [] .failed [] 0] } ∧
            ∀ l ∈ s.lanes w rid, SwitchedOff s t w l 2 (s.run w rid).npc fun y =>
              y = BitVec.ofNat 64 (addr.toNat + code * 2 ^ 32)
    | .cbl _ a _ =>
      let x := votedValue (s.warp w) (s.run w rid) a
      x.toNat % 4 = 0 → s.chip.check w .load true true x 32 = none →
      ∃ t, exec i s = .next t ∧
        Becomes s t w rid (s.chip.enqueue w (entryOf s.chip w rid i [] [] (.table (tableAt s.chip w x)) [] 0))
    | .acl _ a g _ _ =>
      ∃ t, exec i s = .next t ∧
        Becomes s t w rid (s.chip.enqueue w (entryOf s.chip w rid i
          (captured (s.warp w) (s.run w rid) (regs a (if g = 1 then 16 else 8))) [] .nothing [] 0))
    | .acz _ _ _ =>
      ∃ t, exec i s = .next t ∧ Becomes s t w rid (s.chip.enqueue w (entryOf s.chip w rid i [] [] .nothing [] 0))
    | .rqt _ _ _ _ =>
      ∃ t, exec i s = .next t ∧
        let c := (s.asIssued t w).drain w
        let e := entryOf c w rid i [] [] .nothing [] 0
        let d : Chip := { c.enqueue w e with jobs := Sparse.put c.jobs c.next (requantJob c w rid e) }
        let k := c.block (s.warp w).block
        Becomes s t w rid (if c.lanesOf w rid = [] then c
          else if k.status = .stopping ∧ (1, (s.warp w).core) ∉ k.owed then
            d.modBlock (s.warp w).block fun k => { k with owed := k.owed ++ [(1, (s.warp w).core)] }
          else d)
    | .drn d _ g _ _ =>
      let ds := regs d (if g = 1 then 16 else 8)
      ∃ t, exec i s = .next t ∧
        Becomes s t w rid ((s.chip.enqueue w (entryOf s.chip w rid i [] (collCells (s.warp w) (s.run w rid) ds) .nothing []
          (s.chip.crucible (s.warp w).core).sample)).lanesDo w rid fun wp run _ x =>
            x.await .drain (ds.map fun r => (wp.cellIn run x r, ⟨0, false⟩)) 0)
    | .mstat d _ _ =>
      ∃ t, exec i s = .next t ∧
        Becomes s t w rid ((s.chip.enqueue w (entryOf s.chip w rid i [] (collCells (s.warp w) (s.run w rid) [d]) .nothing []
          (s.chip.crucible (s.warp w).core).sample)).lanesDo w rid fun wp run _ x =>
            x.await .mstat [(wp.cellIn run x d, ⟨0, false⟩)] 0)
    | _ => True

/-! ## Special registers and time -/

/-- R375, R63: `srd` gives each lane the entry its selector names. R375, R57, R63: `swr` writes each lane's own entry,
or the warp's entry from the lowest lane, for an entry that can be written. -/
def Obligations.SpecialRegisters : Prop :=
  (∀ (s : State) (w rid : Nat) (d b : Reg) (st : Stall), Ready s w rid (.srd d b st) → Plain s w (.srd d b st) →
      (specialValue s.chip (s.warp w) (s.run w rid) 0 (s.thread w 0) b.toNat).isSome →
      ∃ t, exec (.srd d b st) s = .next t ∧ OnlyThreads s t w rid ∧
        LanesBecome s t w rid fun l x => (s.warp w).write (s.run w rid) x d
          ⟨(specialValue (s.asIssued t w) ((s.asIssued t w).warp w) (s.run w rid) l x b.toNat).getD 0, false⟩) ∧
  (∀ (s : State) (w rid : Nat) (a b : Reg) (st : Stall), Ready s w rid (.swr a b st) → Plain s w (.swr a b st) →
      Clean s w rid [a] →
      (∀ l ∈ s.lanes w rid, (specialWrite b.toNat (s.value w rid l a) (s.thread w l)).isSome) →
      ∃ t, exec (.swr a b st) s = .next t ∧
        Becomes s t w rid ((s.chip.lanesDo w rid fun wp run _ x =>
          (specialWrite b.toNat (wp.read run x a).v x).getD x).modWarp w fun wp =>
            specialWarp b.toNat (s.value w rid ((s.lanes w rid).headD 0) a) wp))

/-- R376, R379, R377, R380: `time` leaves the nanoseconds since reset pending and `pcrd` the counter its register
selects; `tmrk` writes a record of type 1 for each lane when markers are enabled, and nothing otherwise. The turn that
delivers both results is the model's own (log entry 82). -/
def Obligations.TimeAndTraceWords : Prop :=
  ∀ (s : State) (w rid : Nat) (d a : Reg) (m : Imm14) (st : Stall),
    (Ready s w rid (.time d st) → Plain s w (.time d st) →
      ∃ t, exec (.time d st) s = .next t ∧ OnlyThreads s t w rid ∧
        LanesBecome s t w rid fun _ x => x.await .clock
          [((s.warp w).cellIn (s.run w rid) x d, ⟨BitVec.ofNat 32 (t.chip.ps / 1000), false⟩),
            ((s.warp w).cellIn (s.run w rid) x (d + 1), ⟨BitVec.ofNat 32 (t.chip.ps / 1000 / 2 ^ 32), false⟩)] 0) ∧
    (Ready s w rid (.pcrd d a st) → Plain s w (.pcrd d a st) →
      ∃ t, exec (.pcrd d a st) s = .next t ∧ OnlyThreads s t w rid ∧
        LanesBecome s t w rid fun l x =>
          let v := (t.chip.core (s.warp w).core).counter (s.value w rid l a)
          let p := ((s.warp w).read (s.run w rid) x a).p
          x.await .clock [((s.warp w).cellIn (s.run w rid) x d, ⟨loHalf v, p⟩),
            ((s.warp w).cellIn (s.run w rid) x (d + 1), ⟨hiHalf v, p⟩)] 0) ∧
    (Ready s w rid (.tmrk m st) →
      ∃ t, exec (.tmrk m st) s = .next t ∧
        Becomes s t w rid { s.chip with
          traceOut := s.chip.traceOut ++
            (if (s.chip.context (s.warp w).context).trace.getLsbD 0 then (s.lanes w rid).map fun l =>
              ((s.warp w).context, (s.asIssued t w).traceRecord (s.warp w).context 0 1
                (s.chip.launch (s.warp w).launch).ident.toNat (s.thread w l).wid (s.run w rid).npc (s.thread w l).gpc
                (m.setWidth 64) 0 0)
            else []) })

/-! ## Results that arrive -/

/-- R153, R72, R97, R126, R134, R228, R232, R234, R236: a delivery gives a live lane the values of one pending result,
poison included, and its flags; a value for a bound slot goes on to the place that its word took in the stream or the
queue (R178, R180). -/
def Obligations.ResultsArrive : Prop :=
  (∀ (s : State) (i : Instr) (w l n : Nat) (f : PendKind → Bool) (p : Pend), deliveryOf i = some (w, l, n, f) →
    (s.thread w l).status = .live → (s.thread w l).pend[n]? = some p → f p.kind = true →
    exec i s = .next { s with
      chip := (p.cells.filter fun e => latched e.1).foldl (fun c e => c.fillElement w l (e.1 - 512) e.2)
        (s.chip.modWarp w fun wp => wp.modThread l fun t => t.landed p.cells (t.pend.eraseIdx n) p.flags s.chip.cycle) }) ∧
  ∀ (c : Chip) (w l slot : Nat) (v : Val), (Sparse.find c.warps w).isSome →
    let d := c.fillElement w l slot v
    d = { c with warps := d.warps } ∧ (∀ u, u ≠ w → d.warp u = c.warp u) ∧ (c.warp w).comes l slot v (d.warp w) ∧
      d.warp w = { c.warp w with storeQ := (d.warp w).storeQ, queues := (d.warp w).queues }

/-- R155, R285, R238, R178: the oldest store of a warp leaves its queue and takes effect: a plain one and a stream's
element write their bytes, one to a staging register writes JC0 to JC3 with its written bit, and GO with a card and a
footprint that hold submits the job or raises its counter for an empty one. R241: GO with a card that breaks a rule
stops its lane with cause 3; one whose footprint violates a window stops it with cause 2, and its job, which moves
nothing, is complete. The order in which breaches of a card are named is the model's choice (log entry 10). So are the
row starts of no rows (log entry 119), that a job of no bytes claims no ring slot (log entry 28), and that the queue is
performed one store at a time (log entry 5). -/
def Obligations.StoresTakeEffect : Prop :=
  ∀ (s : State) (w : Nat) (x : Store) (r : List Store), (s.warp w).storeQ = x :: r →
    x.due = none →
    let c := s.chip.modWarp w fun wp => { wp with storeQ := r }
    (x.kind = .plain ∨ x.kind = .element →
      ∃ t, exec (.storePerformed w) s = .next t ∧ t = { s with chip := t.chip } ∧
        ({ t.chip with traceOut := s.chip.traceOut } : Chip) =
          c.writeLocal (s.warp w).context (s.warp w).launch (s.warp w).block x.addr x.bytes x.poison ∧
        ((s.chip.context (s.warp w).context).trace.getLsbD 1 = false → t.chip.traceOut = s.chip.traceOut)) ∧
    (x.kind = .staging → ∀ k < 4, x.addr.toNat = 0xFF000000 + 8 * k →
      exec (.stagingRegisterWrite w) s = .next { s with
        chip := c.modWarp w fun wp => wp.modThread x.lane (staged k (BitVec.ofNat 64 (numOfBytes x.bytes))) }) ∧
    let j := c.cardOf w x.lane x.npc x.gpc x.rentry
    let d := c.modWarp w fun wp => wp.modThread x.lane fun t => { t with jcw := 0 }
    (x.kind = .go → (s.thread w x.lane).jcw = 15 → cardFault c j = none → footprintFault c j = none →
      ∃ t, exec (.go w) s = .next t ∧ t = { s with chip := t.chip } ∧
        ({ t.chip with traceOut := s.chip.traceOut } : Chip) =
          if j.rows * j.rowb = 0 then d.raiseCounter (s.warp w).block j.dc
          else { d with jobs := Sparse.put d.jobs s.chip.next j, next := s.chip.next + 1 }) ∧
    (x.kind = .go → (s.thread w x.lane).status = .live → ((s.thread w x.lane).jcw ≠ 15 ∨ (cardFault c j).isSome) →
      ∃ t, exec (.go w) s = .next t ∧ t = { s with chip := t.chip } ∧ (t.thread w x.lane).status = .off 3 ∧
        (t.warp w).storeQ = r ∧ t.chip.jobs = s.chip.jobs ∧ t.chip.scratch = s.chip.scratch ∧
        t.chip.contexts = s.chip.contexts) ∧
    (x.kind = .go → (s.thread w x.lane).status = .live → (s.thread w x.lane).jcw = 15 → cardFault c j = none →
      (footprintFault c j).isSome → (Sparse.find s.chip.blocks (s.warp w).block).isSome →
      ∃ t, exec (.go w) s = .next t ∧ t = { s with chip := t.chip } ∧ (t.thread w x.lane).status = .off 2 ∧
        (t.warp w).storeQ = r ∧ t.chip.jobs = s.chip.jobs ∧ t.chip.scratch = s.chip.scratch ∧
        t.chip.contexts = s.chip.contexts ∧
        Sparse.get 0 (t.chip.block (s.warp w).block).counters j.dc =
          Sparse.get 0 (s.chip.block (s.warp w).block).counters j.dc + 1)

/-- R129, R160, R176: while its block runs on the core, a parked `spinw` reads its word again: a value that still equals
b leaves all as it is, and another one goes to d and ends the wait. An element of a load stream that the lane may read
arrives with its size, sign and poison, once an `rwait` of the lane has its slot (R288). Neither reads bytes that an
earlier element of the warp has yet to give (R285). -/
def Obligations.ParkedReadsAndElements : Prop :=
  ∀ (s : State) (w l : Nat),
    (∀ (a v : Word) (k : Nat) (npc raw : Word), (s.thread w l).status = .live →
      (s.thread w l).waits = [.spin a v k npc raw] → a.toNat % 4 = 0 →
      (s.warp w).offCore = false → (s.chip.block (s.warp w).block).status = .running → (s.warp w).owesIn a 4 = false →
      s.chip.check w .load true true a 4 = none → (s.chip.loadBytes w a 4).2 = false →
      (numOfBytes (s.chip.loadBytes w a 4).1 = v.toNat → exec (.spinwReread w l) s = .next s) ∧
      (numOfBytes (s.chip.loadBytes w a 4).1 ≠ v.toNat → latched k = false → k ≠ 1000 →
        exec (.spinwReread w l) s = .next { s with chip := s.chip.modWarp w fun wp => wp.modThread l fun t =>
          { t with
            waits := [], since := s.chip.cycle, fix := t.fix.filter fun f => decide (f.cell ≠ k)
            regs := Sparse.set ⟨0, false⟩ t.regs k ⟨BitVec.ofNat 32 (numOfBytes (s.chip.loadBytes w a 4).1), false⟩ } })) ∧
    (∀ (n : Nat) (x : Stream), Sparse.find (s.warp w).streams n = some x → (s.thread w l).status = .live →
      x.ctl.getLsbD 5 = false →
      let p := Sparse.get 0 (s.thread w l).spos n + (Sparse.get [] (s.thread w l).selem n).length
      p < x.count → s.chip.elementFault w x l p = none → (s.thread w l).acquiring = false →
      (s.warp w).owesIn (x.addr l p) x.esize = false →
      exec (.streamElementArrive w l n) s = .next { s with chip := s.chip.modWarp w fun wp => wp.modThread l fun t =>
        { t with selem := Sparse.put t.selem n (Sparse.get [] t.selem n ++
          [⟨x.element (s.chip.loadBytes w (x.addr l p) x.esize).1, (s.chip.loadBytes w (x.addr l p) x.esize).2⟩]) } })

/-- R163 to R173: a collective that every live member has issued gives each live issuing lane its result, the flags of
the tree and its bit of `absent`, poisoned when a value that went into it is, and ends their waits once none of its
lanes is in a run. The sources are what each group gave at issue, who is live is judged at completion, a member whose
slot holds no thread is absent, and the event may come as soon as every live member has issued (log entries 24, 25 and
116). -/
def Obligations.CollectiveResults : Prop :=
  ∀ (s : State) (w n : Nat) (x : Coll), (s.warp w).colls.find? (fun y => y.num == n) = some x →
    (∀ l ∈ x.liveMembers (s.warp w), x.issued.getLsbD l = true) → (∀ e ∈ x.dest, ∀ k ∈ e.2, latched k = false) →
    ∃ t, exec (.collectiveResultDeliver w n) s = .next t ∧
      Releases s t w (s.chip.modWarp w fun wp =>
        { (wp.mapLanes (x.issued.lanes.filter fun l => (wp.thread l).live) fun l y =>
            let r := x.answer (s.warp w) l
            { y with
              regs := (((Sparse.get [] x.dest l).zip r.1).filter fun e => decide (e.1 ≠ 1000)).foldl (fun m e => Sparse.set ⟨0, false⟩ m e.1 e.2) y.regs
              fflags := y.fflags ||| r.2.1
              absent := if r.2.2.2 then y.absent ||| BitVec.ofNat 2 (2 ^ r.2.2.1) else y.absent &&& ~~~BitVec.ofNat 2 (2 ^ r.2.2.1) }) with
          colls := wp.colls.filter fun y => y.num ≠ n }) ∧
      ((s.warp w).inRun &&& x.issued = 0 → ∀ l, x.issued.getLsbD l = true → (s.thread w l).status = .live →
        .collective n ∉ (t.thread w l).waits) ∧
      ((s.warp w).inRun &&& x.issued ≠ 0 → (n, x.issued) ∈ (t.warp w).delivered)

/-! ## Scheduling -/

/-- R151, R147, R41, R42, R31: with no run of a gang in progress a port, in the first cycle that the words before leave
to it, begins a run of the first of the gangs eligible in that cycle, in the order of R151, joined by the strays of its
quads at its key, with the Mould bank of the warp, and the yield hints of the gangs it chose among are used up. The
order looks at the gangs after waits that are over are dropped, with the quads anchored as a run entry would find them.
R149, R151: a stray that has been eligible for 256 cycles and a gang that has been eligible for 1024 are promoted. -/
def Obligations.PortChoice : Prop :=
  (∀ (s : State) (core port : Nat) (g : Cand),
      let r := (s.settleAt core port).awaitPort core port
      let v := r.view core port r.chip.cycle
      let gs := v.gangs core port r.chip.cycle
      v.chip.portBusy core port = false → g ∈ gs → g.tolune = false → (∀ h ∈ gs, h = g ∨ lexLt g.order h.order = true) →
      ∃ t, exec (.portRunChoice core port) s = .next t ∧
        t.chip.cycle = max s.chip.cycle (Sparse.get 0 (s.chip.core core).leaves (busyKey port)) ∧
        (∀ h ∈ gs, ∀ l ∈ h.lanes, (t.thread h.w l).yielded = false) ∧
        ∃ x, Sparse.find (t.warp g.w).runs s.chip.next = some x ∧ x.lanes = maskOf (v.gangLanes g) ∧ x.stray = false ∧
          x.tolune = (r.thread g.w ((v.gangLanes g).headD 0)).tolune ∧ x.entry = (r.thread g.w ((v.gangLanes g).headD 0)).pc ∧
          x.pc = x.entry ∧ x.body = 0 ∧ x.tw = 0 ∧ x.bank = (r.warp g.w).pbank ∧ x.gen = (r.warp g.w).pgen) ∧
  (∀ (s : State) (w l : Nat),
      let c := s.chip.settleOf w
      let wp := (c.warp w).anchored c.cycle
      let t := wp.thread l
      (∀ since : Nat, t.status = .live → t.promoted ≠ some true →
        (match wp.strayRun l with
        | some x => (c.wordDue w x.1).isSome ∧ since = x.2.since
        | none => t.stray = true ∧ c.warpRuns w = true ∧ wp.laneReady c.cycle l = true ∧ since = max t.since t.nextAt) →
        since + 256 ≤ c.cycle →
        exec (.strayPromotion w l) s = .next { s with
          chip := c.modWarp w fun wp => wp.modThread l fun t => { t with promoted := some true } }) ∧
      (∀ g : List Nat,
        (wp.byKey (wp.liveLanes.filter fun k => wp.laneReady c.cycle k && !(wp.thread k).stray)).find?
          (fun g => g.contains l) = some g →
        c.warpRuns w = true → (∃ k ∈ g, (wp.thread k).promoted ≠ some false) →
        (∀ k ∈ g, max (wp.thread k).since (wp.thread k).nextAt + 1024 ≤ c.cycle) →
        exec (.gangAgingPromotion w l) s = .next { s with
          chip := c.modWarp w fun wp => wp.mapLanes g fun _ t => { t with promoted := some false } }))

/-- R149, R148, R52, R368, R369: a port issues the word of the stray that comes first where no gang word could take the
cycle, or a promoted one's in a gang's cycle, its run begun from the words its loop buffer holds; a Tolune group issues
one instruction in a run of its own when the port chooses it or its strays come first, and lanes that stand at a mapped
safe point read its word once, and go on in native code at its multiple of 4 where it is not 0 (log entry 96). -/
def Obligations.StrayAndToluneIssue : Prop :=
  (∀ (s : State) (core port : Nat) (x : StrayCand),
    let r := s.settleAt core port
    let now := r.chip.portTime core port
    firstStray ((r.view core port now).chip.strayCands core port now) = some x →
    (∀ d, r.gangDue core port = some d → x.at' < d ∨ (x.promoted = true ∧ x.at' = d)) → x.tolune = false →
    ∃ t, exec (.strayIssue core port) s = .next t ∧ t.focus = some (x.w, x.run.getD s.chip.next) ∧
      (x.run = none → (Sparse.find r.chip.warps x.w).isSome →
        ∃ y, Sparse.find (t.warp x.w).runs s.chip.next = some y ∧ y.lanes = maskOf x.lanes ∧ y.stray = true ∧
          y.buffer = x.words ∧ y.pc = (r.thread x.w (x.lanes.headD 0)).pc ∧ y.body = 0)) ∧
  (∀ (s : State) (w l rid : Nat) (x : Run),
    let r := s.settleAt (s.warp w).core (portOf (s.warp w).slot)
    (r.warp w).toluneRun l = some (rid, x) →
    (x.stray = false → r.held (s.warp w).core (portOf (s.warp w).slot) = false →
      exec (.toluneInstruction w l) s = .next { r with focus := some (w, rid) }) ∧
    (∀ y, x.stray = true → r.strayPick (s.warp w).core (portOf (s.warp w).slot) = some y → y.w = w → y.run = some rid →
      ∃ t, exec (.toluneInstruction w l) s = .next t ∧ t = { r with chip := t.chip, focus := some (w, rid) } ∧
        ∀ v k, ({ t.thread v k with promoted := none } : Thread) = { r.thread v k with promoted := none })) ∧
  (∀ (s q : State) (w l : Nat) (ls : List Nat),
    let core := (s.warp w).core
    let port := portOf (s.warp w).slot
    let r := s.settleAt core port
    (r.warp w).toluneRun l = none →
    ((∃ x, r.strayPick core port = some x ∧ x.w = w ∧ x.run = none ∧ x.tolune = true ∧ l ∈ x.lanes ∧ ls = x.lanes ∧ q = r) ∨
      ((∀ x, r.strayPick core port = some x → x.w ≠ w ∨ x.run ≠ none ∨ x.tolune = false ∨ l ∉ x.lanes) ∧
        q = r.awaitPort core port ∧ q.held core port = false ∧
        ∃ g, (q.view core port q.chip.cycle).chosenGang core port = some g ∧ g.w = w ∧ g.tolune = true ∧ l ∈ g.lanes ∧
          ls = (q.view core port q.chip.cycle).gangLanes g)) →
    (∀ k ∈ ls, q.chip.mapWaits w (q.thread w k) = false) →
    ((∀ k ∈ ls, q.chip.mapWord w (q.thread w k) = (0, false) ∧ (q.thread w k).live = true ∧
        (q.thread w k).tolune = true) → ls ≠ [] → (Sparse.find q.chip.warps w).isSome →
      ∃ t, exec (.toluneInstruction w l) s = .next t ∧ t.focus = some (w, s.chip.next) ∧
        (∀ k ∈ ls, (t.thread w k).safe = false) ∧
        ∃ y, Sparse.find (t.warp w).runs s.chip.next = some y ∧ y.lanes = maskOf ls ∧ y.tolune = true ∧
          y.pc = (q.thread w (ls.headD 0)).pc) ∧
    ((∀ k ∈ ls, (q.chip.mapWord w (q.thread w k)).1 ≠ 0 ∧ (q.chip.mapWord w (q.thread w k)).2 = false) → ls.Nodup →
      (Sparse.find q.chip.warps w).isSome →
      ∃ t, exec (.toluneInstruction w l) s = .next t ∧ t.focus = s.focus ∧
        ∀ k ∈ ls, (t.thread w k).tolune = false ∧
          (t.thread w k).pc.toNat = (q.chip.mapWord w (q.thread w k)).1.toNat / 4 * 4 ∧
          (t.thread w k).base = 0 ∧ (t.thread w k).regs = (q.thread w k).regs))

/-- R131, R132, R133, R157, R148, R162: the reads of a `dsp` complete for the lanes at its key; a held candidate is let
go where it stands, or changes places with the thread of a slot it may take, registers, `memb` bits and all; a moved
thread goes on; a stray's loop buffer takes the run at its PC; a waiting instruction-cache line comes. Without a choice
of the machine (log entries 3 and 14) no thread moves. -/
def Obligations.LaneEvents : Prop :=
  ∀ (s : State) (w l : Nat), (s.thread w l).status = .live → (Sparse.find s.chip.warps w).isSome →
    (s.chip.choices = [] → (s.thread w l).dispatching.isSome →
      ∃ t, exec (.dspReadsComplete w l) s = .next t ∧ Releases s t w s.chip ∧
        ∀ k < 64, (s.thread w k).live = true → (s.thread w k).dispatching.isSome → (s.thread w k).key = (s.thread w l).key →
          (s.thread w k).nextAt = (s.thread w l).nextAt → (t.thread w k).dispatching = none) ∧
    (∀ n, (s.thread w l).held = some n →
      let c := s.chip.modWarp w fun wp => wp.modThread l fun t => { t with waits := t.waits.filter fun x => x != .hold n }
      (s.chip.choices = [] → exec (.regroupHoldExpiry w l) s = .next { s with chip := c }) ∧
      (∀ (k v m : Nat) (ks : List Nat), s.chip.choices = (k + 1) :: ks → c.movable w l = true →
        (c.targets w l)[k]? = some (v, m, none) → l < 64 → m < 64 → (Sparse.find s.chip.warps v).isSome →
        ∃ t, exec (.regroupHoldExpiry w l) s = .next t ∧
          t.thread v m = ((c.warp w).thread l).migrate n s.chip.cycle ∧ t.thread w l = (c.warp v).thread m ∧
          (t.warp v).memb.getLsbD m = (s.warp w).memb.getLsbD l ∧ (t.warp w).memb.getLsbD l = (s.warp v).memb.getLsbD m ∧
          ∀ u k, (u, k) ≠ (w, l) → (u, k) ≠ (v, m) → t.thread u k = s.thread u k)) ∧
    ((s.thread w l).waits.contains .move = true →
      exec (.threadMoveComplete w l) s = .next { s with chip := s.chip.modWarp w fun wp => wp.modThread l fun t =>
        { t with waits := t.waits.filter (· != .move), since := s.chip.cycle } }) ∧
    (∀ ws : List Word, (((s.warp w).anchored s.chip.cycle).thread l).stray = true → (s.thread w l).tolune = false → (s.warp w).inRun.getLsbD l = false →
      (s.thread w l).buffered (s.thread w l).pc = none → ws ≠ [] → ws.length ≤ 24 →
      (∀ k < ws.length, s.chip.fetchAt w false ((s.thread w l).pc + BitVec.ofNat 32 (4 * k)) = .word (ws.getD k 0) ∧
        ((ws.getD k 0).extractLsb' 24 8 = 1 ↔ k + 1 = ws.length)) →
      exec (.loopBufferRefill w l) s = .next { s with chip := s.chip.modWarp w fun wp => wp.modThread l fun t =>
        { t with loopBuf := ((t.pc, ws) :: t.loopBuf.filter fun e => e.1 != t.pc).take 2 } }) ∧
    (∀ (rid : Nat) (x : Run), (s.warp w).runs.find? (fun r => r.2.icWait && r.2.lanes.getLsbD l) = some (rid, x) →
      s.chip.nextWord w rid ≠ .poisoned →
      exec (.instructionCacheRefill w l) s = .next { s with chip := s.chip.modWarp w fun wp => wp.modRun rid fun r =>
        { r with icWait := false, nextAt := max r.nextAt s.chip.cycle } })

/-! ## The Crucible -/

/-- R187, R204 to R206, R208, R200, R201: what the Crucible does with the word at the head of its queue, no product
running and its block running: a product starts; `acz` and `acl` write the accumulators of the captured lanes and no
other; the job of `rqt` takes the tables as they stand; `bld` fills its bank with what it read at issue (log entry 12)
or, where its read failed, empties it; `cbl` fills its table. `drn` and `mstat` deliver to the lanes that wait, also
while the block is being stopped and neither the Crucible nor their warp has acknowledged (R309, R316). -/
def Obligations.MatrixQueue : Prop :=
  ∀ (s : State) (core : Nat) (e : MatrixEntry) (r : List MatrixEntry),
    (s.chip.crucible core).cur = none → (s.chip.crucible core).queue = e :: r →
    let x := s.chip.crucible core
    let k := s.chip.block (s.warp e.warp).block
    (k.status = .running →
      (isProduct e.word = true →
        exec (.matrixProductStart core) s = .next { s with chip := s.chip.modCrucible core fun x =>
          { x with queue := r, cur := some ⟨e, 0, false, []⟩ } }) ∧
      (∀ d p st, e.word = .acz d p st →
        ∃ y, exec (.matrixProductStart core) s = .next { s with chip := s.chip.modCrucible core fun x =>
            { x with queue := r, acc := y } } ∧
          ∀ slot row col, row < 64 → col < 32 → ({ x with acc := y } : Crucible).accVal slot row col =
            if e.lanes.getLsbD row = true ∧ (slot = d.toNat ∨ (p = 1 ∧ slot = d.toNat + 1)) then ⟨0, false⟩
            else x.accVal slot row col) ∧
      (∀ d a w g st, e.word = .acl d a w g st →
        ∃ y, exec (.matrixProductStart core) s = .next { s with chip := s.chip.modCrucible core fun x =>
            { x with queue := r, acc := y } } ∧
          ∀ slot row col, row < 64 → col < 32 → ({ x with acc := y } : Crucible).accVal slot row col =
            if e.lanes.getLsbD row = true ∧ col / 8 = g.toNat ∧ w = 0 ∧ slot = d.toNat then
              Sparse.get ⟨0, false⟩ e.frag (row * 128 + col % 8)
            else if e.lanes.getLsbD row = true ∧ col / 8 = g.toNat ∧ w = 1 ∧ slot = d.toNat then
              Sparse.get ⟨0, false⟩ e.frag (row * 128 + 2 * (col % 8))
            else if e.lanes.getLsbD row = true ∧ col / 8 = g.toNat ∧ w = 1 ∧ slot = d.toNat + 1 then
              Sparse.get ⟨0, false⟩ e.frag (row * 128 + 2 * (col % 8) + 1)
            else x.accVal slot row col) ∧
      (∀ d a b st, e.word = .rqt d a b st →
        ∃ js, exec (.matrixProductStart core) s = .next { s with chip :=
            { s.chip.modCrucible core fun x => { x with queue := r } with jobs := js } } ∧
          (∀ j ctl src dst o, Sparse.find s.chip.jobs e.num = some j → j.kind = .rqt ctl src dst o →
            Sparse.find js e.num = some { j with kind := .rqt ctl src dst (some x.tables) }) ∧
          ∀ n, n ≠ e.num → Sparse.find js n = Sparse.find s.chip.jobs n) ∧
      (∀ n a b st, e.word = .bld n a b st →
        (∀ bank, e.load = .bank bank → exec (.bldComplete core) s = .next { s with chip := s.chip.modCrucible core fun x =>
          { x with queue := r, banks := Sparse.put x.banks n.toNat bank } }) ∧
        (e.load = .failed → exec (.bldComplete core) s = .next { s with chip := s.chip.modCrucible core fun x =>
          { x with queue := r, banks := Sparse.put x.banks n.toNat Bank.empty } })) ∧
      (∀ n a st xs, e.word = .cbl n a st → e.load = .table xs → xs.length = 16 →
        ∃ y, exec (.cblComplete core) s = .next { s with chip := s.chip.modCrucible core fun x =>
            { x with queue := r, tables := y } } ∧
          ∀ table i, i < 16 → ({ x with tables := y } : Crucible).entry table i =
            if table = n.toNat then xs.getD i ⟨0, false⟩ else x.entry table i)) ∧
    (k.status = .running ∨ (k.status = .stopping ∧ (1, core) ∈ k.owed ∧ (0, e.warp) ∈ k.owed) →
      (∀ d a w g st, e.word = .drn d a w g st → MatrixReaders s e .drain →
        ∃ t, exec (.drainResultDeliver core) s = .next t ∧
          MatrixGiven s t core e r .drain fun l =>
            (List.range 8).flatMap fun j =>
              x.accVal a.toNat l (8 * g.toNat + j) :: (if w = 1 then [x.accVal (a.toNat + 1) l (8 * g.toNat + j)] else [])) ∧
      (∀ d b st, e.word = .mstat d b st → MatrixReaders s e .mstat →
        ∃ t, exec (.mstatResultDeliver core) s = .next t ∧
          MatrixGiven s t core e r .mstat fun _ =>
            [⟨if b = 0 then e.sample ||| BitVec.ofNat 32 ((List.range 8).foldl
                (fun v j => v + if (x.bank j).tag.fmt ≠ 15 then 2 ^ j else 0) 0)
              else (x.bank (b.toNat - 1)).tag.word, false⟩]))

/-- R195, R197, R198, R203, R161, R219: the product in progress completes: each element of its slot in an active row
takes the narrow sum of its row, its column and the old value, INT8 wrapping modulo 2^32, and no other element changes;
its draw goes back to its warp. A sliced pass adds to the sums and the last one commits the slot; a stop that has
reached the Crucible holds the product at the end of its pass (R220). A failed check discards the product with its slot
as it was (R199), and the lanes go back to the region entry that its word issued in, with a record of event 6 (R222,
R306). When a stop reaches the Crucible (log entry 99) and the attempts of a group with different counts (46) are the
model's readings. -/
def Obligations.Products : Prop :=
  ∀ (s : State) (core : Nat) (u : Product), (s.chip.crucible core).cur = some u → u.held = false →
    let x := s.chip.crucible core
    let e := u.entry
    let k := s.chip.block (s.warp e.warp).block
    let b := x.bank (fmtBank e.fmt)
    let done (y : Sparse Val) : Chip := (s.chip.modCrucible core fun x => ({ x with acc := y } : Crucible).ended).modWarp e.warp
      fun wp => { wp with drawProduct := wp.drawProduct - e.word.drawUnits }
    (k.status = .running →
      (∀ (slot : Reg) (row : Nat → ARow), s.chip.inject = none → productRows x e = some (slot, row) →
        ∃ y, exec (.narrowProductComplete core) s = .next { s with chip := done y } ∧
          ∀ k l n, l < 64 → n < 32 → ({ x with acc := y } : Crucible).accVal k l n =
            if k ≠ slot.toNat ∨ e.lanes.getLsbD l = false then x.accVal k l n
            else if b.tag.fmt = 1 then
              ⟨BitVec.ofInt 32 ((x.accVal k l n).v.toInt + ((row l).ints.zipIdx.map fun v => v.1 * x.bInt b v.2 n).sum),
                (row l).poison || x.bPoison b n || (x.accVal k l n).p⟩
            else ⟨BitVec.ofNat 32 (narrowSum b.tag.fmt (row l).vals (x.column b n) (x.accVal k l n).v.toNat),
                (row l).poison || x.bPoison b n || (x.accVal k l n).p⟩) ∧
      (∀ d a f st, e.word = .mmas d a f st → s.chip.inject = none →
        (u.pass + 1 < fmtS e.fmt →
          exec (.slicedPassComplete core) s = .next { s with chip := s.chip.modCrucible core fun x =>
            { x with cur := some (x.runPass u) } }) ∧
        (fmtS e.fmt ≤ u.pass + 1 →
          ∃ y, exec (.slicedPassComplete core) s = .next { s with chip := done y } ∧
            ∀ k l n, l < 64 → n < 32 → ({ x with acc := y } : Crucible).accVal k l n =
              if e.lanes.getLsbD l = true ∧ (k = d.toNat ∨ (fmtA e.fmt = 5 ∧ k = d.toNat + 1)) then
                ((x.slicedResult (x.runPass u)).find? (fun v => decide ((v.1, v.2.1, v.2.2.1) = (k, l, n)))).elim ⟨0, false⟩
                  fun v => v.2.2.2
              else x.accVal k l n)) ∧
      (∀ unit, s.chip.inject = some unit →
        let ls := (e.lanes &&& (s.warp e.warp).liveMask).lanes
        let again (t : State) : Prop := t = { s with chip := t.chip } ∧ t.chip.crucible core = x.ended ∧
          t.chip.scratch = s.chip.scratch ∧ (∀ v, v ≠ e.warp → t.chip.warp v = s.chip.warp v) ∧
          (∃ r, t.chip.recs = s.chip.recs ++ [r] ∧ r.event = 6 ∧ r.reason = 0 ∧ r.npc = e.npc ∧ r.word = e.raw ∧
            r.lmask = maskOf ls ∧ r.info0 = BitVec.ofNat 64 (unit + 256 * (e.retry + 1) +
              65536 * ((s.warp e.warp).slot % 4))) ∧
          (∀ l ∈ ls, (t.thread e.warp l).rentry = e.rentry ∧ (t.thread e.warp l).retry = e.retry + 1) ∧
          t.chip.failures = s.chip.failures ++ (if 2 ≤ e.retry + 1 then [((s.warp e.warp).core, (s.warp e.warp).launch)] else []) ∧
          ∀ l, (t.thread e.warp l).pc = (if l ∈ ls then e.rentry else (s.thread e.warp l).pc) ∧
            (t.thread e.warp l).regs = (if l ∈ ls then clearTemps (s.thread e.warp l) else s.thread e.warp l).regs
        (isNarrow e.word = true → ∃ t, exec (.narrowProductComplete core) s = .next t ∧ again t) ∧
        (∀ d a f st, e.word = .mmas d a f st → ∃ t, exec (.slicedPassComplete core) s = .next t ∧ again t))) ∧
    (∀ d a f st, e.word = .mmas d a f st → s.chip.inject = none → u.pass + 1 < fmtS e.fmt →
      k.status = .stopping → (1, core) ∈ k.owed →
      (∀ v ∈ s.chip.warps, v.2.block = (s.warp e.warp).block → v.2.core = core → v.2.offCore = true ∨ v.2.runs = []) →
      exec (.slicedPassComplete core) s = .next { s with chip := s.chip.modCrucible core fun x =>
        { x with cur := some { x.runPass u with held := true } } })

/-- R207, R242: when its turn comes a requantising job whose tiles lie in its windows ends: its counter rises by 1, the
job is gone, and bytes outside the destination tile are as they were. The RQT of a cluster takes its jobs in order,
those of blocks that are off the die apart (R311). -/
def Obligations.Requantising : Prop :=
  ∀ (s : State) (id : Nat) (j : Job) (ctl src dst : Word) (tables : Sparse Val) (p q : TileDesc),
    Sparse.find s.chip.jobs id = some j → j.kind = .rqt ctl src dst (some tables) → j.status = .waiting →
    s.chip.jobFree id j = true → s.chip.fencedRqt.contains j.unit = false →
    (∀ e ∈ s.chip.jobs, e.1 < id → e.2.isRqt = true → s.chip.onDie e.2 = true → e.2.unit ≠ j.unit) →
    src.toNat % 16 = 0 → dst.toNat % 16 = 0 → s.chip.fault j.context j.launch j.block .jobRead true true src 16 = none →
    s.chip.fault j.context j.launch j.block .jobRead true true dst 16 = none →
    (∀ v ∈ s.chip.descAt j.context j.launch j.block src ++ s.chip.descAt j.context j.launch j.block dst, v.p = false) →
    descOf (s.chip.descAt j.context j.launch j.block src) = some p →
    descOf (s.chip.descAt j.context j.launch j.block dst) = some q →
    s.chip.rqtFault j (p.ranges 0 (rqtSscl ctl)) (q.ranges 0 true) = none →
    ∃ t, exec (.rqtJobComplete id) s = .next t ∧ t = { s with chip := t.chip } ∧ Sparse.find t.chip.jobs id = none ∧
      ((Sparse.find s.chip.blocks j.block).isSome → t.counter j.block j.dc = s.counter j.block j.dc + 1) ∧
      ∀ a, (∀ k ∈ q.ranges 0 true, ∀ i < k.2,
          t.chip.readsFrom j.context j.launch a ≠ s.chip.writesTo j.context j.launch (BitVec.ofNat 32 (k.1 + i))) →
        (t.chip.readByte j.context j.launch j.block a).1 = (s.chip.readByte j.context j.launch j.block a).1

/-! ## Jobs, errors and links -/

/-- R242 to R244, R235, R241: a job that nothing earlier holds back starts, claiming a free slot of its ring or waiting
for one; the first of the waiting claimants takes a freed slot; a job whose last byte is written ends: it leaves, and
its counter rises by 1. R337, R339, R340, R387: the walk for a page that a running job lacks caches it in its Ladle's
cache and its die's, parks the job with a record of event 9, or stops the job where an entry is malformed; a fault that
a peer reports over a link that is up and bound parks the job at an address of its chunk, or stops it when it is fatal.
The moment of a walk is the model's choice (log entry 34), and so are the entry that a full cache gives up (log entry
101) and which of the chunk's addresses a peer's fault names (log entry 103). -/
def Obligations.JobsStartAndFault : Prop :=
  (∀ (s : State) (id : Nat) (j : Job), s.job id = some j → j.kind = .ladle →
      (j.status = .waiting → s.chip.onDie j = true → s.chip.jobFree id j = true → s.chip.channelHeld id j = false →
        s.chip.fencedLink j = none →
        s.chip.fencedChannels.contains (j.unit * 16 + j.chan) = false →
        let n := sideRing j.jc1
        let r := Sparse.get Ring.blank (s.chip.block j.block).rings n
        (sideSpace j.jc1 ≠ 4 ∨ j.claim.isSome → exec (.jobStart id) s = .next (s.modJob id fun j => { j with status := .running })) ∧
        (sideSpace j.jc1 = 4 → j.claim = none → r.waiters = [] →
          exec (.jobStart id) s = .next (if r.free = 0 then
              (s.onChip fun c => c.modRing j.block n fun r => { r with waiters := [.job id s.chip.cycle] }).modJob id
                fun j => { j with status := .claiming }
            else
              (s.onChip fun c => c.modRing j.block n fun r => { r with free := r.free - 1, tail := (r.tail + 1) % r.count }).modJob
                id fun j => { j with status := .running, claim := some r.tail }))) ∧
      (j.status = .waiting → s.chip.onDie j = true → s.chip.jobFree id j = true → s.chip.channelHeld id j = false →
        ((s.chip.fencedLink j).isSome ∨ s.chip.fencedChannels.contains (j.unit * 16 + j.chan) = true) →
        ∃ t, exec (.jobStart id) s = .next t ∧ JobStopped s t id j) ∧
      (∀ (r : Ring) (k : Nat) (ws : List Claimant), j.status = .claiming →
        Sparse.find (s.chip.block j.block).rings (sideRing j.jc1) = some r → r.free ≠ 0 → r.waiters = .job id k :: ws →
        ∃ t, exec (.jobRingClaim id) s = .next t ∧ t.job id = some { j with status := .running, claim := some r.tail } ∧
          t = { s with chip := t.chip } ∧ t.chip.scratch = s.chip.scratch) ∧
      (j.status = .running → j.size ≤ j.cursor →
        ∃ t, exec (.jobComplete id) s = .next t ∧ t = { s with chip := t.chip } ∧ t.job id = none ∧
          (∀ k, k ≠ id → t.job k = s.job k) ∧
          ((Sparse.find s.chip.blocks j.block).isSome → t.counter j.block j.dc = s.counter j.block j.dc + 1) ∧
          t.chip.scratch = s.chip.scratch ∧ (t.chip.block j.block).shared = (s.chip.block j.block).shared)) ∧
  (∀ (s : State) (id : Nat) (j : Job), s.job id = some j → j.kind = .ladle →
      (∀ p, j.status = .running → s.chip.onDie j = true → s.unmapped j (s.movable j) = some p →
        (∀ phys r w, s.walk j.context p.2.1 p.2.2.1 p.2.2.2 = .page phys r w →
          let e : TlbEntry := ⟨j.unit, j.context, p.1, phys, r, w⟩
          ∃ t, exec (.pageWalkComplete id) s = .next t ∧ e ∈ t.tlb ∧ { e with cache := 24 + j.die } ∈ t.tlb ∧
            t = { s with tlb := t.tlb, chip := { s.chip with choices := t.chip.choices } } ∧
            ((s.tlb.filter fun x => decide (x.cache = j.unit)).length < 4096 →
              (s.tlb.filter fun x => decide (x.cache = 24 + j.die)).length < 65536 →
              ∀ x ∈ s.tlb, ¬ (x.context = j.context ∧ x.page = p.1) → x ∈ t.tlb)) ∧
        (s.walk j.context p.2.1 p.2.2.1 p.2.2.2 = .fault →
          ∃ t, exec (.pageWalkComplete id) s = .next t ∧ JobParked s t id j 1 p.2.1 p.2.2.2) ∧
        (∀ poison, s.walk j.context p.2.1 p.2.2.1 p.2.2.2 = .malformed poison →
          ∃ t, exec (.pageWalkComplete id) s = .next t ∧ JobStopped s t id j)) ∧
      (∀ why, sideSpace j.jc0 = 3 ∨ sideSpace j.jc1 = 3 → j.status = .running ∨ j.status = .peer → s.movable j ≠ 0 →
        let write := decide (sideSpace j.jc1 = 3 ∧ ¬ (sideSpace j.jc0 = 3 ∧ j.status = .running ∧ 2 ≤ why))
        s.linkBound j (sideLink (if write then j.jc1 else j.jc0)) = true →
        (why % 2 = 0 → ∃ t, exec (.peerFaultReturn id why) s = .next t ∧ ∃ k < s.movable j,
          JobParked s t id j 3 (if write then j.dstAddr (j.cursor + k) else j.srcAddr (j.cursor + k)) write) ∧
        (why % 2 = 1 → ∃ t, exec (.peerFaultReturn id why) s = .next t ∧ JobStopped s t id j)))

/-- R244, R241, R240: the next bytes of a running job whose pages are cached and whose links are up are written at its
destination and its cursor moves on by as many, those of a chunk that a peer did not take once more (R387); in main
memory the bytes at their physical places are the source's, or their sum with what stands there for a reduce-add, and no
other byte changes; to a peer they wait for its acknowledgement, which moves the cursor on. Bytes of poison bound for
main memory, the host or a peer stop the job and its submitter. A write that finds no page for a shadow version parks
the job (R341). How many bytes a step moves is the model's choice (log entry 33). -/
def Obligations.JobChunks : Prop :=
  ∀ (s : State) (id : Nat) (j : Job), s.job id = some j → j.kind = .ladle →
    (j.status = .running → s.chip.onDie j = true → s.movable j ≠ 0 → s.unmapped j (s.movable j) = none → s.linksUp j = true →
      s.chip.linkHeld id j = false →
      let u := s.fillTlb j (s.movable j)
      let bs := if j.chunk = [] then u.sourceBytes j (s.movable j) else j.sent
      let place (k : Nat) : Nat := u.physical j (j.dstAddr (j.cursor + k)) (j.op == 2) true
      let moved (t : State) : Prop := exec (.jobChunkComplete id) s = .next t ∧
        (t.job id).map Job.cursor = some (j.cursor + bs.length)
      ((sideSpace j.jc1 = 0 ∨ 4 ≤ sideSpace j.jc1 → ∃ t, moved t ∧ t.main = s.main ∧ t.host = s.host ∧ t.peers = s.peers) ∧
        (u.poisonBound j bs = false →
          (sideSpace j.jc1 = 1 → u.unshadowed j (s.movable j) = [] → ∃ t, moved t ∧ t.host = s.host ∧ t.peers = s.peers ∧
            (∀ a, (∀ k < bs.length, a ≠ place k) → t.main.bytes.read a = s.main.bytes.read a) ∧
            (((List.range bs.length).map place).Nodup →
              (j.op ≠ 2 → ∀ k < bs.length, t.main.bytes.read (place k) = (bs.getD k (0, false)).1) ∧
              (j.op = 2 → bs.length % 4 = 0 → ∀ k < bs.length, t.main.bytes.read (place k) =
                (bytesOfNum 4 (rounded f32 plus .rne
                  [numOfBytes ((List.range 4).map fun i => s.main.bytes.read (place (k / 4 * 4 + i))),
                    numOfBytes ((List.range 4).map fun i => (bs.getD (k / 4 * 4 + i) (0, false)).1)]).1).getD (k % 4) 0))) ∧
          (∀ r a rest, sideSpace j.jc1 = 1 → u.unshadowed j (s.movable j) = (r, a) :: rest → s.freePages j.context = [] →
            ∃ t, exec (.jobChunkComplete id) s = .next t ∧ JobParked s t id j 1 a true) ∧
          (sideSpace j.jc1 = 2 → ∃ t, moved t ∧ t.main = s.main ∧ t.peers = s.peers ∧
            ∀ asid, asid ≠ s.asid j.context → Sparse.get [] t.host asid = Sparse.get [] s.host asid) ∧
          (sideSpace j.jc1 = 3 → ∃ t, exec (.jobChunkComplete id) s = .next t ∧
            t.job id = some { j with status := .peer, chunk := bs.map (·.1) } ∧ t.main = s.main ∧ t.peers = s.peers)) ∧
        (u.poisonBound j bs = true →
          ∃ t, exec (.jobChunkComplete id) s = .next t ∧ t.job id = none ∧ t.main = s.main ∧ t.host = s.host ∧
            t.peers = s.peers ∧
            ((Sparse.find s.chip.blocks j.block).isSome → t.counter j.block j.dc = s.counter j.block j.dc + 1) ∧
            ∀ w l, s.chip.threadOf j.block j.wid = some (w, l) → (t.thread w l).status = .killed 7))) ∧
    (j.status = .peer → sideSpace j.jc1 = 3 → s.linksUp j = true →
      ∃ t, exec (.peerChunkAck id) s = .next t ∧ (t.job id).map Job.cursor = some (j.cursor + j.chunk.length) ∧
        (t.job id).map Job.status = some .running ∧ t.main = s.main ∧ t.host = s.host ∧
        ∀ key, s.peerKey j.context (sideLink j.jc1) = some key →
          (∀ k, k ≠ key → Sparse.get Ram.empty t.peers k = Sparse.get Ram.empty s.peers k) ∧
          (((List.range j.chunk.length).map fun k => j.dstAddr (j.cursor + k)).Nodup → j.op ≠ 2 → ∀ k < j.chunk.length,
            (Sparse.get Ram.empty t.peers key).bytes.read (j.dstAddr (j.cursor + k)) = j.chunk.getD k 0))

/-- R245, R253, R306, R342: an error of a Ladle channel fences it and stops its jobs on the die and no others; one of an
RQT fences it and ends the job it works on; one of a ring or counter aborts a launch that cannot be replayed, with the
context's sticky pipeline error, and replays one that can; the error log has an entry of each (R302). The patrol
scrubber changes nothing that can be seen. R343, R386, R391: the links: a flit that is resent changes nothing but its
count; the Slipway is fenced; a Towline is trained, and its fence stops the started jobs that name it. The numbers of
the units, what a ring's error does to the machine beside its launch, and the device at a trained link's other end are
the model's (log entries 54, 102 and 34). -/
def Obligations.ErrorsAndLinks : Prop :=
  (∀ (s : State),
      (∀ cluster channel, cluster < 24 → channel < 16 → s.chip.fencedChannels.contains (cluster * 16 + channel) = false →
        ∃ t, exec (.ladleChannelError cluster channel) s = .next t ∧
          t.chip.fencedChannels = insertNum (cluster * 16 + channel) s.chip.fencedChannels ∧ t.main = s.main ∧
          t.chip.scratch = s.chip.scratch ∧
          t.errorLog = s.errorLog ++ [.fence 1 (cluster % 6 * 16 + channel) (cluster / 6)] ∧
          ∀ k, t.job k = if (s.chip.channelJobs cluster channel).any (fun e => decide (e.1 = k)) then none else s.job k) ∧
      (∀ cluster, cluster < 24 → s.chip.fencedRqt.contains cluster = false →
        ∃ t, exec (.rqtError cluster) s = .next t ∧ t.chip.fencedRqt = insertNum cluster s.chip.fencedRqt ∧
          t.main = s.main ∧ t.chip.scratch = s.chip.scratch ∧
          t.errorLog = s.errorLog ++ [.fence 2 (cluster % 6) (cluster / 6)] ∧
          ∀ k, t.job k = if ((s.chip.jobs.filter fun e => e.2.isRqt && s.chip.onDie e.2 && e.2.unit == cluster).find? fun e =>
            e.2.atRqt).any (fun e => decide (e.1 = k)) then none else s.job k) ∧
      (∀ b, (s.chip.block b).status = .running → (s.chip.block b).fenced = false →
        ((s.chip.block b).rings ≠ [] ∨ (s.chip.block b).ndc ≠ 0) →
        let n := (s.chip.block b).launch
        let x := s.chip.launch n
        (Sparse.find s.chip.launches n).isSome →
        (x.replayable = false →
          ∃ t, exec (.ringStateError b) s = .next t ∧ (t.chip.context x.context).stickyPe = true ∧ t.main = s.main ∧
            t.errorLog.length = s.errorLog.length + 1) ∧
        (x.replayable = true → x.status = .running → x.replays < 3 →
          ∃ t, exec (.ringStateError b) s = .next t ∧ (t.chip.launch n).replays = x.replays + 1 ∧
            ((t.chip.launch n).status = .replaying ∨
              ((t.chip.launch n).status = .accepted ∧ (t.chip.launch n).nextOrdinal = 0)) ∧
            (t.chip.context x.context).stickyPe = (s.chip.context x.context).stickyPe ∧ t.main = s.main)) ∧
      (∀ addr, addr < 2 ^ 30 → exec (.patrolScrub addr) s = .next s)) ∧
  (∀ (s : State),
      (s.slipwayFenced = false →
        exec .slipwayFlitRetry s = .next { s with slipwayRetries := s.slipwayRetries + 1 } ∧
        exec .slipwayLinkFence s = .next { s with slipwayFenced := true }) ∧
      ∀ link,
        let x := Sparse.get Towline.untrained s.chip.towlines link
        (x.fenced = false →
          (x.trained = true → exec (.towlineFlitRetry link) s = .next { s with chip :=
            { s.chip with towlines := Sparse.put s.chip.towlines link { x with retries := x.retries + 1 } } }) ∧
          (x.trained = false → link < 8 → ∃ peer < 8, ∃ ks, (s.chip.choices = [] → peer = link ∧ ks = []) ∧
            exec (.towlineLinkTrained link) s = .next { s with chip :=
              { s.chip with choices := ks, towlines := Sparse.put s.chip.towlines link { x with trained := true, peer := peer } } }) ∧
          (link < 8 → ∃ t, exec (.towlineLinkFence link) s = .next t ∧ (t.towline link).fenced = true ∧ t.main = s.main ∧
            ∀ e ∈ t.chip.jobs, e ∈ s.chip.jobs ∧
              (link ∈ e.2.links → s.chip.onDie e.2 = true → e.2.status = .waiting ∨ e.2.status = .saved))))

/-- R387, R388: a peer's access over a trained link that one context is bound to reads, writes or adds in main memory at
the addresses of that context's tables; where a page is missing nothing is written. The form of a peer's access is the
model's own (log entry 34). -/
def Obligations.PeerAccess : Prop :=
  ∀ (s : State) (link op va data ctx peer : Nat), (s.towline link).trained = true → (s.towline link).fenced = false →
    (s.towline link).bound = [(ctx, peer)] → op % 4 ≤ 2 → op / 4 ≤ 4096 → s.chip.choices = [] →
    (s.peerPlaces ctx va (op / 4) (op % 4 != 1) (op % 4 != 0) = none ∨ op % 4 = 0 →
      exec (.towlinePeerRequest link op va data) s = .next s) ∧
    (∀ as, s.peerPlaces ctx va (op / 4) (op % 4 != 1) (op % 4 != 0) = some as → op % 4 ≠ 0 →
      ∃ t, exec (.towlinePeerRequest link op va data) s = .next t ∧ t = { s with main := t.main } ∧
        (∀ a, a ∉ as → t.main.bytes.read a = s.main.bytes.read a) ∧
        (as.Nodup → op % 4 = 1 → ∀ k < op / 4, t.main.bytes.read (as.getD k 0) = BitVec.ofNat 8 (data / 256 ^ k)) ∧
        (as.Nodup → op % 4 = 2 → op / 4 % 4 = 0 → ∀ k < op / 4, t.main.bytes.read (as.getD k 0) =
          (bytesOfNum 4 (rounded f32 plus .rne [numOfBytes ((List.range 4).map fun i =>
            s.main.bytes.read (as.getD (k / 4 * 4 + i) 0)), data / 256 ^ (k / 4 * 4) % 2 ^ 32]).1).getD (k % 4) 0))

/-! ## Launches, blocks and warps -/

/-- R263, R265, R347, R261, R308: a record at the head of a free queue whose waits are met is taken: a launch record
whose header passes every check is accepted with the header as its bytes give it, in its record's order; a marker
completes in order; a record that breaks a rule is refused. The queue's head moves on by one. R327, R328, R330, R332: an
activation whose image passes its checks is written to the bank that is not current, with nothing bound to it, and holds
its queue; a live one moves every warp to it; at its end its completion record is posted, and with that, not before, the
bank is current, one generation on, and the queue is let go (R329). Where the refusal of a record is posted, when the
waits of one are judged and what is refused for a header that cannot be read are the model's choice (log entries 36 to
38, 123). -/
def Obligations.RecordsAndActivations : Prop :=
  (∀ (s : State) (q : Nat) (r : LaunchRecord), s.headRecord q = some r → s.queueFree q = true →
      (r.kind = 0 → s.badRecord q r = false → (∀ w ∈ r.waits, w.1 = q → w.2 < (s.queue q).head) → s.waitsMet q r = true →
        ∀ bs, s.mainRead r.ctx r.hdr 4 = some bs →
        (s.launchWhy q (s.queue q).head r bs (headerOf bs) = none →
          (∀ n ∈ (headerOf bs).windows, ((s.chip.context r.ctx).window n).state = .opened) →
          ∃ t, exec (.launchRecord q) s = .next t ∧ (t.queue q).head = (s.queue q).head + 1 ∧
            ∃ x, Sparse.find t.chip.launches s.chip.next = some x ∧ x.context = r.ctx ∧ x.queue = q ∧
              x.seq = (s.queue q).head ∧ x.header = headerOf bs ∧ x.status = .accepted ∧ x.nextOrdinal = 0 ∧
              x.blocks = (headerOf bs).blockCount ∧ x.waits = r.waits ∧ x.serial = r.serial ∧
              x.replayable = (headerOf bs).replay) ∧
        (∀ why, s.launchWhy q (s.queue q).head r bs (headerOf bs) = some why →
          ∃ t, exec (.launchRecord q) s = .next t ∧ (t.queue q).head = (s.queue q).head + 1 ∧
            t.chip.launches = s.chip.launches)) ∧
      (r.kind ≠ 1 → r.kind ≠ 2 → s.badRecord q r = true ∨ r.kind ≠ 0 →
        ∃ t, exec (.launchRecord q) s = .next t ∧ (t.queue q).head = (s.queue q).head + 1 ∧
          t.chip.launches = s.chip.launches) ∧
      (r.kind = 2 → s.badRecord q r = false → (∀ w ∈ r.waits, w.1 = q → w.2 < (s.queue q).head) → s.waitsMet q r = true →
        (s.queue q).head ≤ (s.queue q).completedBelow →
        ∃ t, exec (.markerRecord q) s = .next t ∧ (t.queue q).head = (s.queue q).head + 1 ∧
          t.chip.launches = s.chip.launches)) ∧
  (∀ (s : State),
      (∀ (q : Nat) (r : LaunchRecord) (x : Image) (body : List Byte), s.headRecord q = some r → s.queueFree q = true →
        r.kind = 1 → s.activation = none → s.badRecord q r = false →
        (∀ w ∈ r.waits, w.1 = q → w.2 < (s.queue q).head) → s.waitsMet q r = true → s.imageCheck r = .ok (x, body) →
        s.chip.bankFree (1 - s.chip.bank) = true →
        ∃ t, exec (.patchActivation q) s = .next t ∧
          t.activation = some ⟨q, (s.queue q).head, x.live, 1 - s.chip.bank, s.chip.ns, false⟩ ∧ t.chip.bank = s.chip.bank ∧
          (t.queue q).heldBy = some (s.queue q).head ∧ (t.queue q).head = (s.queue q).head + 1 ∧
          (t.chip.bankOf (1 - s.chip.bank)).slots = x.slots ∧ (t.chip.bankOf (1 - s.chip.bank)).serial = x.serial ∧
          (x.live = true → ∀ e ∈ t.chip.warps, e.2.pbank = 1 - s.chip.bank) ∧
          (x.live = false → t.chip.warps = s.chip.warps) ∧ t.main = s.main) ∧
      (∀ a : Activation, s.activation = some a → a.ended = false → s.outbox = [] →
        (a.live = true → ∀ e ∈ s.chip.warps, ∀ r ∈ e.2.runs, r.2.bank = a.bank) →
        ∃ t, exec .patchActivationComplete s = .next t ∧ t.chip.warps = s.chip.warps ∧
          (s.ringRoom 0 → t.activation = none ∧ t.chip.bank = a.bank ∧ t.chip.gen = (s.chip.gen + 1) % 65536 ∧
            (t.queue a.queue).heldBy = none ∧ (t.queue a.queue).done a.seq = true) ∧
          (¬ s.ringRoom 0 → t.activation = some { a with ended := true } ∧ t.chip.bank = s.chip.bank ∧
            t.chip.gen = s.chip.gen ∧ t.queue a.queue = s.queue a.queue)))

/-- R264 to R268, R262, R313, R271, R272: the Ferryman binds the block that the first queue in order has for a die in
the places that fit: one bind record for each warp, with its core, slot, registers and first thread, the Crucibles of
its users reset; a pre-empted block comes back running. Where that first block has no room, blocks of lower priority are
asked to stop, and a launch whose die has no core left binds no more. The order is judged as each block is bound (log
entry 58), and the numbers of blocks and warps are the model's own. -/
def Obligations.Binding : Prop :=
  ∀ (s : State) (die q : Nat) (rest : List (Nat × BindWork)), s.regBlock.ready = true →
    (∀ (n : Nat) (place : Nat × Nat × List Seat), s.bindOrder die = (q, .next n) :: rest →
      (Sparse.find s.chip.launches n).isSome →
      let x := s.chip.launch n
      s.fit n die x.header x.header.placings = some place →
      ∃ t, exec (.bindBlock die) s = .next t ∧ t.lastServed = some q ∧
        (t.chip.launch n).nextOrdinal = x.nextOrdinal + 1 ∧ (t.chip.launch n).status = .running ∧
        (∃ b, Sparse.find t.chip.blocks s.chip.next = some b ∧ b.launch = n ∧ b.context = x.context ∧
          b.ordinal = x.nextOrdinal ∧ b.die * 6 + b.cluster = place.1 ∧ b.status = .binding ∧ b.counters = [] ∧ b.bars = [] ∧
          b.ndc = x.header.ndc ∧ b.sharedBase = place.2.1 ∧ b.shared = Ram.empty ∧ b.rings = x.header.ringsAtBind) ∧
        (∀ k, t.chip.crucible k = if ∃ a ∈ place.2.2, 32 ≤ a.of.draw ∧ a.core = k then
          { Crucible.fresh with queue := (s.chip.crucible k).queue, saved := (s.chip.crucible k).saved } else s.chip.crucible k) ∧
        t.binds = s.binds ++ place.2.2.map fun a =>
          ⟨a.core, a.slot, x.context, n, s.chip.next, (x.header.warpRoles.getD a.of.key (0, 0)).1, a.of.lanes,
            (x.header.warpRoles.getD a.of.key (0, 0)).2, a.rbase, a.of.regs, a.of.draw, s.chip.next + 1 + a.of.key⟩) ∧
    (∀ (b : Nat) (place : Nat × Nat × List Seat), s.bindOrder die = (q, .restore b) :: rest →
      (Sparse.find s.chip.blocks b).isSome → s.replies = [] →
      s.fit b die (s.chip.launch (s.chip.block b).launch).header (s.chip.imageGroups b) = some place →
      ∃ t, exec (.bindBlock die) s = .next t ∧ t.lastServed = some q ∧ (t.chip.block b).status = .running ∧
        (t.chip.block b).cluster = place.1 % 6 ∧ (t.chip.block b).shared = (s.chip.block b).shared ∧
        (t.chip.block b).counters = (s.chip.block b).counters ∧ (t.chip.block b).parts = []) ∧
    (∀ (work : BindWork) (blk n : Nat) (gs : List (List Placing)), s.bindOrder die = (q, work) :: rest →
      let x := s.chip.launch n
      (work = .next n ∧ blk = n ∧ gs = x.header.placings ∧ Sparse.find s.chip.blocks n = none) ∨
        (work = .restore blk ∧ (Sparse.find s.chip.blocks blk).isSome ∧ n = (s.chip.block blk).launch ∧
          gs = s.chip.imageGroups blk) →
      s.fit blk die x.header gs = none →
      (s.dieDead die x.header = true → x.stuck = false → (Sparse.find s.chip.launches n).isSome →
        ∃ t, exec (.bindBlock die) s = .next t ∧ (t.chip.launch n).stuck = true ∧ t.binds = s.binds) ∧
      (∀ vs, (s.dieDead die x.header = false ∨ x.stuck = true) →
        (∀ e ∈ s.chip.blocks, e.2.die = die → e.2.status ≠ .stopping) → (s.chip.blocks.map (·.1)).Nodup →
        s.eviction blk die (s.queue q).prio x.header gs = some vs →
        ∃ t, exec (.bindBlock die) s = .next t ∧ t.main = s.main ∧
          (∀ v ∈ vs, (s.chip.block v).die = die ∧ (s.chip.block v).status = .running ∧ (s.chip.block v).restoredAt = none ∧
            (s.queue (s.chip.launch (s.chip.block v).launch).queue).prio < (s.queue q).prio ∧
            ((t.chip.block v).status = .stopping ∨ (t.chip.block v).status = .preempted)) ∧
          ∀ b, b ∉ vs → (t.chip.block b).status = (s.chip.block b).status))

/-- R56, R268, R269, R255, R270: a bind record starts its warp: its lanes live at the role's entry with g0 the parameter
address, their work identifiers consecutive from the block's, and all else 0; a record for a fenced slot is refused, and
the slot, the log and the block's warps say so. A warp with nothing left leaves its slot. A refused block is kept as an
image to be placed elsewhere, and a warp leaves once nothing of it is under way: choices of the model (log entries 71
and 53). -/
def Obligations.WarpsComeAndGo : Prop :=
  ∀ (s : State),
    (∀ (core : Nat) (r : BindRecord), s.binds.find? (fun r => r.core == core) = some r →
      (s.chip.bindClash r = none → (s.chip.core core).fencedSlots.contains r.wslot = false →
        ∃ t, exec (.bindRecord core) s = .next t ∧ t.binds = s.binds.erase r ∧
          (∀ v, v ≠ r.warp → t.chip.warp v = s.chip.warp v) ∧
          let x := t.chip.warp r.warp
          let n := s.chip.launch r.launch
          x.core = r.core ∧ x.slot = r.wslot ∧ x.lanes = r.lanes ∧ x.alloc = r.regs ∧ x.draw = r.draw ∧ x.entries = 0 ∧
            x.fmask = 0 ∧ x.mthr = 16 ∧ x.memb = maskOf (List.range r.lanes) ∧ x.pbank = n.pbank ∧
            ∀ l < r.lanes,
              let y := x.thread l
              y.status = .live ∧ y.pc = (n.header.role r.role).entry ∧ y.rentry = y.pc ∧
                y.wid = (s.chip.block r.block).bwid + BitVec.ofNat 64 (r.tbase + l) ∧
                y.cellVal 0 = ⟨n.header.params, false⟩ ∧ (∀ k, k ≠ 0 → y.cellVal k = ⟨0, false⟩) ∧ y.base = 0 ∧ y.floor = 0 ∧
                y.gpc = 0 ∧ y.gcb = 0 ∧ y.htb = 0 ∧ y.frm = 0 ∧ y.fflags = 0 ∧ y.absent = 0 ∧ y.jcw = 0 ∧
                y.gmode = BitVec.ofNat 2 n.header.regroup ∧ y.pend = [] ∧ y.waits = []) ∧
      ((s.chip.bindClash r).isSome ∨ (s.chip.core core).fencedSlots.contains r.wslot = true →
        ∃ t, exec (.bindRecord core) s = .next t ∧ r.wslot ∈ (t.chip.core core).fencedSlots ∧
          t.errorLog = s.errorLog ++ [.bind r.core r.wslot
            ((s.chip.bindClash r).elim 0 fun e => (s.chip.launch e.2.launch).ident.toNat) (s.chip.launch r.launch).ident.toNat] ∧
          ((Sparse.find s.chip.blocks r.block).isSome → (t.chip.block r.block).status = .preempted))) ∧
    (∀ (w : Nat) (x : Warp), Sparse.find s.chip.warps w = some x → x.liveLanes = [] → x.storeQ = [] →
      (s.chip.block x.block).status = .running → s.chip.matrixHolds w = false →
      (∀ e ∈ s.chip.jobs, e.2.warp = w → sideSpace e.2.jc0 ≠ 5 ∧ sideSpace e.2.jc1 ≠ 5) →
      ∃ t, exec (.unbindNotice w) s = .next t ∧ Sparse.find t.chip.warps w = none ∧
        (∀ v, v ≠ w → t.chip.warp v = s.chip.warp v) ∧ (t.chip.block x.block).status = .running ∧
        t.chip.scratch = s.chip.scratch ∧ t.main = s.main)

/-- R255, R307, R252, R264, R271: a running block with no warp and no job left is complete and gone, and its launch
counts it; the record of a launch accepted as replayable is held until its commit (R342); an opening window becomes open
with every byte 0; a head that has been ready for 1 ms is aged; 200 µs after its return a block may be stopped for
another again. R309, R310, R311, R352: an engine of a stopping block that stands at its stop point acknowledges, with a
Crucible's the jobs its RQT has begun since are asked too, and the last one makes the block an image, or discards it; a
group stalled 20 µs after the request goes back to its region entry (a Tolune lane to its instruction, R52) with its
temporaries dead; a warp whose service is answered, or whose callers all stopped before it was posted, comes back to a
core with its registers replaced and its lanes released. When a stop reaches a Crucible, what an aborted launch posts,
and where Tolune code resumes are the model's reading (log entries 99, 55 and 90). -/
def Obligations.BlocksAndPreemption : Prop :=
  (∀ (s : State),
      (∀ b, (s.chip.block b).status = .running → s.chip.warpsOf b = [] → (∀ e ∈ s.chip.jobs, e.2.block ≠ b) →
        let n := (s.chip.block b).launch
        let x := s.chip.launch n
        (Sparse.find s.chip.launches n).isSome →
        ∃ t, exec (.blockComplete b) s = .next t ∧ Sparse.find t.chip.blocks b = none ∧
          (x.done + 1 ≠ x.blocks → (t.chip.launch n).done = x.done + 1 ∧ t.main = s.main ∧
            (x.header.replay = true → t.outbox = s.outbox ∧ (t.chip.launch n).held.length = x.held.length + 1)) ∧
          (x.done + 1 = x.blocks → Sparse.find t.chip.launches n = none)) ∧
      (∀ ctx n, ((s.chip.context ctx).window n).state = .opening →
        let v := (s.chip.context ctx).window n
        ∃ t, exec (.windowOpenComplete ctx n) s = .next t ∧
          (t.chip.context ctx).window n = { v with state := .opened, written := [], owner := none } ∧
          (∀ a, t.chip.scratch.bytes.read a =
            if v.base ≤ a ∧ a < v.base + v.size then 0 else s.chip.scratch.bytes.read a)) ∧
      (∀ q t, (s.queue q).readyAt = some t → (s.queue q).aged = false → t + 1000000 ≤ s.chip.ps / 1000 →
        exec (.queueHeadAging q) s = .next { s with queues := Sparse.put s.queues q { s.queue q with aged := true } }) ∧
      (∀ b t, (s.chip.block b).restoredAt = some t → t + 200000 ≤ s.chip.ps / 1000 →
        exec (.preemptQuantumExpiry b) s = .next { s with chip := s.chip.modBlock b fun k => { k with restoredAt := none } })) ∧
  (∀ (s : State),
      (∀ b kind id c, (s.chip.block b).status = .stopping → (kind, id) ∈ (s.chip.block b).owed →
        s.chip.stopEngine b kind id = some c → (Sparse.find s.chip.blocks b).isSome →
        let left := (s.chip.block b).owed.filter fun o => o ≠ (kind, id)
        let owed := left ++ if kind = 1 then ((c.rqtAt b).map fun e => (3, e.1)).filter (fun o => o ∉ left) else []
        (owed ≠ [] → exec (.engineStopAck b kind id) s = .next { s with chip := c.modBlock b fun k => { k with owed := owed } }) ∧
        (owed = [] → (s.chip.block b).aborting = false →
          ∃ t, exec (.engineStopAck b kind id) s = .next t ∧ (t.chip.block b).status = .preempted ∧
            (t.chip.block b).owed = [] ∧ (t.chip.block b).shared = (s.chip.block b).shared ∧
            ∀ e ∈ c.warpsOf b, (t.chip.warp e.1).offCore = true) ∧
        (owed = [] → (s.chip.block b).aborting = true →
          ∃ t, exec (.engineStopAck b kind id) s = .next t ∧ Sparse.find t.chip.blocks b = none ∧ t.main = s.main)) ∧
      (∀ w l rid x at', (s.warp w).runs.find? (fun r => r.2.lanes.getLsbD l) = some (rid, x) →
        s.stopSince w rid = some at' → at' + 20000 ≤ s.chip.ps / 1000 → x.emul = none → s.chip.stalled w rid = true →
        ∃ t, exec (.preemptStallTimeout w l) s = .next t ∧ t = { s with chip := t.chip } ∧
          t.chip.scratch = s.chip.scratch ∧ (∀ v, v ≠ w → t.chip.warp v = s.chip.warp v) ∧
          Sparse.find (t.warp w).runs rid = none ∧
          ∀ k, (t.thread w k).regs = (if k ∈ (s.warp w).active x then clearTemps (s.thread w k) else s.thread w k).regs ∧
            (t.thread w k).pc = if k ∈ (s.warp w).active x then
              (if (s.thread w k).tolune then x.npc else (s.thread w k).rentry) else (s.thread w k).pc) ∧
      (∀ ctx x rest,
        (s.chip.services.filter fun x => s.chip.serviceOver x && x.context == ctx && !(s.chip.services.any (s.chip.unposted x.warp)) &&
          (s.chip.block (s.warp x.warp).block).status == .running) = x :: rest →
        (Sparse.find s.chip.warps x.warp).isSome →
        let wp := s.warp x.warp
        let back (t : State) : Prop := exec (.serviceWarpRebind ctx) s = .next t ∧ (t.warp x.warp).offCore = false ∧
          (∀ l ∈ x.lanes.lanes, .service x.num ∉ (t.thread x.warp l).waits) ∧
          (∀ l, (∀ e ∈ x.writes, e.1 ≠ l) → (t.thread x.warp l).regs = (s.thread x.warp l).regs) ∧
          ∀ y ∈ t.chip.services, y.num ≠ x.num ∧ (y.warp = x.warp → y.unbound = false)
        (wp.offCore = false → ∃ t, back t ∧ (t.warp x.warp).core = wp.core ∧ (t.warp x.warp).slot = wp.slot) ∧
        ∀ a : Seat, wp.offCore = true →
          (if 32 ≤ wp.draw then [wp.core]
            else (List.range 8).map fun i => 8 * (6 * (s.chip.block wp.block).die + (s.chip.block wp.block).cluster) + i).findSome?
              (fun core => s.seatOn [] wp.block [] ⟨x.warp, wp.lanes, wp.alloc, wp.draw⟩ core) = some a →
          ∃ t, back t ∧ (t.warp x.warp).core = a.core ∧ (t.warp x.warp).slot = a.slot))

/-! ## Traps, services and commands -/

/-- R299, R302, R347: of the oldest unposted records of each die, the first whose lanes' results and stores are done is
written to its context's trap ring when that has room: in the units from the ring's tail, with that tail as its seq, and
the new tail at the index word. R351, R352, R347: a request is written when its warp has left its core at run boundaries
and the ring has room, and the warp leaves where it has none; a reply to it gives new registers for the lanes of its
mask, which the warp takes when it is bound again, or aborts the launch that called; it is no more where the warp has
gone. A doorbell moves the tail of a ring the host fills or the head of one it empties. -/
def Obligations.TrapRecordsAndServices : Prop :=
  (∀ (s : State) (ctx : Nat) (r : TrapRec) (g : HostRing),
      (let rs := s.chip.recs.filter fun x => x.seq.isNone && x.context == ctx
       (rs.filter fun x => decide (((rs.find? fun y => y.die == x.die).map TrapRec.num) = some x.num)).find? s.chip.postable) =
        some r →
      s.ring ctx 0 = some g → s.slipwayFenced = false →
      let n := (64 + 8 * r.wids.length + 63) / 64
      (g.tail + 2 ^ 32 - g.head) % 2 ^ 32 + n ≤ 2 ^ g.size →
      ∃ t, exec (.trapRecordPost ctx) s = .next t ∧ (∀ x ∈ t.chip.recs, x.num = r.num → x.seq = some g.tail) ∧
        t.ring ctx 0 = some { g with tail := (g.tail + n) % 2 ^ 32 } ∧ t.main = s.main ∧ t.chip.warps = s.chip.warps ∧
        t.hostNum (s.asid ctx) g.index 4 = (g.tail + n) % 2 ^ 32 ∧
        (g.base + 2 ^ g.size * 64 ≤ 2 ^ 64 → (g.index + 4 ≤ g.base ∨ g.base + 2 ^ g.size * 64 ≤ g.index) → g.index + 4 ≤ 2 ^ 64 →
          let h (o k : Nat) : Nat := t.hostNum (s.asid ctx) (g.base + g.tail % 2 ^ g.size * 64 + o) k
          h 0 4 = r.launch.toNat ∧ (r.wslot < 16 → h 4 1 = 16 * r.wslot) ∧ h 12 4 = g.tail % 2 ^ 32 ∧ h 16 4 = r.npc.toNat ∧
            h 20 4 = r.word.toNat ∧ h 24 4 = r.rentry.toNat ∧ h 28 4 = r.entries.toNat ∧ h 32 8 = r.lmask.toNat ∧
            (r.event < 256 → h 8 1 = r.event) ∧ (r.event < 256 → r.reason < 256 → h 9 1 = r.reason) ∧
            h 40 8 = r.info0.toNat ∧ h 48 8 = r.info1.toNat ∧ h 56 8 = r.info2.toNat)) ∧
  (∀ (s : State) (ctx : Nat),
      (∀ (x : Service) (g : HostRing),
        s.chip.services.find? (fun x => x.seq.isNone && x.context == ctx &&
          ((s.warp x.warp).offCore || (s.warp x.warp).quiet false) && !((s.warp x.warp).liveMask &&& x.lanes == 0)) = some x →
        s.ring ctx 3 = some g → s.slipwayFenced = false →
        let n := (64 + 40 * ((x.lanes &&& (s.warp x.warp).liveMask).lanes).length + 63) / 64
        (g.tail + 2 ^ 32 - g.head) % 2 ^ 32 + n ≤ 2 ^ g.size →
        ∃ t, exec (.serviceRequestPost ctx) s = .next t ∧ (t.warp x.warp).offCore = true ∧
          t.ring ctx 3 = some { g with tail := (g.tail + n) % 2 ^ 32 } ∧
          (∀ y ∈ t.chip.services, (y.num = x.num → y.seq = some g.tail) ∧ (y.warp = x.warp → y.unbound = true)) ∧
          t.main = s.main ∧ (∀ l, (t.thread x.warp l) = (s.thread x.warp l))) ∧
      (∀ (g : HostRing) (x : Service),
        s.ring ctx 3 = some g → (g.tail + 2 ^ 32 - g.head) % 2 ^ 32 = 2 ^ g.size →
        s.chip.services.find? (fun x => x.seq.isNone && x.context == ctx && !(s.warp x.warp).offCore &&
          (s.warp x.warp).quiet false && !((s.warp x.warp).liveMask &&& x.lanes == 0)) = some x →
        ∃ t, exec (.serviceRequestPost ctx) s = .next t ∧ t = { s with chip := t.chip } ∧ (t.warp x.warp).offCore = true ∧
          (∀ l, t.thread x.warp l = s.thread x.warp l) ∧ (∀ v, v ≠ x.warp → t.chip.warp v = s.chip.warp v) ∧
          t.chip.services = s.chip.services.map fun y => if y.warp = x.warp then { y with unbound := true } else y) ∧
      (∀ (g : HostRing) (x : Service) (mask : Mask) (bs : List Byte),
        s.ring ctx 4 = some g → s.slipwayFenced = false → mask.lanes.length + 1 ≤ (g.tail + 2 ^ 32 - g.head) % 2 ^ 32 →
        bs = (List.range (mask.lanes.length + 1)).flatMap (fun i =>
          s.hostRead (s.asid ctx) (g.base + (g.head + i) % 2 ^ g.size * 32) 32) →
        mask = BitVec.ofNat 64 (field bs 8 8) → field bs 5 3 = 0 → field bs 16 16 = 0 →
        s.chip.services.find? (fun x => x.seq == some (field bs 0 4) && !x.replied && x.context == ctx) = some x →
        mask &&& ~~~x.lanes = 0 →
        (field bs 4 1 = 0 → (Sparse.find s.chip.warps x.warp).isSome →
          ∃ t, exec (.serviceReplyResume ctx) s = .next t ∧
            t.ring ctx 4 = some { g with head := (g.head + mask.lanes.length + 1) % 2 ^ 32 } ∧
            t.chip.warps = s.chip.warps ∧ t.main = s.main ∧
            ∀ y ∈ t.chip.services, y.num = x.num → y.replied = true ∧
              ∀ e, e ∈ y.writes ↔ ∃ k < mask.lanes.length, ∃ i < 8,
                e = (mask.lanes.getD k 0, i, BitVec.ofNat 32 (field bs (32 + 32 * k + 4 * i) 4))) ∧
        (field bs 4 1 = 0 → Sparse.find s.chip.warps x.warp = none →
          ∃ t, exec (.serviceReplyResume ctx) s = .next t ∧ (∀ y ∈ t.chip.services, y.num ≠ x.num) ∧
            t.ring ctx 4 = some { g with head := (g.head + mask.lanes.length + 1) % 2 ^ 32 }) ∧
        (field bs 4 1 = 2 → (Sparse.find s.chip.launches x.launch).isSome →
          ∃ t, exec (.serviceReplyAbort ctx) s = .next t ∧ t.main = s.main ∧
            (Sparse.find t.chip.launches x.launch = none ∨ (t.chip.launch x.launch).status = .aborting))) ∧
      (∀ (v kind n : Nat) (g : HostRing), v = ctx * 2 ^ 48 + kind * 2 ^ 32 + n → ctx < 2 ^ 16 → kind < 5 → n < 2 ^ 32 →
        s.ring ctx kind = some g →
        ∃ t, exec (.ringHeadRelease v) s = .next t ∧ t.main = s.main ∧
          (kind ≠ 2 → t.ring ctx kind = some (if kind = 1 ∨ kind = 4 then { g with tail := n } else { g with head := n })) ∧
          (kind = 2 → (t.ring ctx kind).map HostRing.head = some n) ∧
          (s.outbox = [] → t.outbox = [] ∧ t.chip.warps = s.chip.warps)))

/-- R303 to R305: a reply to a posted record whose fields hold takes one unit of its ring and acts: action 0 lets the
named parked lanes go on where the record says, action 1 sends them as strays to a `land` word, both with a new `gpc`
where asked; what else holds a lane's next run stays, but for a redirected lane's obligations at joins; action 2 aborts
the launch; actions 3 and 4 let the job of an event-9 record go on or stop it, a fenced one at its next start. A reply
for a block that is off its die is held until it is back. The order in which faults of a reply are judged (log entry 60)
and what becomes of a lane's other waits (110) are the model's. -/
def Obligations.TrapReplies : Prop :=
  ∀ (s : State) (ctx : Nat) (g : HostRing) (r : TrapRec) (x : Reply) (seq : Nat),
    s.ring ctx 1 = some g → s.slipwayFenced = false → (g.tail + 2 ^ 32 - g.head) % 2 ^ 32 ≠ 0 →
    replyOf (s.hostRead (s.asid ctx) (g.base + g.head % 2 ^ g.size * 32) 32) ctx g.head = (x, seq, false) →
    s.chip.recordAt ctx seq = some r → x.mask &&& ~~~r.lmask = 0 →
    let taken (t : State) : Prop := t.ring ctx 1 = some { g with head := (g.head + 1) % 2 ^ 32 } ∧ t.main = s.main
    ((s.chip.block (s.recordBlock r)).status = .preempted →
      (x.action = 0 ∧ r.event ≠ 9 → ∃ t, exec (.trapReplyResume ctx) s = .next t ∧ taken t ∧ t.chip.warps = s.chip.warps ∧
        t.replies = s.replies ++ [{ x with record := r.num, block := s.recordBlock r }]) ∧
      (x.action = 1 ∧ r.event ≠ 9 → ∃ t, exec (.trapReplyRedirect ctx) s = .next t ∧ taken t ∧ t.chip.warps = s.chip.warps ∧
        t.replies = s.replies ++ [{ x with record := r.num, block := s.recordBlock r }])) ∧
    ((s.chip.block (s.recordBlock r)).status = .running →
      (x.action ≤ 1 → r.event ≠ 9 → x.mask.lanes ≠ [] →
        (∀ l ∈ x.mask.lanes, (s.thread r.warp l).live = true ∧ (s.thread r.warp l).parkedOn r.num = true) →
        (x.action = 1 → ∀ l ∈ x.mask.lanes, s.chip.landAt r.warp (s.thread r.warp l).tolune x.pc = true) →
        ∃ t, exec (if x.action = 0 then .trapReplyResume ctx else .trapReplyRedirect ctx) s = .next t ∧
          taken t ∧ t.chip.scratch = s.chip.scratch ∧
          (∀ v, v ≠ r.warp → t.chip.warp v = s.chip.warp v) ∧
          (x.nochk = true → (t.warp r.warp).stallchk = false) ∧
          ∀ l,
            let a := s.thread r.warp l
            let b := t.thread r.warp l
            if l ∈ x.mask.lanes then
              b.regs = a.regs ∧ b.gpc = (if x.sgpc then x.gpc else a.gpc) ∧
                (x.action = 1 → b.pc = x.pc ∧ b.stray = true ∧ ∀ n, .rejoin n ∉ b.waits) ∧
                (x.action = 0 → some b.pc = a.resumeAt r.num) ∧
                (∀ n p, .trap n p ∈ b.waits → n ≠ r.num ∧ p = b.pc ∧ ∃ p', .trap n p' ∈ a.waits) ∧
                (∀ y, (∀ n p, y ≠ .trap n p) → (y ∈ b.waits → y ∈ a.waits) ∧ (x.action = 0 → y ∈ a.waits → y ∈ b.waits))
            else b.pc = a.pc ∧ b.regs = a.regs) ∧
      (x.action = 2 → s.faultJob r = none → (Sparse.find s.chip.launches (s.warp r.warp).launch).isSome →
        ∃ t, exec (.trapReplyAbort ctx) s = .next t ∧ taken t ∧
          (Sparse.find t.chip.launches (s.warp r.warp).launch = none ∨
            (t.chip.launch (s.warp r.warp).launch).status = .aborting)) ∧
      (∀ id j, r.event = 9 → s.faultJob r = some (id, j) → s.job id = some j →
        (x.action = 3 → ∃ t, exec (.trapReplyChunkServiced ctx) s = .next t ∧ taken t ∧
          t.job id = some { j with
            status := if s.chip.fencedChannels.contains (j.unit * 16 + j.chan) ∨ (s.chip.fencedLink j).isSome then .waiting
              else .running
            fault := none }) ∧
        (x.action = 4 → ∃ t, exec (.trapReplyChunkFatal ctx) s = .next t ∧ taken t ∧ JobStopped s t id j)))

/-- R348, R349: a command that breaks a rule of every command, or its own, is refused: its status is 2 and a type-5
entry gives the reason, 0 for an argument out of its rules, 3 for a window in another state, 4 for a quota; the command
ring's head moves on by one in either case, with the status at +0x38 and the new head at its index word, and nothing
else of the machine changes. An opening beyond the quota ends as a command that is done, with an entry that says so.
R248, R251, R252, R346, R347, R349: the commands of a context's windows, rings and queues, with arguments that hold:
opening sets the descriptor and the state opening; closing; the descriptor with its state is written to the host; a ring
or queue is defined with both positions 0, or undefined, a queue too. R337 to R341, R348, R349, R309, R308: the commands
of translation, of the pool, and of contexts: a root and an address space; an invalidation of the cached walks of a
range; a grant; suspension, which asks every block to stop and is done when all are images; resumption; definition and
release; the sticky errors. What a close and a release leave, that a failed opening ends a command, that a descriptor is
read with its state, the argument bits judged and the entry of a code without a command are the model's reading (log
entries 63, 64, 69, 70 and 88). -/
def Obligations.Commands : Prop :=
  ((∀ (s : State) (i : Instr) (code : Nat) (bs : List Byte), commandOf i = some code → s.commandEntry = some bs →
      field bs 0 1 = code →
      (badArgs bs (argumentsOf code) = true ∨ (deviceCommand code = true ∧ field bs 2 2 ≠ 0) ∨
        (code ≠ 21 ∧ (s.chip.context (field bs 2 2)).defined = false)) →
      exec i s = .next ((s.endCommand 2).refuseEntry
        (if (s.chip.context (field bs 2 2)).defined then field bs 2 2 else 0) 0 0 s.chead)) ∧
    ∀ (s : State) (status : Nat), status < 3 →
      let t := s.endCommand status
      t = { s with chead := (s.chead + 1) % 2 ^ 32, host := t.host } ∧
        t.hostNum s.regBlock.casid s.regBlock.cidx 4 = (s.chead + 1) % 2 ^ 32 ∧
        (s.commandAddr + 0x40 ≤ 2 ^ 64 → s.regBlock.cidx + 4 ≤ 2 ^ 64 →
          (s.regBlock.cidx + 4 ≤ s.commandAddr + 0x38 ∨ s.commandAddr + 0x40 ≤ s.regBlock.cidx) →
          t.hostNum s.regBlock.casid (s.commandAddr + 0x38) 8 = status) ∧
        ∀ k, k ≠ s.regBlock.casid → Sparse.get [] t.host k = Sparse.get [] s.host k) ∧
  (∀ (s : State) (ctx : Nat) (bs : List Byte),
      let x := s.chip.context ctx
      let n := field bs 8 1
      let v := x.window n
      (Commanded s 1 ctx bs → n ≤ 13 → v.state = .closed →
        let hi := field bs 24 8
        let size := hi % 2 ^ 32
        let base := field bs 16 8
        DescriptorHolds base hi → s.chip.occupied ctx (windowFrom base hi) = false →
        x.held + (if hi.testBit 41 then 2 * size else size) ≤ (if ctx = 0 then supply else 4096 * x.quota) →
        ∃ y, exec .windowOpen s = .next ((s.setContext ctx fun x => { x with windows := Sparse.put x.windows n y }).endCommand 1) ∧
          y.state = .opening ∧ y.base = base ∧ y.size = size ∧ y.written = [] ∧ y.owner = none ∧ y.pr = hi.testBit 32 ∧
          y.pw = hi.testBit 33 ∧ y.px = hi.testBit 34 ∧ y.pg = hi.testBit 35 ∧ y.pa = hi.testBit 36 ∧
          y.priv = hi.testBit 39 ∧ y.track = hi.testBit 40 ∧ y.shadow = hi.testBit 41) ∧
      (Commanded s 1 ctx bs →
        (13 < n ∨ ¬ DescriptorHolds (field bs 16 8) (field bs 24 8) → exec .windowOpen s = .next (s.commandRefused ctx 0)) ∧
        (n ≤ 13 → DescriptorHolds (field bs 16 8) (field bs 24 8) →
          (v.state ≠ .closed → exec .windowOpen s = .next (s.commandRefused ctx 3)) ∧
          (v.state = .closed → s.chip.occupied ctx (windowFrom (field bs 16 8) (field bs 24 8)) = true →
            exec .windowOpen s = .next (s.commandRefused ctx 0)) ∧
          (v.state = .closed → s.chip.occupied ctx (windowFrom (field bs 16 8) (field bs 24 8)) = false →
            (if ctx = 0 then supply else 4096 * x.quota) <
              x.held + (if (field bs 24 8).testBit 41 then 2 * (field bs 24 8 % 2 ^ 32) else field bs 24 8 % 2 ^ 32) →
            exec .windowOpen s = .next ((s.postEntry ctx (openEntry ctx n x true) none).endCommand 1)))) ∧
      (Commanded s 2 ctx bs → 13 < n ∨ v.state ≠ .opened →
        exec .windowClose s = .next (s.commandRefused ctx (if 13 < n then 0 else 3))) ∧
      (Commanded s 3 ctx bs → 13 < n ∨ field bs 16 8 % 16 ≠ 0 → exec .windowDescriptorRead s = .next (s.commandRefused ctx 0)) ∧
      (Commanded s 4 ctx bs → 5 < n ∨ x.rooted = false ∨
          (field bs 9 1 = 1 ∧ (field bs 16 8 % 64 ≠ 0 ∨ 16 < field bs 24 1 ∨ field bs 32 8 % 8 ≠ 0)) →
        exec .ringDefine s = .next (s.commandRefused ctx 0)) ∧
      (Commanded s 5 0 bs → (s.chip.context 0).rooted = false ∨
          (field bs 10 1 = 1 ∧ ((s.chip.context (field bs 12 2)).defined = false ∨ field bs 16 8 % 64 ≠ 0 ∨
            16 < field bs 24 1 ∨ field bs 32 8 % 8 ≠ 0)) →
        exec .queueDefine s = .next (s.commandRefused 0 0)) ∧
      (Commanded s 5 0 bs → (s.chip.context 0).rooted = true → field bs 10 1 = 0 →
        exec .queueDefine s = .next
          (({ s with queues := Sparse.put s.queues n { s.queue n with defined := false } } : State).endCommand 1)) ∧
      (Commanded s 2 ctx bs → n ≤ 13 → v.state = .opened →
        ∃ t, exec .windowClose s = .next t ∧ t = { s with chip := t.chip, chead := t.chead, host := t.host } ∧
          t.chip.scratch = s.chip.scratch ∧
          ((t.chip.context ctx).window n).state =
            if ∃ e ∈ s.chip.launches, e.2.context = ctx ∧ e.2.header.wmask.getLsbD n = true then .closing else .closed) ∧
      (Commanded s 3 ctx bs → n ≤ 13 → field bs 16 8 % 16 = 0 →
        exec .windowDescriptorRead s = .next ((s.hostWrite (s.asid ctx) (field bs 16 8)
          (bytesOfNum 8 v.low ++ bytesOfNum 8 v.high)).endCommand 1)) ∧
      (Commanded s 4 ctx bs → n ≤ 5 → x.rooted = true → field bs 9 1 = 1 → s.outbox = [] → field bs 16 8 % 64 = 0 →
        field bs 24 1 ≤ 16 → field bs 32 8 % 8 = 0 →
        exec .ringDefine s = .next ((s.setContext ctx fun x => { x with
          rings := Sparse.put x.rings n ⟨field bs 16 8, field bs 24 1, field bs 32 8, 0, 0⟩ }).endCommand 1)) ∧
      (Commanded s 4 ctx bs → n ≤ 5 → x.rooted = true → field bs 9 1 = 0 →
        exec .ringDefine s = .next ((s.setContext ctx fun x => { x with rings := Sparse.erase x.rings n }).endCommand 1)) ∧
      (Commanded s 5 0 bs → (s.chip.context 0).rooted = true → field bs 10 1 = 1 →
        (s.chip.context (field bs 12 2)).defined = true → field bs 16 8 % 64 = 0 → field bs 24 1 ≤ 16 → field bs 32 8 % 8 = 0 →
        exec .queueDefine s = .next (({ s with queues := Sparse.put s.queues n { LaunchQueue.blank with
          defined := true, owner := field bs 12 2, prio := field bs 9 1, base := field bs 16 8, size := field bs 24 1
          index := field bs 32 8, asid := s.regBlock.casid } } : State).endCommand 1))) ∧
  (∀ (s : State) (ctx : Nat) (bs : List Byte),
      let x := s.chip.context ctx
      (Commanded s 6 ctx bs → field bs 8 6 % 4096 = 0 →
        exec .translationRoot s = .next ((s.setContext ctx fun x =>
          { x with root := field bs 8 6, asid := field bs 16 4, rooted := true }).endCommand 1)) ∧
      (Commanded s 6 ctx bs → field bs 8 6 % 4096 ≠ 0 → exec .translationRoot s = .next (s.commandRefused ctx 0)) ∧
      (Commanded s 7 ctx bs → field bs 8 8 % 65536 ≠ 0 ∨ field bs 16 8 % 65536 ≠ 0 →
        exec .invalidate s = .next (s.commandRefused ctx 0)) ∧
      (Commanded s 8 ctx bs → field bs 8 6 % 65536 ≠ 0 ∨ field bs 16 8 % 65536 ≠ 0 ∨
          0x3000000000 < field bs 8 6 + field bs 16 8 →
        exec .shadowPoolGrant s = .next (s.commandRefused ctx 0)) ∧
      (Commanded s 21 ctx bs →
        let refused (reason : Nat) : State := s.commandRefused (if x.defined then ctx else 0) reason
        (ctx = 0 → exec .contextDefine s = .next (refused 0)) ∧
        (ctx ≠ 0 → 4096 * field bs 8 4 < x.held ∨ supply - (s.chip.context 0).heldOpen <
            ((s.chip.contexts.filter fun e => decide (e.1 ≠ 0 ∧ e.1 ≠ ctx ∧ e.2.defined = true)).map fun e => 4096 * e.2.quota).sum +
              4096 * field bs 8 4 →
          exec .contextDefine s = .next (refused 4))) ∧
      (Commanded s 22 0 bs → exec .contextRelease s = .next (s.commandRefused 0 0)) ∧
      (Commanded s 7 ctx bs → field bs 8 8 % 65536 = 0 → field bs 16 8 % 65536 = 0 →
        (∀ e ∈ s.chip.jobs, e.2.context = ctx → e.2.status = .peer → sideSpace e.2.jc0 ≠ 1) →
        ∃ t : State, exec .invalidate s = .next (t.endCommand 1) ∧ t = { s with tlb := t.tlb } ∧
          ∀ e, e ∈ t.tlb ↔ e ∈ s.tlb ∧ ¬ (e.context = ctx ∧ (field bs 16 8 = 0 ∨
            (field bs 8 8 / 65536 ≤ e.page ∧ e.page < (field bs 8 8 + field bs 16 8) / 65536)))) ∧
      (Commanded s 8 ctx bs → field bs 8 6 % 65536 = 0 → field bs 16 8 % 65536 = 0 →
        field bs 8 6 + field bs 16 8 ≤ 0x3000000000 →
        exec .shadowPoolGrant s = .next ((s.setContext ctx fun x =>
          { x with pool := x.pool ++ [(field bs 8 6, field bs 16 8)] }).endCommand 1)) ∧
      (Commanded s 9 ctx bs →
        (x.suspended = true → (∀ e ∈ s.chip.blocks, e.2.context = ctx → e.2.status = .preempted) → (s.chip.blocks.map (·.1)).Nodup →
          exec .contextSuspend s = .next (s.endCommand 1)) ∧
        (x.suspended = false → (∀ e ∈ s.chip.blocks, e.2.context ≠ ctx) →
          exec .contextSuspend s = .next ((s.setContext ctx fun x => { x with suspended := true }).endCommand 1)) ∧
        (x.suspended = false → (s.chip.blocks.map (·.1)).Nodup →
          ∃ t, exec .contextSuspend s = .next t ∧ t.main = s.main ∧ (t.chip.context ctx).suspended = true ∧
            (∀ b k, Sparse.find s.chip.blocks b = some k →
              (k.context ≠ ctx → (t.chip.block b).status = k.status) ∧
              (k.context = ctx → k.status ≠ .complete →
                (t.chip.block b).status = .stopping ∨ (t.chip.block b).status = .preempted)) ∧
            t.chead = if ∀ e ∈ t.chip.blocks, e.2.context = ctx → (t.chip.block e.1).status = .preempted then
              (s.chead + 1) % 2 ^ 32 else s.chead)) ∧
      (Commanded s 10 ctx bs →
        exec .contextResume s = .next ((s.setContext ctx fun x => { x with suspended := false }).endCommand 1)) ∧
      (Commanded s 21 ctx bs → ctx ≠ 0 → x.held ≤ 4096 * field bs 8 4 →
        ((s.chip.contexts.filter fun e => decide (e.1 ≠ 0 ∧ e.1 ≠ ctx ∧ e.2.defined = true)).map fun e => 4096 * e.2.quota).sum +
          4096 * field bs 8 4 ≤ supply - (s.chip.context 0).heldOpen →
        exec .contextDefine s = .next ((s.setContext ctx fun x => { x with
          defined := true, quota := field bs 8 4
          system := if x.defined then x.system else decide (field bs 16 1 = 1) }).endCommand 1)) ∧
      (Commanded s 22 ctx bs → ctx ≠ 0 → (∀ e ∈ s.chip.launches, e.2.context ≠ ctx) →
        ∃ t, exec .contextRelease s = .next t ∧ (t.chip.context ctx).defined = false ∧ t.main = s.main ∧
          (∀ k, k ≠ ctx → t.chip.context k = s.chip.context k) ∧
          ∀ q, (t.queue q).defined = true → (t.queue q).owner ≠ ctx ∧ t.queue q = s.queue q) ∧
      (Commanded s 23 ctx bs →
        exec .stickyClear s = .next ((s.setContext ctx fun x => { x with
          stickyIe := x.stickyIe && !(field bs 8 1).testBit 0, stickyPe := x.stickyPe && !(field bs 8 1).testBit 1 }).endCommand 1)))

/-- R269, R333 to R335, R348, R349, R368, R381, R383 to R386: the commands of the device, of Tolune, of tracing and
debugging and of peers, and what refuses some of them. The fields of a comparator's argument, the image that command 13
takes, the values of keys and the layout of a quote's blocks, and the groups that a stop halts are the model's reading
(log entries 7, 59, 61 and 65); a binding that a chunk still uses stays (log entry 103). -/
def Obligations.DeviceCommands : Prop :=
  ∀ (s : State) (ctx : Nat) (bs : List Byte),
    (Commanded s 11 0 bs → field bs 8 1 ≤ 191 → field bs 9 1 < 16 →
      ∃ t : State, exec .slotReset s = .next (t.endCommand 1) ∧ t = { s with chip := { s.chip with cores := t.chip.cores } } ∧
        (∀ k, k ≠ field bs 8 1 → t.chip.core k = s.chip.core k) ∧
        (t.chip.core (field bs 8 1)).fenced = (s.chip.core (field bs 8 1)).fenced ∧
        ∀ n, n ∈ (t.chip.core (field bs 8 1)).fencedSlots ↔
          n ∈ (s.chip.core (field bs 8 1)).fencedSlots ∧ n ≠ field bs 9 1) ∧
    (Commanded s 11 0 bs → 191 < field bs 8 1 → exec .slotReset s = .next (s.commandRefused 0 0)) ∧
    (Commanded s 12 ctx bs → field bs 8 8 % 64 ≠ 0 → exec .statusRead s = .next (s.commandRefused ctx 0)) ∧
    (Commanded s 13 0 bs → field bs 16 8 < signatureBytes → exec .firmwareLoad s = .next (s.commandRefused 0 0)) ∧
    (Commanded s 16 ctx bs → field bs 8 4 % 4 ≠ 0 → exec .translationInstall s = .next (s.commandRefused ctx 0)) ∧
    (Commanded s 20 ctx bs → (s.towline (field bs 8 1)).trained = false ∨ (s.towline (field bs 8 1)).fenced = true →
      exec .peerBind s = .next (s.commandRefused ctx 0)) ∧
    (Commanded s 12 ctx bs → field bs 8 8 % 64 = 0 →
      ∃ xs, exec .statusRead s = .next ((s.hostWrite (s.asid ctx) (field bs 8 8) xs).endCommand 1) ∧ xs.length = 2048 ∧
        (∀ k < 192, (field xs 0x200 24).testBit k = (s.chip.core k).fenced) ∧
        (∀ k < 24, (field xs 0x218 4).testBit k = s.chip.fencedRqt.contains k) ∧
        (∀ c < 24, ∀ k < 16, (field xs (0x220 + 8 * c) 2).testBit k = s.chip.fencedChannels.contains (c * 16 + k)) ∧
        (field xs 0x2E0 2).testBit 8 = s.slipwayFenced ∧
        (∀ q < 64, field xs (8 * q + 4) 4 =
          ((s.chip.launches.find? fun e => e.2.queue == q && e.2.status != .aborting && decide (e.2.nextOrdinal < e.2.blocks)).elim
            (s.queue q).head fun e => e.2.seq) % 2 ^ 32)) ∧
    (Commanded s 13 0 bs →
      let n := field bs 16 8
      let img := s.hostRead s.regBlock.casid (field bs 8 8) n
      signatureBytes ≤ n → (∃ k ∈ [0, 1], k ∉ s.revoked ∧
        imageSigned k (img.take (n - signatureBytes)) (img.drop (n - signatureBytes)) = true) →
      exec .firmwareLoad s = .next (({ s with flashed := img.take (n - signatureBytes) } : State).endCommand 1)) ∧
    (Commanded s 14 0 bs →
      let nonce := s.hostRead s.regBlock.casid (field bs 8 8) 32
      let signed (t : State) (leaf : Nat) : State :=
        let d (k : Nat) : List Byte := (t.chip.bankOf k).digest.getD (List.replicate 32 0)
        let m := shake256 (shake256 t.firmware ++ d 0 ++ d 1 ++
          Config.quoteBlock [t.chip.bank, t.chip.gen, (t.chip.bankOf 0).serial, (t.chip.bankOf 1).serial] ++
          Config.configBlock t.configuration ++ nonce)
        t.hostWrite s.regBlock.casid (field bs 16 8)
          (m ++ xmssSign identitySecret (toByte Config.identityPrf.toNat 32) identitySeed leaf m)
      (s.leaf < 1024 → 0 < s.leafBlocks →
        exec .quote s = .next ((signed { s with leaf := s.leaf + 1 } ((s.leafBlocks - 1) * 1024 + s.leaf)).endCommand 1)) ∧
      (1024 ≤ s.leaf ∨ s.leafBlocks = 0 → s.leafBlocks < 1024 →
        exec .quote s = .next
          ((signed { s with leafBlocks := s.leafBlocks + 1, leaf := 1 } (s.leafBlocks * 1024)).endCommand 1))) ∧
    (Commanded s 15 ctx bs →
      exec .toluneDefine s = .next ((s.setContext ctx fun x => { x with
        tolune := some (BitVec.ofNat 32 (field bs 8 4), field bs 12 4, BitVec.ofNat 32 (field bs 16 4)) }).endCommand 1)) ∧
    (Commanded s 16 ctx bs →
      let a : Word := BitVec.ofNat 32 (field bs 8 4)
      let v := (s.chip.context ctx).window (windowOf a)
      let n := 4 * field bs 12 4
      a.toNat % 4 = 0 → windowOf a < 14 → v.state ≠ .closed → offsetOf a + n ≤ v.size →
      ∃ t : State, exec .translationInstall s = .next (t.endCommand 1) ∧ t.main = s.main ∧ t.host = s.host ∧
        t.chip.warps = s.chip.warps ∧
        ∀ k, t.chip.scratch.bytes.read k =
          if v.base + offsetOf a ≤ k ∧ k < v.base + offsetOf a + n then
            (s.hostRead (s.asid ctx) (field bs 16 8) n).getD (k - (v.base + offsetOf a)) 0
          else s.chip.scratch.bytes.read k) ∧
    (Commanded s 17 ctx bs → field bs 12 1 < 8 →
      exec .traceSet s = .next (((s.setContext ctx fun x => { x with trace := BitVec.ofNat 3 (field bs 8 1) }).onChip fun c =>
        { c with watches := Sparse.erase c.watches (field bs 24 1 * 8 + field bs 12 1) }).endCommand 1)) ∧
    (Commanded s 17 ctx bs → 16 ≤ field bs 12 1 → field bs 12 1 < 24 → field bs 16 4 % 8 = 0 → field bs 20 4 % 8 = 0 →
      field bs 20 4 ≠ 0 → field bs 16 4 / 2 ^ 28 < 14 →
      field bs 16 4 % 2 ^ 28 + field bs 20 4 ≤ ((s.chip.context ctx).window (field bs 16 4 / 2 ^ 28)).size →
      exec .traceSet s = .next (((s.setContext ctx fun x => { x with trace := BitVec.ofNat 3 (field bs 8 1) }).onChip fun c =>
        { c with
          watches := Sparse.put c.watches (field bs 24 1 * 8 + (field bs 12 1 - 16))
            ⟨ctx, BitVec.ofNat 32 (field bs 16 4), field bs 20 4⟩ }).endCommand 1)) ∧
    (Commanded s 18 ctx bs →
      let f := field bs 8 2
      let key := f / 256 % 4 * 8 + f / 1024 % 8
      f % 256 ≤ 191 → f / 256 % 4 ≤ 2 → (f / 256 % 4 ≠ 0 → f / 1024 % 8 < 4) →
      exec .comparatorSet s = .next ((s.onChip fun c => { c with cores := Sparse.put c.cores (f % 256) { c.core (f % 256) with
        comps := if f.testBit 13 then
            Sparse.put (c.core (f % 256)).comps key (ctx, BitVec.ofNat 32 (field bs 12 4), BitVec.ofNat 32 (field bs 16 4),
              BitVec.ofNat 64 (field bs 24 8), BitVec.ofNat 2 ((if f.testBit 15 then 1 else 0) + if f.testBit 14 then 2 else 0))
          else Sparse.erase (c.core (f % 256)).comps key } }).endCommand 1)) ∧
    (∀ w wp, Commanded s 19 ctx bs →
      s.chip.warps.find? (fun e => e.2.context == ctx && !e.2.offCore &&
        (s.chip.launch e.2.launch).ident.toNat == field bs 8 4 && e.2.threads.any fun t =>
          t.2.status != .vacant && t.2.wid == BitVec.ofNat 64 (field bs 16 8)) = some (w, wp) →
      (wp.runs = [] → ∃ t : State, exec .warpStop s = .next (t.endCommand 1) ∧ t = { s with chip := t.chip } ∧
        t.chip.recs.length = s.chip.recs.length + (s.chip.haltGroups (s.warp w)).length ∧
        (∀ r ∈ t.chip.recs.drop s.chip.recs.length, r.event = 1 ∧ r.info0 = 0x40000) ∧
        (∀ l ∈ (s.warp w).liveLanes, t.chip.halted (t.thread w l) = true) ∧
        ∀ l, (t.thread w l).pc = (s.thread w l).pc) ∧
      (wp.runs ≠ [] → wp.stopAll = false →
        exec .warpStop s = .next { s with chip := s.chip.modWarp w fun wp => { wp with stopAll := true } })) ∧
    (Commanded s 20 ctx bs →
      let link := field bs 8 1
      let x := s.towline link
      x.trained = true → x.fenced = false → s.chip.choices = [] →
      (∀ e ∈ s.chip.jobs, e.2.context = ctx → e.2.status = .peer → link ∉ e.2.links) →
      exec .peerBind s = .next ((s.onChip fun c => { c with towlines := Sparse.put c.towlines link { x with
        bound := if field bs 9 1 = 0 then Sparse.erase x.bound ctx else Sparse.put x.bound ctx (field bs 12 4) } }).endCommand 1))

/-- R345, R347: the registers the host writes: a queue's tail, the command tail, and the four that are set once after a
module reset; a write of another size or place changes nothing. R353, R354, R335, R345: the clock follows its input in
steps of 100 MHz; the freeze input stops it; a reset or a loss of power leaves the fuses, the board flash, the host and
the peers, starts the flashed firmware and leaves all else as after reset; power coming on begins the next block of
leaves; the firmware becomes ready. What a write with a must-be-0 bit changes, what a reset does to memory, and the
clocks that the device may set are the model's reading (log entries 78, 42 and 89). -/
def Obligations.HostAndPower : Prop :=
  (∀ (s : State), s.slipwayFenced = false →
      (∀ q v, q < 64 → v < 2 ^ 32 → (s.queue q).defined = true →
        exec (.qtail q v) s = .next { s with
          regBlock := { s.regBlock with qtail := Sparse.put s.regBlock.qtail q v }
          queues := Sparse.put s.queues q { s.queue q with tail := v } }) ∧
      (∀ v, v < 2 ^ 32 →
        exec (.registerBlockWrite 0x200 8 v) s = .next { s with regBlock := { s.regBlock with ctail := v } }) ∧
      (∀ v, v < 2 ^ 64 →
        (v % 64 = 0 → exec (.registerBlockWrite 0x218 8 v) s = .next (if s.regBlock.written.getLsbD 0 then s else { s with
          regBlock := { s.regBlock with cbase := v, written := s.regBlock.written ||| 1 } })) ∧
        (v ≤ 16 → exec (.registerBlockWrite 0x220 8 v) s = .next (if s.regBlock.written.getLsbD 1 then s else { s with
          regBlock := { s.regBlock with csize := v, written := s.regBlock.written ||| 2 } })) ∧
        (v % 8 = 0 → exec (.registerBlockWrite 0x228 8 v) s = .next (if s.regBlock.written.getLsbD 2 then s else { s with
          regBlock := { s.regBlock with cidx := v, written := s.regBlock.written ||| 4 } })) ∧
        (v < 2 ^ 32 → exec (.registerBlockWrite 0x230 8 v) s = .next (if s.regBlock.written.getLsbD 3 then s else { s with
          regBlock := { s.regBlock with casid := v, written := s.regBlock.written ||| 8 } }))) ∧
      (∀ off size v, size ≠ 8 ∨ (0x238 ≤ off ∨ off = 0x210) → exec (.registerBlockWrite off size v) s = .next s)) ∧
  (∀ (s : State),
      (∀ mhz, 0 < mhz → mhz ≤ 4000 → mhz % 100 = 0 →
        exec (.clockThrottle mhz) s = .next { s with chip := { s.chip with mhz := mhz } }) ∧
      (∀ low, exec (.freezeN low) s = .next { s with frozen := s.frozen || decide (low ≠ 0) }) ∧
      (s.regBlock.ready = false → exec .firmwareReady s = .next { s with regBlock := { s.regBlock with ready := true } }) ∧
      (s.powered = true →
        ∃ t, exec .moduleReset s = .next t ∧ AfterReset s t ∧ t.powered = true ∧ t.leafBlocks = s.leafBlocks ∧ t.leaf = s.leaf) ∧
      (s.powered = true →
        ∃ t, exec .powerLoss s = .next t ∧ AfterReset s t ∧ t.powered = false ∧ t.leafBlocks = s.leafBlocks ∧ t.leaf = s.leaf) ∧
      (s.powered = false → s.leafBlocks < 1024 →
        ∃ t, exec .powerOn s = .next t ∧ AfterReset s t ∧ t.powered = true ∧ t.leafBlocks = s.leafBlocks + 1 ∧ t.leaf = 0))
end

