-- ==== Sys2Proof/Laws/Maps.lean ====
section
/-!
SUPPORT. Reading maps after writing them, and their canonical form.
-/

namespace Sys2Proof.Machine

variable {α : Type}

namespace SparseLaws

/-! ## Reading after writing -/

@[simp] theorem get_nil (d : α) (k : Nat) : Sparse.get d [] k = d := rfl
@[simp] theorem find_nil (k : Nat) : Sparse.find ([] : Sparse α) k = none := rfl

theorem get_eq_find (d : α) (m : Sparse α) (k : Nat) : Sparse.get d m k = (Sparse.find m k).getD d := by
  induction m with
  | nil => rfl
  | cons e r ih =>
    obtain ⟨j, v⟩ := e
    simp only [Sparse.get, Sparse.find]
    split <;> simp [ih]

@[simp] theorem find_put_same (m : Sparse α) (k : Nat) (v : α) : Sparse.find (Sparse.put m k v) k = some v := by
  induction m with
  | nil => simp [Sparse.put, Sparse.find]
  | cons e r ih =>
    obtain ⟨j, w⟩ := e
    simp only [Sparse.put]
    split
    · simp [Sparse.find]
    · split
      · simp [Sparse.find]
      · rename_i h _
        simp [Sparse.find, ih, Ne.symm h]

theorem find_put_ne (m : Sparse α) {k n : Nat} (v : α) (h : n ≠ k) :
    Sparse.find (Sparse.put m k v) n = Sparse.find m n := by
  induction m with
  | nil => simp [Sparse.put, Sparse.find, h.symm]
  | cons e r ih =>
    obtain ⟨j, w⟩ := e
    simp only [Sparse.put]
    split
    · rename_i hk
      subst hk
      simp [Sparse.find, h.symm]
    · split
      · simp [Sparse.find, h.symm]
      · simp [Sparse.find, ih]

@[simp] theorem get_put_same (d : α) (m : Sparse α) (k : Nat) (v : α) : Sparse.get d (Sparse.put m k v) k = v := by
  simp [get_eq_find]

theorem get_put_ne (d : α) (m : Sparse α) {k n : Nat} (v : α) (h : n ≠ k) :
    Sparse.get d (Sparse.put m k v) n = Sparse.get d m n := by
  simp [get_eq_find, find_put_ne _ _ h]

@[simp] theorem find_erase_same (m : Sparse α) (k : Nat) : Sparse.find (Sparse.erase m k) k = none := by
  induction m with
  | nil => rfl
  | cons e r ih =>
    obtain ⟨j, v⟩ := e
    simp only [Sparse.erase, ne_eq, decide_not] at ih ⊢
    by_cases h : j = k
    · simp [h, ih]
    · simp [h, Sparse.find, ih]

theorem find_erase_ne (m : Sparse α) {k n : Nat} (h : n ≠ k) :
    Sparse.find (Sparse.erase m k) n = Sparse.find m n := by
  induction m with
  | nil => rfl
  | cons e r ih =>
    obtain ⟨j, v⟩ := e
    simp only [Sparse.erase, ne_eq, decide_not] at ih ⊢
    by_cases hj : j = k
    · simp [hj, Sparse.find, h.symm, ih]
    · simp [hj, Sparse.find, ih]

@[simp] theorem get_set_same [DecidableEq α] (d : α) (m : Sparse α) (k : Nat) (v : α) :
    Sparse.get d (Sparse.set d m k v) k = v := by
  unfold Sparse.set
  split
  · rename_i h; simp [get_eq_find, h]
  · simp

theorem get_set_ne [DecidableEq α] (d : α) (m : Sparse α) {k n : Nat} (v : α) (h : n ≠ k) :
    Sparse.get d (Sparse.set d m k v) n = Sparse.get d m n := by
  unfold Sparse.set
  split
  · simp [get_eq_find, find_erase_ne _ h]
  · exact get_put_ne d m v h

theorem find_modify_same (m : Sparse α) (k : Nat) (f : α → α) :
    Sparse.find (Sparse.modify m k f) k = (Sparse.find m k).map f := by
  unfold Sparse.modify
  split
  · rename_i h; simp [h]
  · rename_i h; simp [h]

theorem find_modify_ne (m : Sparse α) {k n : Nat} (f : α → α) (h : n ≠ k) :
    Sparse.find (Sparse.modify m k f) n = Sparse.find m n := by
  unfold Sparse.modify
  split
  · exact find_put_ne _ _ h
  · rfl

theorem get_modify_ne (d : α) (m : Sparse α) {k n : Nat} (f : α → α) (h : n ≠ k) :
    Sparse.get d (Sparse.modify m k f) n = Sparse.get d m n := by
  simp [get_eq_find, find_modify_ne _ _ h]

/-- A listed key's value is changed. -/
theorem get_modify_same (d : α) (m : Sparse α) (k : Nat) (f : α → α) (h : (Sparse.find m k).isSome) :
    Sparse.get d (Sparse.modify m k f) k = f (Sparse.get d m k) := by
  obtain ⟨v, hv⟩ := Option.isSome_iff_exists.mp h
  simp [get_eq_find, find_modify_same, hv]

/-- Whatever a reading of the values makes of the unchanged value, it makes of the changed one. -/
theorem get_modify_of {β : Type} (p : α → β) (d : α) (m : Sparse α) (k n : Nat) (f : α → α) (h : ∀ v, p (f v) = p v) :
    p (Sparse.get d (Sparse.modify m k f) n) = p (Sparse.get d m n) := by
  by_cases hk : n = k
  · subst hk
    cases hv : Sparse.find m n with
    | none => simp [get_eq_find, find_modify_same, hv]
    | some v => simp [get_eq_find, find_modify_same, hv, h]
  · rw [get_modify_ne d m f hk]

/-! ## The canonical form -/

theorem mem_put {m : Sparse α} {k : Nat} {v : α} {e : Nat × α} (h : e ∈ Sparse.put m k v) : e = (k, v) ∨ e ∈ m := by
  induction m with
  | nil => simpa [Sparse.put] using h
  | cons x r ih =>
    obtain ⟨j, w⟩ := x
    simp only [Sparse.put] at h
    split at h
    · rcases List.mem_cons.mp h with h | h
      · exact .inl h
      · exact .inr (List.mem_cons_of_mem _ h)
    · split at h
      · rcases List.mem_cons.mp h with h | h
        · exact .inl h
        · exact .inr h
      · rcases List.mem_cons.mp h with h | h
        · exact .inr (h ▸ List.mem_cons_self)
        · exact (ih h).imp id (List.mem_cons_of_mem _)

/-- Rising keys stay rising when one is listed. -/
theorem put_sorted {m : Sparse α} (h : m.Pairwise fun x y => x.1 < y.1) (k : Nat) (v : α) :
    (Sparse.put m k v).Pairwise fun x y => x.1 < y.1 := by
  induction m with
  | nil => simp [Sparse.put]
  | cons x r ih =>
    obtain ⟨j, w⟩ := x
    obtain ⟨hx, hr⟩ := List.pairwise_cons.mp h
    simp only [Sparse.put]
    split
    · rename_i hk
      exact List.pairwise_cons.mpr ⟨fun y hy => hk ▸ hx y hy, hr⟩
    · split
      · rename_i hlt
        refine List.pairwise_cons.mpr ⟨fun y hy => ?_, h⟩
        rcases List.mem_cons.mp hy with hy | hy
        · subst hy; exact hlt
        · exact Nat.lt_trans hlt (hx y hy)
      · rename_i hne hnlt
        refine List.pairwise_cons.mpr ⟨fun y hy => ?_, ih hr⟩
        rcases mem_put hy with hy | hy
        · subst hy; show j < k; omega
        · exact hx y hy

theorem erase_sorted {m : Sparse α} (h : m.Pairwise fun x y => x.1 < y.1) (k : Nat) :
    (Sparse.erase m k).Pairwise fun x y => x.1 < y.1 := h.sublist List.filter_sublist

/-- Setting a key keeps the canonical form. -/
theorem set_canonical [DecidableEq α] {d : α} {m : Sparse α} (h : Sparse.Canonical d m) (k : Nat) (v : α) :
    Sparse.Canonical d (Sparse.set d m k v) := by
  unfold Sparse.set
  split
  · exact ⟨erase_sorted h.1 k, fun e he => h.2 e (List.mem_filter.mp he).1⟩
  · rename_i hv
    refine ⟨put_sorted h.1 k v, fun e he => ?_⟩
    rcases mem_put he with he | he
    · subst he; exact hv
    · exact h.2 e he

/-- Unlisting entries keeps the canonical form. -/
theorem filter_canonical {d : α} {m : Sparse α} (h : Sparse.Canonical d m) (p : Nat × α → Bool) :
    Sparse.Canonical d (m.filter p) :=
  ⟨h.1.sublist List.filter_sublist, fun e he => h.2 e (List.mem_filter.mp he).1⟩

end SparseLaws

end Sys2Proof.Machine
end

