-- ==== Sys2Proof/Laws/State.lean ====
section
/-!
SUPPORT. What each update of a record leaves in each of its fields.
-/

namespace Sys2Proof.Machine

open SparseLaws


/-! ## The machine -/

@[simp] theorem State.onChip_agenda (s : State) (f : Chip → Chip) : (s.onChip f).agenda = s.agenda := rfl
@[simp] theorem State.onChip_focus (s : State) (f : Chip → Chip) : (s.onChip f).focus = s.focus := rfl
@[simp] theorem State.onChip_chip (s : State) (f : Chip → Chip) : (s.onChip f).chip = f s.chip := rfl
@[simp] theorem State.onChip_queues (s : State) (f : Chip → Chip) : (s.onChip f).queues = s.queues := rfl
@[simp] theorem State.onChip_binds (s : State) (f : Chip → Chip) : (s.onChip f).binds = s.binds := rfl
@[simp] theorem State.onChip_activation (s : State) (f : Chip → Chip) : (s.onChip f).activation = s.activation := rfl
@[simp] theorem State.onChip_lastServed (s : State) (f : Chip → Chip) : (s.onChip f).lastServed = s.lastServed := rfl
@[simp] theorem State.onChip_errorLog (s : State) (f : Chip → Chip) : (s.onChip f).errorLog = s.errorLog := rfl
@[simp] theorem State.onChip_outbox (s : State) (f : Chip → Chip) : (s.onChip f).outbox = s.outbox := rfl
@[simp] theorem State.onChip_replies (s : State) (f : Chip → Chip) : (s.onChip f).replies = s.replies := rfl
@[simp] theorem State.onChip_tlb (s : State) (f : Chip → Chip) : (s.onChip f).tlb = s.tlb := rfl
@[simp] theorem State.onChip_classes (s : State) (f : Chip → Chip) : (s.onChip f).classes = s.classes := rfl
@[simp] theorem State.onChip_regBlock (s : State) (f : Chip → Chip) : (s.onChip f).regBlock = s.regBlock := rfl
@[simp] theorem State.onChip_chead (s : State) (f : Chip → Chip) : (s.onChip f).chead = s.chead := rfl
@[simp] theorem State.onChip_slipwayFenced (s : State) (f : Chip → Chip) : (s.onChip f).slipwayFenced = s.slipwayFenced := rfl
@[simp] theorem State.onChip_slipwayRetries (s : State) (f : Chip → Chip) : (s.onChip f).slipwayRetries = s.slipwayRetries := rfl
@[simp] theorem State.onChip_frozen (s : State) (f : Chip → Chip) : (s.onChip f).frozen = s.frozen := rfl
@[simp] theorem State.onChip_powered (s : State) (f : Chip → Chip) : (s.onChip f).powered = s.powered := rfl
@[simp] theorem State.onChip_revoked (s : State) (f : Chip → Chip) : (s.onChip f).revoked = s.revoked := rfl
@[simp] theorem State.onChip_leafBlocks (s : State) (f : Chip → Chip) : (s.onChip f).leafBlocks = s.leafBlocks := rfl
@[simp] theorem State.onChip_serial (s : State) (f : Chip → Chip) : (s.onChip f).serial = s.serial := rfl
@[simp] theorem State.onChip_leaf (s : State) (f : Chip → Chip) : (s.onChip f).leaf = s.leaf := rfl
@[simp] theorem State.onChip_corrected (s : State) (f : Chip → Chip) : (s.onChip f).corrected = s.corrected := rfl
@[simp] theorem State.onChip_firmware (s : State) (f : Chip → Chip) : (s.onChip f).firmware = s.firmware := rfl
@[simp] theorem State.onChip_flashed (s : State) (f : Chip → Chip) : (s.onChip f).flashed = s.flashed := rfl
@[simp] theorem State.onChip_main (s : State) (f : Chip → Chip) : (s.onChip f).main = s.main := rfl
@[simp] theorem State.onChip_host (s : State) (f : Chip → Chip) : (s.onChip f).host = s.host := rfl
@[simp] theorem State.onChip_peers (s : State) (f : Chip → Chip) : (s.onChip f).peers = s.peers := rfl
@[simp] theorem State.modQueue_agenda (s : State) (q : Nat) (f : LaunchQueue → LaunchQueue) : (s.modQueue q f).agenda = s.agenda := rfl
@[simp] theorem State.modQueue_focus (s : State) (q : Nat) (f : LaunchQueue → LaunchQueue) : (s.modQueue q f).focus = s.focus := rfl
@[simp] theorem State.modQueue_chip (s : State) (q : Nat) (f : LaunchQueue → LaunchQueue) : (s.modQueue q f).chip = s.chip := rfl
@[simp] theorem State.modQueue_queues (s : State) (q : Nat) (f : LaunchQueue → LaunchQueue) : (s.modQueue q f).queues = Sparse.put s.queues q (f (s.queue q)) := rfl
@[simp] theorem State.modQueue_binds (s : State) (q : Nat) (f : LaunchQueue → LaunchQueue) : (s.modQueue q f).binds = s.binds := rfl
@[simp] theorem State.modQueue_activation (s : State) (q : Nat) (f : LaunchQueue → LaunchQueue) : (s.modQueue q f).activation = s.activation := rfl
@[simp] theorem State.modQueue_lastServed (s : State) (q : Nat) (f : LaunchQueue → LaunchQueue) : (s.modQueue q f).lastServed = s.lastServed := rfl
@[simp] theorem State.modQueue_errorLog (s : State) (q : Nat) (f : LaunchQueue → LaunchQueue) : (s.modQueue q f).errorLog = s.errorLog := rfl
@[simp] theorem State.modQueue_outbox (s : State) (q : Nat) (f : LaunchQueue → LaunchQueue) : (s.modQueue q f).outbox = s.outbox := rfl
@[simp] theorem State.modQueue_replies (s : State) (q : Nat) (f : LaunchQueue → LaunchQueue) : (s.modQueue q f).replies = s.replies := rfl
@[simp] theorem State.modQueue_tlb (s : State) (q : Nat) (f : LaunchQueue → LaunchQueue) : (s.modQueue q f).tlb = s.tlb := rfl
@[simp] theorem State.modQueue_classes (s : State) (q : Nat) (f : LaunchQueue → LaunchQueue) : (s.modQueue q f).classes = s.classes := rfl
@[simp] theorem State.modQueue_regBlock (s : State) (q : Nat) (f : LaunchQueue → LaunchQueue) : (s.modQueue q f).regBlock = s.regBlock := rfl
@[simp] theorem State.modQueue_chead (s : State) (q : Nat) (f : LaunchQueue → LaunchQueue) : (s.modQueue q f).chead = s.chead := rfl
@[simp] theorem State.modQueue_slipwayFenced (s : State) (q : Nat) (f : LaunchQueue → LaunchQueue) : (s.modQueue q f).slipwayFenced = s.slipwayFenced := rfl
@[simp] theorem State.modQueue_slipwayRetries (s : State) (q : Nat) (f : LaunchQueue → LaunchQueue) : (s.modQueue q f).slipwayRetries = s.slipwayRetries := rfl
@[simp] theorem State.modQueue_frozen (s : State) (q : Nat) (f : LaunchQueue → LaunchQueue) : (s.modQueue q f).frozen = s.frozen := rfl
@[simp] theorem State.modQueue_powered (s : State) (q : Nat) (f : LaunchQueue → LaunchQueue) : (s.modQueue q f).powered = s.powered := rfl
@[simp] theorem State.modQueue_revoked (s : State) (q : Nat) (f : LaunchQueue → LaunchQueue) : (s.modQueue q f).revoked = s.revoked := rfl
@[simp] theorem State.modQueue_leafBlocks (s : State) (q : Nat) (f : LaunchQueue → LaunchQueue) : (s.modQueue q f).leafBlocks = s.leafBlocks := rfl
@[simp] theorem State.modQueue_serial (s : State) (q : Nat) (f : LaunchQueue → LaunchQueue) : (s.modQueue q f).serial = s.serial := rfl
@[simp] theorem State.modQueue_leaf (s : State) (q : Nat) (f : LaunchQueue → LaunchQueue) : (s.modQueue q f).leaf = s.leaf := rfl
@[simp] theorem State.modQueue_corrected (s : State) (q : Nat) (f : LaunchQueue → LaunchQueue) : (s.modQueue q f).corrected = s.corrected := rfl
@[simp] theorem State.modQueue_firmware (s : State) (q : Nat) (f : LaunchQueue → LaunchQueue) : (s.modQueue q f).firmware = s.firmware := rfl
@[simp] theorem State.modQueue_flashed (s : State) (q : Nat) (f : LaunchQueue → LaunchQueue) : (s.modQueue q f).flashed = s.flashed := rfl
@[simp] theorem State.modQueue_main (s : State) (q : Nat) (f : LaunchQueue → LaunchQueue) : (s.modQueue q f).main = s.main := rfl
@[simp] theorem State.modQueue_host (s : State) (q : Nat) (f : LaunchQueue → LaunchQueue) : (s.modQueue q f).host = s.host := rfl
@[simp] theorem State.modQueue_peers (s : State) (q : Nat) (f : LaunchQueue → LaunchQueue) : (s.modQueue q f).peers = s.peers := rfl
@[simp] theorem State.hostWrite_agenda (s : State) (a k : Nat) (bs : List Byte) : (s.hostWrite a k bs).agenda = s.agenda := rfl
@[simp] theorem State.hostWrite_focus (s : State) (a k : Nat) (bs : List Byte) : (s.hostWrite a k bs).focus = s.focus := rfl
@[simp] theorem State.hostWrite_chip (s : State) (a k : Nat) (bs : List Byte) : (s.hostWrite a k bs).chip = s.chip := rfl
@[simp] theorem State.hostWrite_queues (s : State) (a k : Nat) (bs : List Byte) : (s.hostWrite a k bs).queues = s.queues := rfl
@[simp] theorem State.hostWrite_binds (s : State) (a k : Nat) (bs : List Byte) : (s.hostWrite a k bs).binds = s.binds := rfl
@[simp] theorem State.hostWrite_activation (s : State) (a k : Nat) (bs : List Byte) : (s.hostWrite a k bs).activation = s.activation := rfl
@[simp] theorem State.hostWrite_lastServed (s : State) (a k : Nat) (bs : List Byte) : (s.hostWrite a k bs).lastServed = s.lastServed := rfl
@[simp] theorem State.hostWrite_errorLog (s : State) (a k : Nat) (bs : List Byte) : (s.hostWrite a k bs).errorLog = s.errorLog := rfl
@[simp] theorem State.hostWrite_outbox (s : State) (a k : Nat) (bs : List Byte) : (s.hostWrite a k bs).outbox = s.outbox := rfl
@[simp] theorem State.hostWrite_replies (s : State) (a k : Nat) (bs : List Byte) : (s.hostWrite a k bs).replies = s.replies := rfl
@[simp] theorem State.hostWrite_tlb (s : State) (a k : Nat) (bs : List Byte) : (s.hostWrite a k bs).tlb = s.tlb := rfl
@[simp] theorem State.hostWrite_classes (s : State) (a k : Nat) (bs : List Byte) : (s.hostWrite a k bs).classes = s.classes := rfl
@[simp] theorem State.hostWrite_regBlock (s : State) (a k : Nat) (bs : List Byte) : (s.hostWrite a k bs).regBlock = s.regBlock := rfl
@[simp] theorem State.hostWrite_chead (s : State) (a k : Nat) (bs : List Byte) : (s.hostWrite a k bs).chead = s.chead := rfl
@[simp] theorem State.hostWrite_slipwayFenced (s : State) (a k : Nat) (bs : List Byte) : (s.hostWrite a k bs).slipwayFenced = s.slipwayFenced := rfl
@[simp] theorem State.hostWrite_slipwayRetries (s : State) (a k : Nat) (bs : List Byte) : (s.hostWrite a k bs).slipwayRetries = s.slipwayRetries := rfl
@[simp] theorem State.hostWrite_frozen (s : State) (a k : Nat) (bs : List Byte) : (s.hostWrite a k bs).frozen = s.frozen := rfl
@[simp] theorem State.hostWrite_powered (s : State) (a k : Nat) (bs : List Byte) : (s.hostWrite a k bs).powered = s.powered := rfl
@[simp] theorem State.hostWrite_revoked (s : State) (a k : Nat) (bs : List Byte) : (s.hostWrite a k bs).revoked = s.revoked := rfl
@[simp] theorem State.hostWrite_leafBlocks (s : State) (a k : Nat) (bs : List Byte) : (s.hostWrite a k bs).leafBlocks = s.leafBlocks := rfl
@[simp] theorem State.hostWrite_serial (s : State) (a k : Nat) (bs : List Byte) : (s.hostWrite a k bs).serial = s.serial := rfl
@[simp] theorem State.hostWrite_leaf (s : State) (a k : Nat) (bs : List Byte) : (s.hostWrite a k bs).leaf = s.leaf := rfl
@[simp] theorem State.hostWrite_corrected (s : State) (a k : Nat) (bs : List Byte) : (s.hostWrite a k bs).corrected = s.corrected := rfl
@[simp] theorem State.hostWrite_firmware (s : State) (a k : Nat) (bs : List Byte) : (s.hostWrite a k bs).firmware = s.firmware := rfl
@[simp] theorem State.hostWrite_flashed (s : State) (a k : Nat) (bs : List Byte) : (s.hostWrite a k bs).flashed = s.flashed := rfl
@[simp] theorem State.hostWrite_main (s : State) (a k : Nat) (bs : List Byte) : (s.hostWrite a k bs).main = s.main := rfl
@[simp] theorem State.hostWrite_peers (s : State) (a k : Nat) (bs : List Byte) : (s.hostWrite a k bs).peers = s.peers := rfl

/-! ## The chip -/

@[simp] theorem Chip.modWarp_cycle (c : Chip) (w : Nat) (f : Warp → Warp) : (c.modWarp w f).cycle = c.cycle := rfl
@[simp] theorem Chip.modWarp_ps (c : Chip) (w : Nat) (f : Warp → Warp) : (c.modWarp w f).ps = c.ps := rfl
@[simp] theorem Chip.modWarp_mhz (c : Chip) (w : Nat) (f : Warp → Warp) : (c.modWarp w f).mhz = c.mhz := rfl
@[simp] theorem Chip.modWarp_warps (c : Chip) (w : Nat) (f : Warp → Warp) : (c.modWarp w f).warps = Sparse.modify c.warps w f := rfl
@[simp] theorem Chip.modWarp_blocks (c : Chip) (w : Nat) (f : Warp → Warp) : (c.modWarp w f).blocks = c.blocks := rfl
@[simp] theorem Chip.modWarp_launches (c : Chip) (w : Nat) (f : Warp → Warp) : (c.modWarp w f).launches = c.launches := rfl
@[simp] theorem Chip.modWarp_contexts (c : Chip) (w : Nat) (f : Warp → Warp) : (c.modWarp w f).contexts = c.contexts := rfl
@[simp] theorem Chip.modWarp_crucibles (c : Chip) (w : Nat) (f : Warp → Warp) : (c.modWarp w f).crucibles = c.crucibles := rfl
@[simp] theorem Chip.modWarp_cores (c : Chip) (w : Nat) (f : Warp → Warp) : (c.modWarp w f).cores = c.cores := rfl
@[simp] theorem Chip.modWarp_jobs (c : Chip) (w : Nat) (f : Warp → Warp) : (c.modWarp w f).jobs = c.jobs := rfl
@[simp] theorem Chip.modWarp_banks (c : Chip) (w : Nat) (f : Warp → Warp) : (c.modWarp w f).banks = c.banks := rfl
@[simp] theorem Chip.modWarp_bank (c : Chip) (w : Nat) (f : Warp → Warp) : (c.modWarp w f).bank = c.bank := rfl
@[simp] theorem Chip.modWarp_gen (c : Chip) (w : Nat) (f : Warp → Warp) : (c.modWarp w f).gen = c.gen := rfl
@[simp] theorem Chip.modWarp_scratch (c : Chip) (w : Nat) (f : Warp → Warp) : (c.modWarp w f).scratch = c.scratch := rfl
@[simp] theorem Chip.modWarp_spill (c : Chip) (w : Nat) (f : Warp → Warp) : (c.modWarp w f).spill = c.spill := rfl
@[simp] theorem Chip.modWarp_watches (c : Chip) (w : Nat) (f : Warp → Warp) : (c.modWarp w f).watches = c.watches := rfl
@[simp] theorem Chip.modWarp_traceOut (c : Chip) (w : Nat) (f : Warp → Warp) : (c.modWarp w f).traceOut = c.traceOut := rfl
@[simp] theorem Chip.modWarp_recs (c : Chip) (w : Nat) (f : Warp → Warp) : (c.modWarp w f).recs = c.recs := rfl
@[simp] theorem Chip.modWarp_services (c : Chip) (w : Nat) (f : Warp → Warp) : (c.modWarp w f).services = c.services := rfl
@[simp] theorem Chip.modWarp_failures (c : Chip) (w : Nat) (f : Warp → Warp) : (c.modWarp w f).failures = c.failures := rfl
@[simp] theorem Chip.modWarp_fencedChannels (c : Chip) (w : Nat) (f : Warp → Warp) : (c.modWarp w f).fencedChannels = c.fencedChannels := rfl
@[simp] theorem Chip.modWarp_fencedRqt (c : Chip) (w : Nat) (f : Warp → Warp) : (c.modWarp w f).fencedRqt = c.fencedRqt := rfl
@[simp] theorem Chip.modWarp_towlines (c : Chip) (w : Nat) (f : Warp → Warp) : (c.modWarp w f).towlines = c.towlines := rfl
@[simp] theorem Chip.modWarp_next (c : Chip) (w : Nat) (f : Warp → Warp) : (c.modWarp w f).next = c.next := rfl
@[simp] theorem Chip.modWarp_choices (c : Chip) (w : Nat) (f : Warp → Warp) : (c.modWarp w f).choices = c.choices := rfl
@[simp] theorem Chip.modWarp_inject (c : Chip) (w : Nat) (f : Warp → Warp) : (c.modWarp w f).inject = c.inject := rfl
@[simp] theorem Chip.modWarp_freeCount (c : Chip) (w : Nat) (f : Warp → Warp) : (c.modWarp w f).freeCount = c.freeCount := rfl
@[simp] theorem Chip.modBlock_cycle (c : Chip) (b : Nat) (f : Block → Block) : (c.modBlock b f).cycle = c.cycle := rfl
@[simp] theorem Chip.modBlock_ps (c : Chip) (b : Nat) (f : Block → Block) : (c.modBlock b f).ps = c.ps := rfl
@[simp] theorem Chip.modBlock_mhz (c : Chip) (b : Nat) (f : Block → Block) : (c.modBlock b f).mhz = c.mhz := rfl
@[simp] theorem Chip.modBlock_warps (c : Chip) (b : Nat) (f : Block → Block) : (c.modBlock b f).warps = c.warps := rfl
@[simp] theorem Chip.modBlock_blocks (c : Chip) (b : Nat) (f : Block → Block) : (c.modBlock b f).blocks = Sparse.modify c.blocks b f := rfl
@[simp] theorem Chip.modBlock_launches (c : Chip) (b : Nat) (f : Block → Block) : (c.modBlock b f).launches = c.launches := rfl
@[simp] theorem Chip.modBlock_contexts (c : Chip) (b : Nat) (f : Block → Block) : (c.modBlock b f).contexts = c.contexts := rfl
@[simp] theorem Chip.modBlock_crucibles (c : Chip) (b : Nat) (f : Block → Block) : (c.modBlock b f).crucibles = c.crucibles := rfl
@[simp] theorem Chip.modBlock_cores (c : Chip) (b : Nat) (f : Block → Block) : (c.modBlock b f).cores = c.cores := rfl
@[simp] theorem Chip.modBlock_jobs (c : Chip) (b : Nat) (f : Block → Block) : (c.modBlock b f).jobs = c.jobs := rfl
@[simp] theorem Chip.modBlock_banks (c : Chip) (b : Nat) (f : Block → Block) : (c.modBlock b f).banks = c.banks := rfl
@[simp] theorem Chip.modBlock_bank (c : Chip) (b : Nat) (f : Block → Block) : (c.modBlock b f).bank = c.bank := rfl
@[simp] theorem Chip.modBlock_gen (c : Chip) (b : Nat) (f : Block → Block) : (c.modBlock b f).gen = c.gen := rfl
@[simp] theorem Chip.modBlock_scratch (c : Chip) (b : Nat) (f : Block → Block) : (c.modBlock b f).scratch = c.scratch := rfl
@[simp] theorem Chip.modBlock_spill (c : Chip) (b : Nat) (f : Block → Block) : (c.modBlock b f).spill = c.spill := rfl
@[simp] theorem Chip.modBlock_watches (c : Chip) (b : Nat) (f : Block → Block) : (c.modBlock b f).watches = c.watches := rfl
@[simp] theorem Chip.modBlock_traceOut (c : Chip) (b : Nat) (f : Block → Block) : (c.modBlock b f).traceOut = c.traceOut := rfl
@[simp] theorem Chip.modBlock_recs (c : Chip) (b : Nat) (f : Block → Block) : (c.modBlock b f).recs = c.recs := rfl
@[simp] theorem Chip.modBlock_services (c : Chip) (b : Nat) (f : Block → Block) : (c.modBlock b f).services = c.services := rfl
@[simp] theorem Chip.modBlock_failures (c : Chip) (b : Nat) (f : Block → Block) : (c.modBlock b f).failures = c.failures := rfl
@[simp] theorem Chip.modBlock_fencedChannels (c : Chip) (b : Nat) (f : Block → Block) : (c.modBlock b f).fencedChannels = c.fencedChannels := rfl
@[simp] theorem Chip.modBlock_fencedRqt (c : Chip) (b : Nat) (f : Block → Block) : (c.modBlock b f).fencedRqt = c.fencedRqt := rfl
@[simp] theorem Chip.modBlock_towlines (c : Chip) (b : Nat) (f : Block → Block) : (c.modBlock b f).towlines = c.towlines := rfl
@[simp] theorem Chip.modBlock_next (c : Chip) (b : Nat) (f : Block → Block) : (c.modBlock b f).next = c.next := rfl
@[simp] theorem Chip.modBlock_choices (c : Chip) (b : Nat) (f : Block → Block) : (c.modBlock b f).choices = c.choices := rfl
@[simp] theorem Chip.modBlock_inject (c : Chip) (b : Nat) (f : Block → Block) : (c.modBlock b f).inject = c.inject := rfl
@[simp] theorem Chip.modBlock_freeCount (c : Chip) (b : Nat) (f : Block → Block) : (c.modBlock b f).freeCount = c.freeCount := rfl
@[simp] theorem Chip.modLaunch_cycle (c : Chip) (n : Nat) (f : Launch → Launch) : (c.modLaunch n f).cycle = c.cycle := rfl
@[simp] theorem Chip.modLaunch_ps (c : Chip) (n : Nat) (f : Launch → Launch) : (c.modLaunch n f).ps = c.ps := rfl
@[simp] theorem Chip.modLaunch_mhz (c : Chip) (n : Nat) (f : Launch → Launch) : (c.modLaunch n f).mhz = c.mhz := rfl
@[simp] theorem Chip.modLaunch_warps (c : Chip) (n : Nat) (f : Launch → Launch) : (c.modLaunch n f).warps = c.warps := rfl
@[simp] theorem Chip.modLaunch_blocks (c : Chip) (n : Nat) (f : Launch → Launch) : (c.modLaunch n f).blocks = c.blocks := rfl
@[simp] theorem Chip.modLaunch_launches (c : Chip) (n : Nat) (f : Launch → Launch) : (c.modLaunch n f).launches = Sparse.modify c.launches n f := rfl
@[simp] theorem Chip.modLaunch_contexts (c : Chip) (n : Nat) (f : Launch → Launch) : (c.modLaunch n f).contexts = c.contexts := rfl
@[simp] theorem Chip.modLaunch_crucibles (c : Chip) (n : Nat) (f : Launch → Launch) : (c.modLaunch n f).crucibles = c.crucibles := rfl
@[simp] theorem Chip.modLaunch_cores (c : Chip) (n : Nat) (f : Launch → Launch) : (c.modLaunch n f).cores = c.cores := rfl
@[simp] theorem Chip.modLaunch_jobs (c : Chip) (n : Nat) (f : Launch → Launch) : (c.modLaunch n f).jobs = c.jobs := rfl
@[simp] theorem Chip.modLaunch_banks (c : Chip) (n : Nat) (f : Launch → Launch) : (c.modLaunch n f).banks = c.banks := rfl
@[simp] theorem Chip.modLaunch_bank (c : Chip) (n : Nat) (f : Launch → Launch) : (c.modLaunch n f).bank = c.bank := rfl
@[simp] theorem Chip.modLaunch_gen (c : Chip) (n : Nat) (f : Launch → Launch) : (c.modLaunch n f).gen = c.gen := rfl
@[simp] theorem Chip.modLaunch_scratch (c : Chip) (n : Nat) (f : Launch → Launch) : (c.modLaunch n f).scratch = c.scratch := rfl
@[simp] theorem Chip.modLaunch_spill (c : Chip) (n : Nat) (f : Launch → Launch) : (c.modLaunch n f).spill = c.spill := rfl
@[simp] theorem Chip.modLaunch_watches (c : Chip) (n : Nat) (f : Launch → Launch) : (c.modLaunch n f).watches = c.watches := rfl
@[simp] theorem Chip.modLaunch_traceOut (c : Chip) (n : Nat) (f : Launch → Launch) : (c.modLaunch n f).traceOut = c.traceOut := rfl
@[simp] theorem Chip.modLaunch_recs (c : Chip) (n : Nat) (f : Launch → Launch) : (c.modLaunch n f).recs = c.recs := rfl
@[simp] theorem Chip.modLaunch_services (c : Chip) (n : Nat) (f : Launch → Launch) : (c.modLaunch n f).services = c.services := rfl
@[simp] theorem Chip.modLaunch_failures (c : Chip) (n : Nat) (f : Launch → Launch) : (c.modLaunch n f).failures = c.failures := rfl
@[simp] theorem Chip.modLaunch_fencedChannels (c : Chip) (n : Nat) (f : Launch → Launch) : (c.modLaunch n f).fencedChannels = c.fencedChannels := rfl
@[simp] theorem Chip.modLaunch_fencedRqt (c : Chip) (n : Nat) (f : Launch → Launch) : (c.modLaunch n f).fencedRqt = c.fencedRqt := rfl
@[simp] theorem Chip.modLaunch_towlines (c : Chip) (n : Nat) (f : Launch → Launch) : (c.modLaunch n f).towlines = c.towlines := rfl
@[simp] theorem Chip.modLaunch_next (c : Chip) (n : Nat) (f : Launch → Launch) : (c.modLaunch n f).next = c.next := rfl
@[simp] theorem Chip.modLaunch_choices (c : Chip) (n : Nat) (f : Launch → Launch) : (c.modLaunch n f).choices = c.choices := rfl
@[simp] theorem Chip.modLaunch_inject (c : Chip) (n : Nat) (f : Launch → Launch) : (c.modLaunch n f).inject = c.inject := rfl
@[simp] theorem Chip.modLaunch_freeCount (c : Chip) (n : Nat) (f : Launch → Launch) : (c.modLaunch n f).freeCount = c.freeCount := rfl
@[simp] theorem Chip.modContext_cycle (c : Chip) (x : Nat) (f : Context → Context) : (c.modContext x f).cycle = c.cycle := rfl
@[simp] theorem Chip.modContext_ps (c : Chip) (x : Nat) (f : Context → Context) : (c.modContext x f).ps = c.ps := rfl
@[simp] theorem Chip.modContext_mhz (c : Chip) (x : Nat) (f : Context → Context) : (c.modContext x f).mhz = c.mhz := rfl
@[simp] theorem Chip.modContext_warps (c : Chip) (x : Nat) (f : Context → Context) : (c.modContext x f).warps = c.warps := rfl
@[simp] theorem Chip.modContext_blocks (c : Chip) (x : Nat) (f : Context → Context) : (c.modContext x f).blocks = c.blocks := rfl
@[simp] theorem Chip.modContext_launches (c : Chip) (x : Nat) (f : Context → Context) : (c.modContext x f).launches = c.launches := rfl
@[simp] theorem Chip.modContext_contexts (c : Chip) (x : Nat) (f : Context → Context) : (c.modContext x f).contexts = Sparse.put c.contexts x (f (c.context x)) := rfl
@[simp] theorem Chip.modContext_crucibles (c : Chip) (x : Nat) (f : Context → Context) : (c.modContext x f).crucibles = c.crucibles := rfl
@[simp] theorem Chip.modContext_cores (c : Chip) (x : Nat) (f : Context → Context) : (c.modContext x f).cores = c.cores := rfl
@[simp] theorem Chip.modContext_jobs (c : Chip) (x : Nat) (f : Context → Context) : (c.modContext x f).jobs = c.jobs := rfl
@[simp] theorem Chip.modContext_banks (c : Chip) (x : Nat) (f : Context → Context) : (c.modContext x f).banks = c.banks := rfl
@[simp] theorem Chip.modContext_bank (c : Chip) (x : Nat) (f : Context → Context) : (c.modContext x f).bank = c.bank := rfl
@[simp] theorem Chip.modContext_gen (c : Chip) (x : Nat) (f : Context → Context) : (c.modContext x f).gen = c.gen := rfl
@[simp] theorem Chip.modContext_scratch (c : Chip) (x : Nat) (f : Context → Context) : (c.modContext x f).scratch = c.scratch := rfl
@[simp] theorem Chip.modContext_spill (c : Chip) (x : Nat) (f : Context → Context) : (c.modContext x f).spill = c.spill := rfl
@[simp] theorem Chip.modContext_watches (c : Chip) (x : Nat) (f : Context → Context) : (c.modContext x f).watches = c.watches := rfl
@[simp] theorem Chip.modContext_traceOut (c : Chip) (x : Nat) (f : Context → Context) : (c.modContext x f).traceOut = c.traceOut := rfl
@[simp] theorem Chip.modContext_recs (c : Chip) (x : Nat) (f : Context → Context) : (c.modContext x f).recs = c.recs := rfl
@[simp] theorem Chip.modContext_services (c : Chip) (x : Nat) (f : Context → Context) : (c.modContext x f).services = c.services := rfl
@[simp] theorem Chip.modContext_failures (c : Chip) (x : Nat) (f : Context → Context) : (c.modContext x f).failures = c.failures := rfl
@[simp] theorem Chip.modContext_fencedChannels (c : Chip) (x : Nat) (f : Context → Context) : (c.modContext x f).fencedChannels = c.fencedChannels := rfl
@[simp] theorem Chip.modContext_fencedRqt (c : Chip) (x : Nat) (f : Context → Context) : (c.modContext x f).fencedRqt = c.fencedRqt := rfl
@[simp] theorem Chip.modContext_towlines (c : Chip) (x : Nat) (f : Context → Context) : (c.modContext x f).towlines = c.towlines := rfl
@[simp] theorem Chip.modContext_next (c : Chip) (x : Nat) (f : Context → Context) : (c.modContext x f).next = c.next := rfl
@[simp] theorem Chip.modContext_choices (c : Chip) (x : Nat) (f : Context → Context) : (c.modContext x f).choices = c.choices := rfl
@[simp] theorem Chip.modContext_inject (c : Chip) (x : Nat) (f : Context → Context) : (c.modContext x f).inject = c.inject := rfl
@[simp] theorem Chip.modContext_freeCount (c : Chip) (x : Nat) (f : Context → Context) : (c.modContext x f).freeCount = c.freeCount := rfl
@[simp] theorem Chip.modCore_cycle (c : Chip) (k : Nat) (f : Core → Core) : (c.modCore k f).cycle = c.cycle := rfl
@[simp] theorem Chip.modCore_ps (c : Chip) (k : Nat) (f : Core → Core) : (c.modCore k f).ps = c.ps := rfl
@[simp] theorem Chip.modCore_mhz (c : Chip) (k : Nat) (f : Core → Core) : (c.modCore k f).mhz = c.mhz := rfl
@[simp] theorem Chip.modCore_warps (c : Chip) (k : Nat) (f : Core → Core) : (c.modCore k f).warps = c.warps := rfl
@[simp] theorem Chip.modCore_blocks (c : Chip) (k : Nat) (f : Core → Core) : (c.modCore k f).blocks = c.blocks := rfl
@[simp] theorem Chip.modCore_launches (c : Chip) (k : Nat) (f : Core → Core) : (c.modCore k f).launches = c.launches := rfl
@[simp] theorem Chip.modCore_contexts (c : Chip) (k : Nat) (f : Core → Core) : (c.modCore k f).contexts = c.contexts := rfl
@[simp] theorem Chip.modCore_crucibles (c : Chip) (k : Nat) (f : Core → Core) : (c.modCore k f).crucibles = c.crucibles := rfl
@[simp] theorem Chip.modCore_cores (c : Chip) (k : Nat) (f : Core → Core) : (c.modCore k f).cores = Sparse.put c.cores k (f (c.core k)) := rfl
@[simp] theorem Chip.modCore_jobs (c : Chip) (k : Nat) (f : Core → Core) : (c.modCore k f).jobs = c.jobs := rfl
@[simp] theorem Chip.modCore_banks (c : Chip) (k : Nat) (f : Core → Core) : (c.modCore k f).banks = c.banks := rfl
@[simp] theorem Chip.modCore_bank (c : Chip) (k : Nat) (f : Core → Core) : (c.modCore k f).bank = c.bank := rfl
@[simp] theorem Chip.modCore_gen (c : Chip) (k : Nat) (f : Core → Core) : (c.modCore k f).gen = c.gen := rfl
@[simp] theorem Chip.modCore_scratch (c : Chip) (k : Nat) (f : Core → Core) : (c.modCore k f).scratch = c.scratch := rfl
@[simp] theorem Chip.modCore_spill (c : Chip) (k : Nat) (f : Core → Core) : (c.modCore k f).spill = c.spill := rfl
@[simp] theorem Chip.modCore_watches (c : Chip) (k : Nat) (f : Core → Core) : (c.modCore k f).watches = c.watches := rfl
@[simp] theorem Chip.modCore_traceOut (c : Chip) (k : Nat) (f : Core → Core) : (c.modCore k f).traceOut = c.traceOut := rfl
@[simp] theorem Chip.modCore_recs (c : Chip) (k : Nat) (f : Core → Core) : (c.modCore k f).recs = c.recs := rfl
@[simp] theorem Chip.modCore_services (c : Chip) (k : Nat) (f : Core → Core) : (c.modCore k f).services = c.services := rfl
@[simp] theorem Chip.modCore_failures (c : Chip) (k : Nat) (f : Core → Core) : (c.modCore k f).failures = c.failures := rfl
@[simp] theorem Chip.modCore_fencedChannels (c : Chip) (k : Nat) (f : Core → Core) : (c.modCore k f).fencedChannels = c.fencedChannels := rfl
@[simp] theorem Chip.modCore_fencedRqt (c : Chip) (k : Nat) (f : Core → Core) : (c.modCore k f).fencedRqt = c.fencedRqt := rfl
@[simp] theorem Chip.modCore_towlines (c : Chip) (k : Nat) (f : Core → Core) : (c.modCore k f).towlines = c.towlines := rfl
@[simp] theorem Chip.modCore_next (c : Chip) (k : Nat) (f : Core → Core) : (c.modCore k f).next = c.next := rfl
@[simp] theorem Chip.modCore_choices (c : Chip) (k : Nat) (f : Core → Core) : (c.modCore k f).choices = c.choices := rfl
@[simp] theorem Chip.modCore_inject (c : Chip) (k : Nat) (f : Core → Core) : (c.modCore k f).inject = c.inject := rfl
@[simp] theorem Chip.modCore_freeCount (c : Chip) (k : Nat) (f : Core → Core) : (c.modCore k f).freeCount = c.freeCount := rfl
@[simp] theorem Chip.modCrucible_cycle (c : Chip) (k : Nat) (f : Crucible → Crucible) : (c.modCrucible k f).cycle = c.cycle := rfl
@[simp] theorem Chip.modCrucible_ps (c : Chip) (k : Nat) (f : Crucible → Crucible) : (c.modCrucible k f).ps = c.ps := rfl
@[simp] theorem Chip.modCrucible_mhz (c : Chip) (k : Nat) (f : Crucible → Crucible) : (c.modCrucible k f).mhz = c.mhz := rfl
@[simp] theorem Chip.modCrucible_warps (c : Chip) (k : Nat) (f : Crucible → Crucible) : (c.modCrucible k f).warps = c.warps := rfl
@[simp] theorem Chip.modCrucible_blocks (c : Chip) (k : Nat) (f : Crucible → Crucible) : (c.modCrucible k f).blocks = c.blocks := rfl
@[simp] theorem Chip.modCrucible_launches (c : Chip) (k : Nat) (f : Crucible → Crucible) : (c.modCrucible k f).launches = c.launches := rfl
@[simp] theorem Chip.modCrucible_contexts (c : Chip) (k : Nat) (f : Crucible → Crucible) : (c.modCrucible k f).contexts = c.contexts := rfl
@[simp] theorem Chip.modCrucible_crucibles (c : Chip) (k : Nat) (f : Crucible → Crucible) : (c.modCrucible k f).crucibles = Sparse.put c.crucibles k (f (c.crucible k)) := rfl
@[simp] theorem Chip.modCrucible_cores (c : Chip) (k : Nat) (f : Crucible → Crucible) : (c.modCrucible k f).cores = c.cores := rfl
@[simp] theorem Chip.modCrucible_jobs (c : Chip) (k : Nat) (f : Crucible → Crucible) : (c.modCrucible k f).jobs = c.jobs := rfl
@[simp] theorem Chip.modCrucible_banks (c : Chip) (k : Nat) (f : Crucible → Crucible) : (c.modCrucible k f).banks = c.banks := rfl
@[simp] theorem Chip.modCrucible_bank (c : Chip) (k : Nat) (f : Crucible → Crucible) : (c.modCrucible k f).bank = c.bank := rfl
@[simp] theorem Chip.modCrucible_gen (c : Chip) (k : Nat) (f : Crucible → Crucible) : (c.modCrucible k f).gen = c.gen := rfl
@[simp] theorem Chip.modCrucible_scratch (c : Chip) (k : Nat) (f : Crucible → Crucible) : (c.modCrucible k f).scratch = c.scratch := rfl
@[simp] theorem Chip.modCrucible_spill (c : Chip) (k : Nat) (f : Crucible → Crucible) : (c.modCrucible k f).spill = c.spill := rfl
@[simp] theorem Chip.modCrucible_watches (c : Chip) (k : Nat) (f : Crucible → Crucible) : (c.modCrucible k f).watches = c.watches := rfl
@[simp] theorem Chip.modCrucible_traceOut (c : Chip) (k : Nat) (f : Crucible → Crucible) : (c.modCrucible k f).traceOut = c.traceOut := rfl
@[simp] theorem Chip.modCrucible_recs (c : Chip) (k : Nat) (f : Crucible → Crucible) : (c.modCrucible k f).recs = c.recs := rfl
@[simp] theorem Chip.modCrucible_services (c : Chip) (k : Nat) (f : Crucible → Crucible) : (c.modCrucible k f).services = c.services := rfl
@[simp] theorem Chip.modCrucible_failures (c : Chip) (k : Nat) (f : Crucible → Crucible) : (c.modCrucible k f).failures = c.failures := rfl
@[simp] theorem Chip.modCrucible_fencedChannels (c : Chip) (k : Nat) (f : Crucible → Crucible) : (c.modCrucible k f).fencedChannels = c.fencedChannels := rfl
@[simp] theorem Chip.modCrucible_fencedRqt (c : Chip) (k : Nat) (f : Crucible → Crucible) : (c.modCrucible k f).fencedRqt = c.fencedRqt := rfl
@[simp] theorem Chip.modCrucible_towlines (c : Chip) (k : Nat) (f : Crucible → Crucible) : (c.modCrucible k f).towlines = c.towlines := rfl
@[simp] theorem Chip.modCrucible_next (c : Chip) (k : Nat) (f : Crucible → Crucible) : (c.modCrucible k f).next = c.next := rfl
@[simp] theorem Chip.modCrucible_choices (c : Chip) (k : Nat) (f : Crucible → Crucible) : (c.modCrucible k f).choices = c.choices := rfl
@[simp] theorem Chip.modCrucible_inject (c : Chip) (k : Nat) (f : Crucible → Crucible) : (c.modCrucible k f).inject = c.inject := rfl
@[simp] theorem Chip.modCrucible_freeCount (c : Chip) (k : Nat) (f : Crucible → Crucible) : (c.modCrucible k f).freeCount = c.freeCount := rfl
@[simp] theorem Chip.advance_cycle (c : Chip) (n : Nat) : (c.advance n).cycle = c.cycle + n := rfl
@[simp] theorem Chip.advance_mhz (c : Chip) (n : Nat) : (c.advance n).mhz = c.mhz := rfl
@[simp] theorem Chip.advance_warps (c : Chip) (n : Nat) : (c.advance n).warps = c.warps := rfl
@[simp] theorem Chip.advance_blocks (c : Chip) (n : Nat) : (c.advance n).blocks = c.blocks := rfl
@[simp] theorem Chip.advance_launches (c : Chip) (n : Nat) : (c.advance n).launches = c.launches := rfl
@[simp] theorem Chip.advance_contexts (c : Chip) (n : Nat) : (c.advance n).contexts = c.contexts := rfl
@[simp] theorem Chip.advance_crucibles (c : Chip) (n : Nat) : (c.advance n).crucibles = c.crucibles := rfl
@[simp] theorem Chip.advance_cores (c : Chip) (n : Nat) : (c.advance n).cores = c.cores := rfl
@[simp] theorem Chip.advance_jobs (c : Chip) (n : Nat) : (c.advance n).jobs = c.jobs := rfl
@[simp] theorem Chip.advance_banks (c : Chip) (n : Nat) : (c.advance n).banks = c.banks := rfl
@[simp] theorem Chip.advance_bank (c : Chip) (n : Nat) : (c.advance n).bank = c.bank := rfl
@[simp] theorem Chip.advance_gen (c : Chip) (n : Nat) : (c.advance n).gen = c.gen := rfl
@[simp] theorem Chip.advance_scratch (c : Chip) (n : Nat) : (c.advance n).scratch = c.scratch := rfl
@[simp] theorem Chip.advance_spill (c : Chip) (n : Nat) : (c.advance n).spill = c.spill := rfl
@[simp] theorem Chip.advance_watches (c : Chip) (n : Nat) : (c.advance n).watches = c.watches := rfl
@[simp] theorem Chip.advance_traceOut (c : Chip) (n : Nat) : (c.advance n).traceOut = c.traceOut := rfl
@[simp] theorem Chip.advance_recs (c : Chip) (n : Nat) : (c.advance n).recs = c.recs := rfl
@[simp] theorem Chip.advance_services (c : Chip) (n : Nat) : (c.advance n).services = c.services := rfl
@[simp] theorem Chip.advance_failures (c : Chip) (n : Nat) : (c.advance n).failures = c.failures := rfl
@[simp] theorem Chip.advance_fencedChannels (c : Chip) (n : Nat) : (c.advance n).fencedChannels = c.fencedChannels := rfl
@[simp] theorem Chip.advance_fencedRqt (c : Chip) (n : Nat) : (c.advance n).fencedRqt = c.fencedRqt := rfl
@[simp] theorem Chip.advance_towlines (c : Chip) (n : Nat) : (c.advance n).towlines = c.towlines := rfl
@[simp] theorem Chip.advance_next (c : Chip) (n : Nat) : (c.advance n).next = c.next := rfl
@[simp] theorem Chip.advance_choices (c : Chip) (n : Nat) : (c.advance n).choices = c.choices := rfl
@[simp] theorem Chip.advance_inject (c : Chip) (n : Nat) : (c.advance n).inject = c.inject := rfl
@[simp] theorem Chip.advance_freeCount (c : Chip) (n : Nat) : (c.advance n).freeCount = c.freeCount := rfl
@[simp] theorem Chip.count_cycle (c : Chip) (k p leaf n : Nat) : (c.count k p leaf n).cycle = c.cycle := rfl
@[simp] theorem Chip.count_ps (c : Chip) (k p leaf n : Nat) : (c.count k p leaf n).ps = c.ps := rfl
@[simp] theorem Chip.count_mhz (c : Chip) (k p leaf n : Nat) : (c.count k p leaf n).mhz = c.mhz := rfl
@[simp] theorem Chip.count_warps (c : Chip) (k p leaf n : Nat) : (c.count k p leaf n).warps = c.warps := rfl
@[simp] theorem Chip.count_blocks (c : Chip) (k p leaf n : Nat) : (c.count k p leaf n).blocks = c.blocks := rfl
@[simp] theorem Chip.count_launches (c : Chip) (k p leaf n : Nat) : (c.count k p leaf n).launches = c.launches := rfl
@[simp] theorem Chip.count_contexts (c : Chip) (k p leaf n : Nat) : (c.count k p leaf n).contexts = c.contexts := rfl
@[simp] theorem Chip.count_crucibles (c : Chip) (k p leaf n : Nat) : (c.count k p leaf n).crucibles = c.crucibles := rfl
@[simp] theorem Chip.count_jobs (c : Chip) (k p leaf n : Nat) : (c.count k p leaf n).jobs = c.jobs := rfl
@[simp] theorem Chip.count_banks (c : Chip) (k p leaf n : Nat) : (c.count k p leaf n).banks = c.banks := rfl
@[simp] theorem Chip.count_bank (c : Chip) (k p leaf n : Nat) : (c.count k p leaf n).bank = c.bank := rfl
@[simp] theorem Chip.count_gen (c : Chip) (k p leaf n : Nat) : (c.count k p leaf n).gen = c.gen := rfl
@[simp] theorem Chip.count_scratch (c : Chip) (k p leaf n : Nat) : (c.count k p leaf n).scratch = c.scratch := rfl
@[simp] theorem Chip.count_spill (c : Chip) (k p leaf n : Nat) : (c.count k p leaf n).spill = c.spill := rfl
@[simp] theorem Chip.count_watches (c : Chip) (k p leaf n : Nat) : (c.count k p leaf n).watches = c.watches := rfl
@[simp] theorem Chip.count_traceOut (c : Chip) (k p leaf n : Nat) : (c.count k p leaf n).traceOut = c.traceOut := rfl
@[simp] theorem Chip.count_recs (c : Chip) (k p leaf n : Nat) : (c.count k p leaf n).recs = c.recs := rfl
@[simp] theorem Chip.count_services (c : Chip) (k p leaf n : Nat) : (c.count k p leaf n).services = c.services := rfl
@[simp] theorem Chip.count_failures (c : Chip) (k p leaf n : Nat) : (c.count k p leaf n).failures = c.failures := rfl
@[simp] theorem Chip.count_fencedChannels (c : Chip) (k p leaf n : Nat) : (c.count k p leaf n).fencedChannels = c.fencedChannels := rfl
@[simp] theorem Chip.count_fencedRqt (c : Chip) (k p leaf n : Nat) : (c.count k p leaf n).fencedRqt = c.fencedRqt := rfl
@[simp] theorem Chip.count_towlines (c : Chip) (k p leaf n : Nat) : (c.count k p leaf n).towlines = c.towlines := rfl
@[simp] theorem Chip.count_next (c : Chip) (k p leaf n : Nat) : (c.count k p leaf n).next = c.next := rfl
@[simp] theorem Chip.count_choices (c : Chip) (k p leaf n : Nat) : (c.count k p leaf n).choices = c.choices := rfl
@[simp] theorem Chip.count_inject (c : Chip) (k p leaf n : Nat) : (c.count k p leaf n).inject = c.inject := rfl
@[simp] theorem Chip.count_freeCount (c : Chip) (k p leaf n : Nat) : (c.count k p leaf n).freeCount = c.freeCount := rfl
@[simp] theorem Chip.post_cycle (c : Chip) (r : TrapRec) : (c.post r).cycle = c.cycle := rfl
@[simp] theorem Chip.post_ps (c : Chip) (r : TrapRec) : (c.post r).ps = c.ps := rfl
@[simp] theorem Chip.post_mhz (c : Chip) (r : TrapRec) : (c.post r).mhz = c.mhz := rfl
@[simp] theorem Chip.post_warps (c : Chip) (r : TrapRec) : (c.post r).warps = c.warps := rfl
@[simp] theorem Chip.post_blocks (c : Chip) (r : TrapRec) : (c.post r).blocks = c.blocks := rfl
@[simp] theorem Chip.post_launches (c : Chip) (r : TrapRec) : (c.post r).launches = c.launches := rfl
@[simp] theorem Chip.post_contexts (c : Chip) (r : TrapRec) : (c.post r).contexts = c.contexts := rfl
@[simp] theorem Chip.post_crucibles (c : Chip) (r : TrapRec) : (c.post r).crucibles = c.crucibles := rfl
@[simp] theorem Chip.post_cores (c : Chip) (r : TrapRec) : (c.post r).cores = c.cores := rfl
@[simp] theorem Chip.post_jobs (c : Chip) (r : TrapRec) : (c.post r).jobs = c.jobs := rfl
@[simp] theorem Chip.post_banks (c : Chip) (r : TrapRec) : (c.post r).banks = c.banks := rfl
@[simp] theorem Chip.post_bank (c : Chip) (r : TrapRec) : (c.post r).bank = c.bank := rfl
@[simp] theorem Chip.post_gen (c : Chip) (r : TrapRec) : (c.post r).gen = c.gen := rfl
@[simp] theorem Chip.post_scratch (c : Chip) (r : TrapRec) : (c.post r).scratch = c.scratch := rfl
@[simp] theorem Chip.post_spill (c : Chip) (r : TrapRec) : (c.post r).spill = c.spill := rfl
@[simp] theorem Chip.post_watches (c : Chip) (r : TrapRec) : (c.post r).watches = c.watches := rfl
@[simp] theorem Chip.post_traceOut (c : Chip) (r : TrapRec) : (c.post r).traceOut = c.traceOut := rfl
@[simp] theorem Chip.post_recs (c : Chip) (r : TrapRec) : (c.post r).recs = c.recs ++ [r] := rfl
@[simp] theorem Chip.post_services (c : Chip) (r : TrapRec) : (c.post r).services = c.services := rfl
@[simp] theorem Chip.post_failures (c : Chip) (r : TrapRec) : (c.post r).failures = c.failures := rfl
@[simp] theorem Chip.post_fencedChannels (c : Chip) (r : TrapRec) : (c.post r).fencedChannels = c.fencedChannels := rfl
@[simp] theorem Chip.post_fencedRqt (c : Chip) (r : TrapRec) : (c.post r).fencedRqt = c.fencedRqt := rfl
@[simp] theorem Chip.post_towlines (c : Chip) (r : TrapRec) : (c.post r).towlines = c.towlines := rfl
@[simp] theorem Chip.post_next (c : Chip) (r : TrapRec) : (c.post r).next = c.next + 1 := rfl
@[simp] theorem Chip.post_choices (c : Chip) (r : TrapRec) : (c.post r).choices = c.choices := rfl
@[simp] theorem Chip.post_inject (c : Chip) (r : TrapRec) : (c.post r).inject = c.inject := rfl
@[simp] theorem Chip.post_freeCount (c : Chip) (r : TrapRec) : (c.post r).freeCount = c.freeCount := rfl
@[simp] theorem Chip.lanesDo_cycle (c : Chip) (w rid : Nat) (f : Warp → Run → Nat → Thread → Thread) : (c.lanesDo w rid f).cycle = c.cycle := rfl
@[simp] theorem Chip.lanesDo_ps (c : Chip) (w rid : Nat) (f : Warp → Run → Nat → Thread → Thread) : (c.lanesDo w rid f).ps = c.ps := rfl
@[simp] theorem Chip.lanesDo_mhz (c : Chip) (w rid : Nat) (f : Warp → Run → Nat → Thread → Thread) : (c.lanesDo w rid f).mhz = c.mhz := rfl
@[simp] theorem Chip.lanesDo_blocks (c : Chip) (w rid : Nat) (f : Warp → Run → Nat → Thread → Thread) : (c.lanesDo w rid f).blocks = c.blocks := rfl
@[simp] theorem Chip.lanesDo_launches (c : Chip) (w rid : Nat) (f : Warp → Run → Nat → Thread → Thread) : (c.lanesDo w rid f).launches = c.launches := rfl
@[simp] theorem Chip.lanesDo_contexts (c : Chip) (w rid : Nat) (f : Warp → Run → Nat → Thread → Thread) : (c.lanesDo w rid f).contexts = c.contexts := rfl
@[simp] theorem Chip.lanesDo_crucibles (c : Chip) (w rid : Nat) (f : Warp → Run → Nat → Thread → Thread) : (c.lanesDo w rid f).crucibles = c.crucibles := rfl
@[simp] theorem Chip.lanesDo_cores (c : Chip) (w rid : Nat) (f : Warp → Run → Nat → Thread → Thread) : (c.lanesDo w rid f).cores = c.cores := rfl
@[simp] theorem Chip.lanesDo_jobs (c : Chip) (w rid : Nat) (f : Warp → Run → Nat → Thread → Thread) : (c.lanesDo w rid f).jobs = c.jobs := rfl
@[simp] theorem Chip.lanesDo_banks (c : Chip) (w rid : Nat) (f : Warp → Run → Nat → Thread → Thread) : (c.lanesDo w rid f).banks = c.banks := rfl
@[simp] theorem Chip.lanesDo_bank (c : Chip) (w rid : Nat) (f : Warp → Run → Nat → Thread → Thread) : (c.lanesDo w rid f).bank = c.bank := rfl
@[simp] theorem Chip.lanesDo_gen (c : Chip) (w rid : Nat) (f : Warp → Run → Nat → Thread → Thread) : (c.lanesDo w rid f).gen = c.gen := rfl
@[simp] theorem Chip.lanesDo_scratch (c : Chip) (w rid : Nat) (f : Warp → Run → Nat → Thread → Thread) : (c.lanesDo w rid f).scratch = c.scratch := rfl
@[simp] theorem Chip.lanesDo_spill (c : Chip) (w rid : Nat) (f : Warp → Run → Nat → Thread → Thread) : (c.lanesDo w rid f).spill = c.spill := rfl
@[simp] theorem Chip.lanesDo_watches (c : Chip) (w rid : Nat) (f : Warp → Run → Nat → Thread → Thread) : (c.lanesDo w rid f).watches = c.watches := rfl
@[simp] theorem Chip.lanesDo_traceOut (c : Chip) (w rid : Nat) (f : Warp → Run → Nat → Thread → Thread) : (c.lanesDo w rid f).traceOut = c.traceOut := rfl
@[simp] theorem Chip.lanesDo_recs (c : Chip) (w rid : Nat) (f : Warp → Run → Nat → Thread → Thread) : (c.lanesDo w rid f).recs = c.recs := rfl
@[simp] theorem Chip.lanesDo_services (c : Chip) (w rid : Nat) (f : Warp → Run → Nat → Thread → Thread) : (c.lanesDo w rid f).services = c.services := rfl
@[simp] theorem Chip.lanesDo_failures (c : Chip) (w rid : Nat) (f : Warp → Run → Nat → Thread → Thread) : (c.lanesDo w rid f).failures = c.failures := rfl
@[simp] theorem Chip.lanesDo_fencedChannels (c : Chip) (w rid : Nat) (f : Warp → Run → Nat → Thread → Thread) : (c.lanesDo w rid f).fencedChannels = c.fencedChannels := rfl
@[simp] theorem Chip.lanesDo_fencedRqt (c : Chip) (w rid : Nat) (f : Warp → Run → Nat → Thread → Thread) : (c.lanesDo w rid f).fencedRqt = c.fencedRqt := rfl
@[simp] theorem Chip.lanesDo_towlines (c : Chip) (w rid : Nat) (f : Warp → Run → Nat → Thread → Thread) : (c.lanesDo w rid f).towlines = c.towlines := rfl
@[simp] theorem Chip.lanesDo_next (c : Chip) (w rid : Nat) (f : Warp → Run → Nat → Thread → Thread) : (c.lanesDo w rid f).next = c.next := rfl
@[simp] theorem Chip.lanesDo_choices (c : Chip) (w rid : Nat) (f : Warp → Run → Nat → Thread → Thread) : (c.lanesDo w rid f).choices = c.choices := rfl
@[simp] theorem Chip.lanesDo_inject (c : Chip) (w rid : Nat) (f : Warp → Run → Nat → Thread → Thread) : (c.lanesDo w rid f).inject = c.inject := rfl
@[simp] theorem Chip.lanesDo_freeCount (c : Chip) (w rid : Nat) (f : Warp → Run → Nat → Thread → Thread) : (c.lanesDo w rid f).freeCount = c.freeCount := rfl

/-! ## A warp -/

@[simp] theorem Warp.modThread_block (wp : Warp) (l : Nat) (f : Thread → Thread) : (wp.modThread l f).block = wp.block := rfl
@[simp] theorem Warp.modThread_launch (wp : Warp) (l : Nat) (f : Thread → Thread) : (wp.modThread l f).launch = wp.launch := rfl
@[simp] theorem Warp.modThread_context (wp : Warp) (l : Nat) (f : Thread → Thread) : (wp.modThread l f).context = wp.context := rfl
@[simp] theorem Warp.modThread_role (wp : Warp) (l : Nat) (f : Thread → Thread) : (wp.modThread l f).role = wp.role := rfl
@[simp] theorem Warp.modThread_core (wp : Warp) (l : Nat) (f : Thread → Thread) : (wp.modThread l f).core = wp.core := rfl
@[simp] theorem Warp.modThread_slot (wp : Warp) (l : Nat) (f : Thread → Thread) : (wp.modThread l f).slot = wp.slot := rfl
@[simp] theorem Warp.modThread_lanes (wp : Warp) (l : Nat) (f : Thread → Thread) : (wp.modThread l f).lanes = wp.lanes := rfl
@[simp] theorem Warp.modThread_alloc (wp : Warp) (l : Nat) (f : Thread → Thread) : (wp.modThread l f).alloc = wp.alloc := rfl
@[simp] theorem Warp.modThread_draw (wp : Warp) (l : Nat) (f : Thread → Thread) : (wp.modThread l f).draw = wp.draw := rfl
@[simp] theorem Warp.modThread_tbase (wp : Warp) (l : Nat) (f : Thread → Thread) : (wp.modThread l f).tbase = wp.tbase := rfl
@[simp] theorem Warp.modThread_rbase (wp : Warp) (l : Nat) (f : Thread → Thread) : (wp.modThread l f).rbase = wp.rbase := rfl
@[simp] theorem Warp.modThread_memb (wp : Warp) (l : Nat) (f : Thread → Thread) : (wp.modThread l f).memb = wp.memb := rfl
@[simp] theorem Warp.modThread_fmask (wp : Warp) (l : Nat) (f : Thread → Thread) : (wp.modThread l f).fmask = wp.fmask := rfl
@[simp] theorem Warp.modThread_entries (wp : Warp) (l : Nat) (f : Thread → Thread) : (wp.modThread l f).entries = wp.entries := rfl
@[simp] theorem Warp.modThread_mthr (wp : Warp) (l : Nat) (f : Thread → Thread) : (wp.modThread l f).mthr = wp.mthr := rfl
@[simp] theorem Warp.modThread_stallchk (wp : Warp) (l : Nat) (f : Thread → Thread) : (wp.modThread l f).stallchk = wp.stallchk := rfl
@[simp] theorem Warp.modThread_pbank (wp : Warp) (l : Nat) (f : Thread → Thread) : (wp.modThread l f).pbank = wp.pbank := rfl
@[simp] theorem Warp.modThread_pgen (wp : Warp) (l : Nat) (f : Thread → Thread) : (wp.modThread l f).pgen = wp.pgen := rfl
@[simp] theorem Warp.modThread_drawHeld (wp : Warp) (l : Nat) (f : Thread → Thread) : (wp.modThread l f).drawHeld = wp.drawHeld := rfl
@[simp] theorem Warp.modThread_drawProduct (wp : Warp) (l : Nat) (f : Thread → Thread) : (wp.modThread l f).drawProduct = wp.drawProduct := rfl
@[simp] theorem Warp.modThread_threads (wp : Warp) (l : Nat) (f : Thread → Thread) : (wp.modThread l f).threads = Sparse.put wp.threads l (f (wp.thread l)) := rfl
@[simp] theorem Warp.modThread_runs (wp : Warp) (l : Nat) (f : Thread → Thread) : (wp.modThread l f).runs = wp.runs := rfl
@[simp] theorem Warp.modThread_joins (wp : Warp) (l : Nat) (f : Thread → Thread) : (wp.modThread l f).joins = wp.joins := rfl
@[simp] theorem Warp.modThread_delivered (wp : Warp) (l : Nat) (f : Thread → Thread) : (wp.modThread l f).delivered = wp.delivered := rfl
@[simp] theorem Warp.modThread_colls (wp : Warp) (l : Nat) (f : Thread → Thread) : (wp.modThread l f).colls = wp.colls := rfl
@[simp] theorem Warp.modThread_streams (wp : Warp) (l : Nat) (f : Thread → Thread) : (wp.modThread l f).streams = wp.streams := rfl
@[simp] theorem Warp.modThread_queues (wp : Warp) (l : Nat) (f : Thread → Thread) : (wp.modThread l f).queues = wp.queues := rfl
@[simp] theorem Warp.modThread_storeQ (wp : Warp) (l : Nat) (f : Thread → Thread) : (wp.modThread l f).storeQ = wp.storeQ := rfl
@[simp] theorem Warp.modThread_reanchor (wp : Warp) (l : Nat) (f : Thread → Thread) : (wp.modThread l f).reanchor = wp.reanchor := rfl
@[simp] theorem Warp.modThread_spillBase (wp : Warp) (l : Nat) (f : Thread → Thread) : (wp.modThread l f).spillBase = wp.spillBase := rfl
@[simp] theorem Warp.modThread_joinBase (wp : Warp) (l : Nat) (f : Thread → Thread) : (wp.modThread l f).joinBase = wp.joinBase := rfl
@[simp] theorem Warp.modThread_mergeDue (wp : Warp) (l : Nat) (f : Thread → Thread) : (wp.modThread l f).mergeDue = wp.mergeDue := rfl
@[simp] theorem Warp.modThread_offCore (wp : Warp) (l : Nat) (f : Thread → Thread) : (wp.modThread l f).offCore = wp.offCore := rfl
@[simp] theorem Warp.modThread_stopAll (wp : Warp) (l : Nat) (f : Thread → Thread) : (wp.modThread l f).stopAll = wp.stopAll := rfl
@[simp] theorem Warp.modRun_block (wp : Warp) (r : Nat) (f : Run → Run) : (wp.modRun r f).block = wp.block := rfl
@[simp] theorem Warp.modRun_launch (wp : Warp) (r : Nat) (f : Run → Run) : (wp.modRun r f).launch = wp.launch := rfl
@[simp] theorem Warp.modRun_context (wp : Warp) (r : Nat) (f : Run → Run) : (wp.modRun r f).context = wp.context := rfl
@[simp] theorem Warp.modRun_role (wp : Warp) (r : Nat) (f : Run → Run) : (wp.modRun r f).role = wp.role := rfl
@[simp] theorem Warp.modRun_core (wp : Warp) (r : Nat) (f : Run → Run) : (wp.modRun r f).core = wp.core := rfl
@[simp] theorem Warp.modRun_slot (wp : Warp) (r : Nat) (f : Run → Run) : (wp.modRun r f).slot = wp.slot := rfl
@[simp] theorem Warp.modRun_lanes (wp : Warp) (r : Nat) (f : Run → Run) : (wp.modRun r f).lanes = wp.lanes := rfl
@[simp] theorem Warp.modRun_alloc (wp : Warp) (r : Nat) (f : Run → Run) : (wp.modRun r f).alloc = wp.alloc := rfl
@[simp] theorem Warp.modRun_draw (wp : Warp) (r : Nat) (f : Run → Run) : (wp.modRun r f).draw = wp.draw := rfl
@[simp] theorem Warp.modRun_tbase (wp : Warp) (r : Nat) (f : Run → Run) : (wp.modRun r f).tbase = wp.tbase := rfl
@[simp] theorem Warp.modRun_rbase (wp : Warp) (r : Nat) (f : Run → Run) : (wp.modRun r f).rbase = wp.rbase := rfl
@[simp] theorem Warp.modRun_memb (wp : Warp) (r : Nat) (f : Run → Run) : (wp.modRun r f).memb = wp.memb := rfl
@[simp] theorem Warp.modRun_fmask (wp : Warp) (r : Nat) (f : Run → Run) : (wp.modRun r f).fmask = wp.fmask := rfl
@[simp] theorem Warp.modRun_entries (wp : Warp) (r : Nat) (f : Run → Run) : (wp.modRun r f).entries = wp.entries := rfl
@[simp] theorem Warp.modRun_mthr (wp : Warp) (r : Nat) (f : Run → Run) : (wp.modRun r f).mthr = wp.mthr := rfl
@[simp] theorem Warp.modRun_stallchk (wp : Warp) (r : Nat) (f : Run → Run) : (wp.modRun r f).stallchk = wp.stallchk := rfl
@[simp] theorem Warp.modRun_pbank (wp : Warp) (r : Nat) (f : Run → Run) : (wp.modRun r f).pbank = wp.pbank := rfl
@[simp] theorem Warp.modRun_pgen (wp : Warp) (r : Nat) (f : Run → Run) : (wp.modRun r f).pgen = wp.pgen := rfl
@[simp] theorem Warp.modRun_drawHeld (wp : Warp) (r : Nat) (f : Run → Run) : (wp.modRun r f).drawHeld = wp.drawHeld := rfl
@[simp] theorem Warp.modRun_drawProduct (wp : Warp) (r : Nat) (f : Run → Run) : (wp.modRun r f).drawProduct = wp.drawProduct := rfl
@[simp] theorem Warp.modRun_threads (wp : Warp) (r : Nat) (f : Run → Run) : (wp.modRun r f).threads = wp.threads := rfl
@[simp] theorem Warp.modRun_runs (wp : Warp) (r : Nat) (f : Run → Run) : (wp.modRun r f).runs = Sparse.modify wp.runs r f := rfl
@[simp] theorem Warp.modRun_joins (wp : Warp) (r : Nat) (f : Run → Run) : (wp.modRun r f).joins = wp.joins := rfl
@[simp] theorem Warp.modRun_delivered (wp : Warp) (r : Nat) (f : Run → Run) : (wp.modRun r f).delivered = wp.delivered := rfl
@[simp] theorem Warp.modRun_colls (wp : Warp) (r : Nat) (f : Run → Run) : (wp.modRun r f).colls = wp.colls := rfl
@[simp] theorem Warp.modRun_streams (wp : Warp) (r : Nat) (f : Run → Run) : (wp.modRun r f).streams = wp.streams := rfl
@[simp] theorem Warp.modRun_queues (wp : Warp) (r : Nat) (f : Run → Run) : (wp.modRun r f).queues = wp.queues := rfl
@[simp] theorem Warp.modRun_storeQ (wp : Warp) (r : Nat) (f : Run → Run) : (wp.modRun r f).storeQ = wp.storeQ := rfl
@[simp] theorem Warp.modRun_reanchor (wp : Warp) (r : Nat) (f : Run → Run) : (wp.modRun r f).reanchor = wp.reanchor := rfl
@[simp] theorem Warp.modRun_spillBase (wp : Warp) (r : Nat) (f : Run → Run) : (wp.modRun r f).spillBase = wp.spillBase := rfl
@[simp] theorem Warp.modRun_joinBase (wp : Warp) (r : Nat) (f : Run → Run) : (wp.modRun r f).joinBase = wp.joinBase := rfl
@[simp] theorem Warp.modRun_mergeDue (wp : Warp) (r : Nat) (f : Run → Run) : (wp.modRun r f).mergeDue = wp.mergeDue := rfl
@[simp] theorem Warp.modRun_offCore (wp : Warp) (r : Nat) (f : Run → Run) : (wp.modRun r f).offCore = wp.offCore := rfl
@[simp] theorem Warp.modRun_stopAll (wp : Warp) (r : Nat) (f : Run → Run) : (wp.modRun r f).stopAll = wp.stopAll := rfl

/-! ## A thread -/

@[simp] theorem Thread.setCell_status (t : Thread) (k : Nat) (v : Val) : (t.setCell k v).status = t.status := rfl
@[simp] theorem Thread.setCell_pc (t : Thread) (k : Nat) (v : Val) : (t.setCell k v).pc = t.pc := rfl
@[simp] theorem Thread.setCell_wid (t : Thread) (k : Nat) (v : Val) : (t.setCell k v).wid = t.wid := rfl
@[simp] theorem Thread.setCell_base (t : Thread) (k : Nat) (v : Val) : (t.setCell k v).base = t.base := rfl
@[simp] theorem Thread.setCell_floor (t : Thread) (k : Nat) (v : Val) : (t.setCell k v).floor = t.floor := rfl
@[simp] theorem Thread.setCell_regs (t : Thread) (k : Nat) (v : Val) : (t.setCell k v).regs = Sparse.set ⟨0, false⟩ t.regs k v := rfl
@[simp] theorem Thread.setCell_gpc (t : Thread) (k : Nat) (v : Val) : (t.setCell k v).gpc = t.gpc := rfl
@[simp] theorem Thread.setCell_gcb (t : Thread) (k : Nat) (v : Val) : (t.setCell k v).gcb = t.gcb := rfl
@[simp] theorem Thread.setCell_htb (t : Thread) (k : Nat) (v : Val) : (t.setCell k v).htb = t.htb := rfl
@[simp] theorem Thread.setCell_gop (t : Thread) (k : Nat) (v : Val) : (t.setCell k v).gop = t.gop := rfl
@[simp] theorem Thread.setCell_glen (t : Thread) (k : Nat) (v : Val) : (t.setCell k v).glen = t.glen := rfl
@[simp] theorem Thread.setCell_gmode (t : Thread) (k : Nat) (v : Val) : (t.setCell k v).gmode = t.gmode := rfl
@[simp] theorem Thread.setCell_frm (t : Thread) (k : Nat) (v : Val) : (t.setCell k v).frm = t.frm := rfl
@[simp] theorem Thread.setCell_fflags (t : Thread) (k : Nat) (v : Val) : (t.setCell k v).fflags = t.fflags := rfl
@[simp] theorem Thread.setCell_absent (t : Thread) (k : Nat) (v : Val) : (t.setCell k v).absent = t.absent := rfl
@[simp] theorem Thread.setCell_jc0 (t : Thread) (k : Nat) (v : Val) : (t.setCell k v).jc0 = t.jc0 := rfl
@[simp] theorem Thread.setCell_jc1 (t : Thread) (k : Nat) (v : Val) : (t.setCell k v).jc1 = t.jc1 := rfl
@[simp] theorem Thread.setCell_jc2 (t : Thread) (k : Nat) (v : Val) : (t.setCell k v).jc2 = t.jc2 := rfl
@[simp] theorem Thread.setCell_jc3 (t : Thread) (k : Nat) (v : Val) : (t.setCell k v).jc3 = t.jc3 := rfl
@[simp] theorem Thread.setCell_jcw (t : Thread) (k : Nat) (v : Val) : (t.setCell k v).jcw = t.jcw := rfl
@[simp] theorem Thread.setCell_spos (t : Thread) (k : Nat) (v : Val) : (t.setCell k v).spos = t.spos := rfl
@[simp] theorem Thread.setCell_selem (t : Thread) (k : Nat) (v : Val) : (t.setCell k v).selem = t.selem := rfl
@[simp] theorem Thread.setCell_qptr (t : Thread) (k : Nat) (v : Val) : (t.setCell k v).qptr = t.qptr := rfl
@[simp] theorem Thread.setCell_rentry (t : Thread) (k : Nat) (v : Val) : (t.setCell k v).rentry = t.rentry := rfl
@[simp] theorem Thread.setCell_recDue (t : Thread) (k : Nat) (v : Val) : (t.setCell k v).recDue = t.recDue := rfl
@[simp] theorem Thread.setCell_flagsAt (t : Thread) (k : Nat) (v : Val) : (t.setCell k v).flagsAt = t.flagsAt := rfl
@[simp] theorem Thread.setCell_rtime (t : Thread) (k : Nat) (v : Val) : (t.setCell k v).rtime = t.rtime := rfl
@[simp] theorem Thread.setCell_entryNext (t : Thread) (k : Nat) (v : Val) : (t.setCell k v).entryNext = t.entryNext := rfl
@[simp] theorem Thread.setCell_yielded (t : Thread) (k : Nat) (v : Val) : (t.setCell k v).yielded = t.yielded := rfl
@[simp] theorem Thread.setCell_stray (t : Thread) (k : Nat) (v : Val) : (t.setCell k v).stray = t.stray := rfl
@[simp] theorem Thread.setCell_promoted (t : Thread) (k : Nat) (v : Val) : (t.setCell k v).promoted = t.promoted := rfl
@[simp] theorem Thread.setCell_since (t : Thread) (k : Nat) (v : Val) : (t.setCell k v).since = t.since := rfl
@[simp] theorem Thread.setCell_waits (t : Thread) (k : Nat) (v : Val) : (t.setCell k v).waits = t.waits := rfl
@[simp] theorem Thread.setCell_pend (t : Thread) (k : Nat) (v : Val) : (t.setCell k v).pend = t.pend := rfl
@[simp] theorem Thread.setCell_fix (t : Thread) (k : Nat) (v : Val) : (t.setCell k v).fix = t.fix := rfl
@[simp] theorem Thread.setCell_nextAt (t : Thread) (k : Nat) (v : Val) : (t.setCell k v).nextAt = t.nextAt := rfl
@[simp] theorem Thread.setCell_loopBuf (t : Thread) (k : Nat) (v : Val) : (t.setCell k v).loopBuf = t.loopBuf := rfl
@[simp] theorem Thread.setCell_tolune (t : Thread) (k : Nat) (v : Val) : (t.setCell k v).tolune = t.tolune := rfl
@[simp] theorem Thread.setCell_depth (t : Thread) (k : Nat) (v : Val) : (t.setCell k v).depth = t.depth := rfl
@[simp] theorem Thread.setCell_safe (t : Thread) (k : Nat) (v : Val) : (t.setCell k v).safe = t.safe := rfl
@[simp] theorem Thread.setCell_retry (t : Thread) (k : Nat) (v : Val) : (t.setCell k v).retry = t.retry := rfl
@[simp] theorem Thread.setCell_exempt (t : Thread) (k : Nat) (v : Val) : (t.setCell k v).exempt = t.exempt := rfl
@[simp] theorem Thread.await_status (t : Thread) (k : PendKind) (cs : Sparse Val) (fl : BitVec 5) : (t.await k cs fl).status = t.status := rfl
@[simp] theorem Thread.await_pc (t : Thread) (k : PendKind) (cs : Sparse Val) (fl : BitVec 5) : (t.await k cs fl).pc = t.pc := rfl
@[simp] theorem Thread.await_wid (t : Thread) (k : PendKind) (cs : Sparse Val) (fl : BitVec 5) : (t.await k cs fl).wid = t.wid := rfl
@[simp] theorem Thread.await_base (t : Thread) (k : PendKind) (cs : Sparse Val) (fl : BitVec 5) : (t.await k cs fl).base = t.base := rfl
@[simp] theorem Thread.await_floor (t : Thread) (k : PendKind) (cs : Sparse Val) (fl : BitVec 5) : (t.await k cs fl).floor = t.floor := rfl
@[simp] theorem Thread.await_regs (t : Thread) (k : PendKind) (cs : Sparse Val) (fl : BitVec 5) : (t.await k cs fl).regs = t.regs := rfl
@[simp] theorem Thread.await_gpc (t : Thread) (k : PendKind) (cs : Sparse Val) (fl : BitVec 5) : (t.await k cs fl).gpc = t.gpc := rfl
@[simp] theorem Thread.await_gcb (t : Thread) (k : PendKind) (cs : Sparse Val) (fl : BitVec 5) : (t.await k cs fl).gcb = t.gcb := rfl
@[simp] theorem Thread.await_htb (t : Thread) (k : PendKind) (cs : Sparse Val) (fl : BitVec 5) : (t.await k cs fl).htb = t.htb := rfl
@[simp] theorem Thread.await_gop (t : Thread) (k : PendKind) (cs : Sparse Val) (fl : BitVec 5) : (t.await k cs fl).gop = t.gop := rfl
@[simp] theorem Thread.await_glen (t : Thread) (k : PendKind) (cs : Sparse Val) (fl : BitVec 5) : (t.await k cs fl).glen = t.glen := rfl
@[simp] theorem Thread.await_gmode (t : Thread) (k : PendKind) (cs : Sparse Val) (fl : BitVec 5) : (t.await k cs fl).gmode = t.gmode := rfl
@[simp] theorem Thread.await_frm (t : Thread) (k : PendKind) (cs : Sparse Val) (fl : BitVec 5) : (t.await k cs fl).frm = t.frm := rfl
@[simp] theorem Thread.await_fflags (t : Thread) (k : PendKind) (cs : Sparse Val) (fl : BitVec 5) : (t.await k cs fl).fflags = t.fflags := rfl
@[simp] theorem Thread.await_absent (t : Thread) (k : PendKind) (cs : Sparse Val) (fl : BitVec 5) : (t.await k cs fl).absent = t.absent := rfl
@[simp] theorem Thread.await_jc0 (t : Thread) (k : PendKind) (cs : Sparse Val) (fl : BitVec 5) : (t.await k cs fl).jc0 = t.jc0 := rfl
@[simp] theorem Thread.await_jc1 (t : Thread) (k : PendKind) (cs : Sparse Val) (fl : BitVec 5) : (t.await k cs fl).jc1 = t.jc1 := rfl
@[simp] theorem Thread.await_jc2 (t : Thread) (k : PendKind) (cs : Sparse Val) (fl : BitVec 5) : (t.await k cs fl).jc2 = t.jc2 := rfl
@[simp] theorem Thread.await_jc3 (t : Thread) (k : PendKind) (cs : Sparse Val) (fl : BitVec 5) : (t.await k cs fl).jc3 = t.jc3 := rfl
@[simp] theorem Thread.await_jcw (t : Thread) (k : PendKind) (cs : Sparse Val) (fl : BitVec 5) : (t.await k cs fl).jcw = t.jcw := rfl
@[simp] theorem Thread.await_spos (t : Thread) (k : PendKind) (cs : Sparse Val) (fl : BitVec 5) : (t.await k cs fl).spos = t.spos := rfl
@[simp] theorem Thread.await_selem (t : Thread) (k : PendKind) (cs : Sparse Val) (fl : BitVec 5) : (t.await k cs fl).selem = t.selem := rfl
@[simp] theorem Thread.await_qptr (t : Thread) (k : PendKind) (cs : Sparse Val) (fl : BitVec 5) : (t.await k cs fl).qptr = t.qptr := rfl
@[simp] theorem Thread.await_rentry (t : Thread) (k : PendKind) (cs : Sparse Val) (fl : BitVec 5) : (t.await k cs fl).rentry = t.rentry := rfl
@[simp] theorem Thread.await_recDue (t : Thread) (k : PendKind) (cs : Sparse Val) (fl : BitVec 5) : (t.await k cs fl).recDue = t.recDue := rfl
@[simp] theorem Thread.await_flagsAt (t : Thread) (k : PendKind) (cs : Sparse Val) (fl : BitVec 5) : (t.await k cs fl).flagsAt = t.flagsAt := rfl
@[simp] theorem Thread.await_rtime (t : Thread) (k : PendKind) (cs : Sparse Val) (fl : BitVec 5) : (t.await k cs fl).rtime = t.rtime := rfl
@[simp] theorem Thread.await_entryNext (t : Thread) (k : PendKind) (cs : Sparse Val) (fl : BitVec 5) : (t.await k cs fl).entryNext = t.entryNext := rfl
@[simp] theorem Thread.await_yielded (t : Thread) (k : PendKind) (cs : Sparse Val) (fl : BitVec 5) : (t.await k cs fl).yielded = t.yielded := rfl
@[simp] theorem Thread.await_stray (t : Thread) (k : PendKind) (cs : Sparse Val) (fl : BitVec 5) : (t.await k cs fl).stray = t.stray := rfl
@[simp] theorem Thread.await_promoted (t : Thread) (k : PendKind) (cs : Sparse Val) (fl : BitVec 5) : (t.await k cs fl).promoted = t.promoted := rfl
@[simp] theorem Thread.await_since (t : Thread) (k : PendKind) (cs : Sparse Val) (fl : BitVec 5) : (t.await k cs fl).since = t.since := rfl
@[simp] theorem Thread.await_waits (t : Thread) (k : PendKind) (cs : Sparse Val) (fl : BitVec 5) : (t.await k cs fl).waits = t.waits := rfl
@[simp] theorem Thread.await_pend (t : Thread) (k : PendKind) (cs : Sparse Val) (fl : BitVec 5) : (t.await k cs fl).pend = t.pend ++ [⟨k, cs, fl⟩] := rfl
@[simp] theorem Thread.await_fix (t : Thread) (k : PendKind) (cs : Sparse Val) (fl : BitVec 5) : (t.await k cs fl).fix = t.fix := rfl
@[simp] theorem Thread.await_nextAt (t : Thread) (k : PendKind) (cs : Sparse Val) (fl : BitVec 5) : (t.await k cs fl).nextAt = t.nextAt := rfl
@[simp] theorem Thread.await_loopBuf (t : Thread) (k : PendKind) (cs : Sparse Val) (fl : BitVec 5) : (t.await k cs fl).loopBuf = t.loopBuf := rfl
@[simp] theorem Thread.await_tolune (t : Thread) (k : PendKind) (cs : Sparse Val) (fl : BitVec 5) : (t.await k cs fl).tolune = t.tolune := rfl
@[simp] theorem Thread.await_depth (t : Thread) (k : PendKind) (cs : Sparse Val) (fl : BitVec 5) : (t.await k cs fl).depth = t.depth := rfl
@[simp] theorem Thread.await_safe (t : Thread) (k : PendKind) (cs : Sparse Val) (fl : BitVec 5) : (t.await k cs fl).safe = t.safe := rfl
@[simp] theorem Thread.await_retry (t : Thread) (k : PendKind) (cs : Sparse Val) (fl : BitVec 5) : (t.await k cs fl).retry = t.retry := rfl
@[simp] theorem Thread.await_exempt (t : Thread) (k : PendKind) (cs : Sparse Val) (fl : BitVec 5) : (t.await k cs fl).exempt = t.exempt := rfl
@[simp] theorem Thread.unfix_status (t : Thread) (cs : List Nat) : (t.unfix cs).status = t.status := rfl
@[simp] theorem Thread.unfix_pc (t : Thread) (cs : List Nat) : (t.unfix cs).pc = t.pc := rfl
@[simp] theorem Thread.unfix_wid (t : Thread) (cs : List Nat) : (t.unfix cs).wid = t.wid := rfl
@[simp] theorem Thread.unfix_base (t : Thread) (cs : List Nat) : (t.unfix cs).base = t.base := rfl
@[simp] theorem Thread.unfix_floor (t : Thread) (cs : List Nat) : (t.unfix cs).floor = t.floor := rfl
@[simp] theorem Thread.unfix_regs (t : Thread) (cs : List Nat) : (t.unfix cs).regs = t.regs := rfl
@[simp] theorem Thread.unfix_gpc (t : Thread) (cs : List Nat) : (t.unfix cs).gpc = t.gpc := rfl
@[simp] theorem Thread.unfix_gcb (t : Thread) (cs : List Nat) : (t.unfix cs).gcb = t.gcb := rfl
@[simp] theorem Thread.unfix_htb (t : Thread) (cs : List Nat) : (t.unfix cs).htb = t.htb := rfl
@[simp] theorem Thread.unfix_gop (t : Thread) (cs : List Nat) : (t.unfix cs).gop = t.gop := rfl
@[simp] theorem Thread.unfix_glen (t : Thread) (cs : List Nat) : (t.unfix cs).glen = t.glen := rfl
@[simp] theorem Thread.unfix_gmode (t : Thread) (cs : List Nat) : (t.unfix cs).gmode = t.gmode := rfl
@[simp] theorem Thread.unfix_frm (t : Thread) (cs : List Nat) : (t.unfix cs).frm = t.frm := rfl
@[simp] theorem Thread.unfix_fflags (t : Thread) (cs : List Nat) : (t.unfix cs).fflags = t.fflags := rfl
@[simp] theorem Thread.unfix_absent (t : Thread) (cs : List Nat) : (t.unfix cs).absent = t.absent := rfl
@[simp] theorem Thread.unfix_jc0 (t : Thread) (cs : List Nat) : (t.unfix cs).jc0 = t.jc0 := rfl
@[simp] theorem Thread.unfix_jc1 (t : Thread) (cs : List Nat) : (t.unfix cs).jc1 = t.jc1 := rfl
@[simp] theorem Thread.unfix_jc2 (t : Thread) (cs : List Nat) : (t.unfix cs).jc2 = t.jc2 := rfl
@[simp] theorem Thread.unfix_jc3 (t : Thread) (cs : List Nat) : (t.unfix cs).jc3 = t.jc3 := rfl
@[simp] theorem Thread.unfix_jcw (t : Thread) (cs : List Nat) : (t.unfix cs).jcw = t.jcw := rfl
@[simp] theorem Thread.unfix_spos (t : Thread) (cs : List Nat) : (t.unfix cs).spos = t.spos := rfl
@[simp] theorem Thread.unfix_selem (t : Thread) (cs : List Nat) : (t.unfix cs).selem = t.selem := rfl
@[simp] theorem Thread.unfix_qptr (t : Thread) (cs : List Nat) : (t.unfix cs).qptr = t.qptr := rfl
@[simp] theorem Thread.unfix_rentry (t : Thread) (cs : List Nat) : (t.unfix cs).rentry = t.rentry := rfl
@[simp] theorem Thread.unfix_recDue (t : Thread) (cs : List Nat) : (t.unfix cs).recDue = t.recDue := rfl
@[simp] theorem Thread.unfix_flagsAt (t : Thread) (cs : List Nat) : (t.unfix cs).flagsAt = t.flagsAt := rfl
@[simp] theorem Thread.unfix_rtime (t : Thread) (cs : List Nat) : (t.unfix cs).rtime = t.rtime := rfl
@[simp] theorem Thread.unfix_entryNext (t : Thread) (cs : List Nat) : (t.unfix cs).entryNext = t.entryNext := rfl
@[simp] theorem Thread.unfix_yielded (t : Thread) (cs : List Nat) : (t.unfix cs).yielded = t.yielded := rfl
@[simp] theorem Thread.unfix_stray (t : Thread) (cs : List Nat) : (t.unfix cs).stray = t.stray := rfl
@[simp] theorem Thread.unfix_promoted (t : Thread) (cs : List Nat) : (t.unfix cs).promoted = t.promoted := rfl
@[simp] theorem Thread.unfix_since (t : Thread) (cs : List Nat) : (t.unfix cs).since = t.since := rfl
@[simp] theorem Thread.unfix_waits (t : Thread) (cs : List Nat) : (t.unfix cs).waits = t.waits := rfl
@[simp] theorem Thread.unfix_pend (t : Thread) (cs : List Nat) : (t.unfix cs).pend = t.pend := rfl
@[simp] theorem Thread.unfix_fix (t : Thread) (cs : List Nat) : (t.unfix cs).fix = t.fix.filter fun f => !cs.contains f.cell := rfl
@[simp] theorem Thread.unfix_nextAt (t : Thread) (cs : List Nat) : (t.unfix cs).nextAt = t.nextAt := rfl
@[simp] theorem Thread.unfix_loopBuf (t : Thread) (cs : List Nat) : (t.unfix cs).loopBuf = t.loopBuf := rfl
@[simp] theorem Thread.unfix_tolune (t : Thread) (cs : List Nat) : (t.unfix cs).tolune = t.tolune := rfl
@[simp] theorem Thread.unfix_depth (t : Thread) (cs : List Nat) : (t.unfix cs).depth = t.depth := rfl
@[simp] theorem Thread.unfix_safe (t : Thread) (cs : List Nat) : (t.unfix cs).safe = t.safe := rfl
@[simp] theorem Thread.unfix_retry (t : Thread) (cs : List Nat) : (t.unfix cs).retry = t.retry := rfl
@[simp] theorem Thread.unfix_exempt (t : Thread) (cs : List Nat) : (t.unfix cs).exempt = t.exempt := rfl

/-! ## The threads of several lanes -/

/-- A change of several lanes' threads leaves every field of the warp but its threads. -/
theorem Warp.mapLanes_keeps {β : Type} (p : Warp → β) (hp : ∀ (wp : Warp) l f, p (wp.modThread l f) = p wp) (wp : Warp)
    (ls : List Nat) (f : Nat → Thread → Thread) : p (wp.mapLanes ls f) = p wp := by
  induction ls generalizing wp with
  | nil => rfl
  | cons l r ih => exact (ih (wp.modThread l (f l))).trans (hp wp l (f l))

@[simp] theorem Warp.mapLanes_block (wp : Warp) (ls : List Nat) (g : Nat → Thread → Thread) : (wp.mapLanes ls g).block = wp.block :=
  Warp.mapLanes_keeps (·.block) (fun _ _ _ => rfl) wp ls g
@[simp] theorem Warp.mapLanes_launch (wp : Warp) (ls : List Nat) (g : Nat → Thread → Thread) : (wp.mapLanes ls g).launch = wp.launch :=
  Warp.mapLanes_keeps (·.launch) (fun _ _ _ => rfl) wp ls g
@[simp] theorem Warp.mapLanes_context (wp : Warp) (ls : List Nat) (g : Nat → Thread → Thread) : (wp.mapLanes ls g).context = wp.context :=
  Warp.mapLanes_keeps (·.context) (fun _ _ _ => rfl) wp ls g
@[simp] theorem Warp.mapLanes_role (wp : Warp) (ls : List Nat) (g : Nat → Thread → Thread) : (wp.mapLanes ls g).role = wp.role :=
  Warp.mapLanes_keeps (·.role) (fun _ _ _ => rfl) wp ls g
@[simp] theorem Warp.mapLanes_core (wp : Warp) (ls : List Nat) (g : Nat → Thread → Thread) : (wp.mapLanes ls g).core = wp.core :=
  Warp.mapLanes_keeps (·.core) (fun _ _ _ => rfl) wp ls g
@[simp] theorem Warp.mapLanes_slot (wp : Warp) (ls : List Nat) (g : Nat → Thread → Thread) : (wp.mapLanes ls g).slot = wp.slot :=
  Warp.mapLanes_keeps (·.slot) (fun _ _ _ => rfl) wp ls g
@[simp] theorem Warp.mapLanes_lanes (wp : Warp) (ls : List Nat) (g : Nat → Thread → Thread) : (wp.mapLanes ls g).lanes = wp.lanes :=
  Warp.mapLanes_keeps (·.lanes) (fun _ _ _ => rfl) wp ls g
@[simp] theorem Warp.mapLanes_alloc (wp : Warp) (ls : List Nat) (g : Nat → Thread → Thread) : (wp.mapLanes ls g).alloc = wp.alloc :=
  Warp.mapLanes_keeps (·.alloc) (fun _ _ _ => rfl) wp ls g
@[simp] theorem Warp.mapLanes_draw (wp : Warp) (ls : List Nat) (g : Nat → Thread → Thread) : (wp.mapLanes ls g).draw = wp.draw :=
  Warp.mapLanes_keeps (·.draw) (fun _ _ _ => rfl) wp ls g
@[simp] theorem Warp.mapLanes_tbase (wp : Warp) (ls : List Nat) (g : Nat → Thread → Thread) : (wp.mapLanes ls g).tbase = wp.tbase :=
  Warp.mapLanes_keeps (·.tbase) (fun _ _ _ => rfl) wp ls g
@[simp] theorem Warp.mapLanes_rbase (wp : Warp) (ls : List Nat) (g : Nat → Thread → Thread) : (wp.mapLanes ls g).rbase = wp.rbase :=
  Warp.mapLanes_keeps (·.rbase) (fun _ _ _ => rfl) wp ls g
@[simp] theorem Warp.mapLanes_memb (wp : Warp) (ls : List Nat) (g : Nat → Thread → Thread) : (wp.mapLanes ls g).memb = wp.memb :=
  Warp.mapLanes_keeps (·.memb) (fun _ _ _ => rfl) wp ls g
@[simp] theorem Warp.mapLanes_fmask (wp : Warp) (ls : List Nat) (g : Nat → Thread → Thread) : (wp.mapLanes ls g).fmask = wp.fmask :=
  Warp.mapLanes_keeps (·.fmask) (fun _ _ _ => rfl) wp ls g
@[simp] theorem Warp.mapLanes_entries (wp : Warp) (ls : List Nat) (g : Nat → Thread → Thread) : (wp.mapLanes ls g).entries = wp.entries :=
  Warp.mapLanes_keeps (·.entries) (fun _ _ _ => rfl) wp ls g
@[simp] theorem Warp.mapLanes_mthr (wp : Warp) (ls : List Nat) (g : Nat → Thread → Thread) : (wp.mapLanes ls g).mthr = wp.mthr :=
  Warp.mapLanes_keeps (·.mthr) (fun _ _ _ => rfl) wp ls g
@[simp] theorem Warp.mapLanes_stallchk (wp : Warp) (ls : List Nat) (g : Nat → Thread → Thread) : (wp.mapLanes ls g).stallchk = wp.stallchk :=
  Warp.mapLanes_keeps (·.stallchk) (fun _ _ _ => rfl) wp ls g
@[simp] theorem Warp.mapLanes_pbank (wp : Warp) (ls : List Nat) (g : Nat → Thread → Thread) : (wp.mapLanes ls g).pbank = wp.pbank :=
  Warp.mapLanes_keeps (·.pbank) (fun _ _ _ => rfl) wp ls g
@[simp] theorem Warp.mapLanes_pgen (wp : Warp) (ls : List Nat) (g : Nat → Thread → Thread) : (wp.mapLanes ls g).pgen = wp.pgen :=
  Warp.mapLanes_keeps (·.pgen) (fun _ _ _ => rfl) wp ls g
@[simp] theorem Warp.mapLanes_drawHeld (wp : Warp) (ls : List Nat) (g : Nat → Thread → Thread) : (wp.mapLanes ls g).drawHeld = wp.drawHeld :=
  Warp.mapLanes_keeps (·.drawHeld) (fun _ _ _ => rfl) wp ls g
@[simp] theorem Warp.mapLanes_drawProduct (wp : Warp) (ls : List Nat) (g : Nat → Thread → Thread) : (wp.mapLanes ls g).drawProduct = wp.drawProduct :=
  Warp.mapLanes_keeps (·.drawProduct) (fun _ _ _ => rfl) wp ls g
@[simp] theorem Warp.mapLanes_runs (wp : Warp) (ls : List Nat) (g : Nat → Thread → Thread) : (wp.mapLanes ls g).runs = wp.runs :=
  Warp.mapLanes_keeps (·.runs) (fun _ _ _ => rfl) wp ls g
@[simp] theorem Warp.mapLanes_joins (wp : Warp) (ls : List Nat) (g : Nat → Thread → Thread) : (wp.mapLanes ls g).joins = wp.joins :=
  Warp.mapLanes_keeps (·.joins) (fun _ _ _ => rfl) wp ls g
@[simp] theorem Warp.mapLanes_delivered (wp : Warp) (ls : List Nat) (g : Nat → Thread → Thread) : (wp.mapLanes ls g).delivered = wp.delivered :=
  Warp.mapLanes_keeps (·.delivered) (fun _ _ _ => rfl) wp ls g
@[simp] theorem Warp.mapLanes_colls (wp : Warp) (ls : List Nat) (g : Nat → Thread → Thread) : (wp.mapLanes ls g).colls = wp.colls :=
  Warp.mapLanes_keeps (·.colls) (fun _ _ _ => rfl) wp ls g
@[simp] theorem Warp.mapLanes_streams (wp : Warp) (ls : List Nat) (g : Nat → Thread → Thread) : (wp.mapLanes ls g).streams = wp.streams :=
  Warp.mapLanes_keeps (·.streams) (fun _ _ _ => rfl) wp ls g
@[simp] theorem Warp.mapLanes_queues (wp : Warp) (ls : List Nat) (g : Nat → Thread → Thread) : (wp.mapLanes ls g).queues = wp.queues :=
  Warp.mapLanes_keeps (·.queues) (fun _ _ _ => rfl) wp ls g
@[simp] theorem Warp.mapLanes_storeQ (wp : Warp) (ls : List Nat) (g : Nat → Thread → Thread) : (wp.mapLanes ls g).storeQ = wp.storeQ :=
  Warp.mapLanes_keeps (·.storeQ) (fun _ _ _ => rfl) wp ls g
@[simp] theorem Warp.mapLanes_reanchor (wp : Warp) (ls : List Nat) (g : Nat → Thread → Thread) : (wp.mapLanes ls g).reanchor = wp.reanchor :=
  Warp.mapLanes_keeps (·.reanchor) (fun _ _ _ => rfl) wp ls g
@[simp] theorem Warp.mapLanes_spillBase (wp : Warp) (ls : List Nat) (g : Nat → Thread → Thread) : (wp.mapLanes ls g).spillBase = wp.spillBase :=
  Warp.mapLanes_keeps (·.spillBase) (fun _ _ _ => rfl) wp ls g
@[simp] theorem Warp.mapLanes_joinBase (wp : Warp) (ls : List Nat) (g : Nat → Thread → Thread) : (wp.mapLanes ls g).joinBase = wp.joinBase :=
  Warp.mapLanes_keeps (·.joinBase) (fun _ _ _ => rfl) wp ls g
@[simp] theorem Warp.mapLanes_mergeDue (wp : Warp) (ls : List Nat) (g : Nat → Thread → Thread) : (wp.mapLanes ls g).mergeDue = wp.mergeDue :=
  Warp.mapLanes_keeps (·.mergeDue) (fun _ _ _ => rfl) wp ls g
@[simp] theorem Warp.mapLanes_offCore (wp : Warp) (ls : List Nat) (g : Nat → Thread → Thread) : (wp.mapLanes ls g).offCore = wp.offCore :=
  Warp.mapLanes_keeps (·.offCore) (fun _ _ _ => rfl) wp ls g
@[simp] theorem Warp.mapLanes_stopAll (wp : Warp) (ls : List Nat) (g : Nat → Thread → Thread) : (wp.mapLanes ls g).stopAll = wp.stopAll :=
  Warp.mapLanes_keeps (·.stopAll) (fun _ _ _ => rfl) wp ls g

end Sys2Proof.Machine
end

