-- ==== Sys2Proof/Laws/Threads.lean ====
section
/-!
SUPPORT. Reading the parts of the chip after they are changed: a warp, a thread, a run, the lanes of a run.
-/

namespace Sys2Proof.Machine

open SparseLaws

/-! ## Lists of lanes -/

theorem lanes_nodup (m : Mask) : m.lanes.Nodup := List.Pairwise.filter _ List.nodup_range

theorem active_nodup (wp : Warp) (r : Run) : (wp.active r).Nodup := List.Pairwise.filter _ (lanes_nodup _)

/-! ## Warps, threads and runs -/

/-- A warp that is listed after a change. -/
theorem Chip.warp_modWarp_same {c : Chip} {w : Nat} (h : (Sparse.find c.warps w).isSome) (f : Warp → Warp) :
    (c.modWarp w f).warp w = f (c.warp w) := get_modify_same _ _ _ _ h

theorem Chip.warp_modWarp_ne (c : Chip) {w v : Nat} (h : v ≠ w) (f : Warp → Warp) : (c.modWarp w f).warp v = c.warp v :=
  get_modify_ne _ _ _ h

/-- What a change of a warp does not touch. -/
theorem Chip.warp_modWarp_of {β : Type} (p : Warp → β) (c : Chip) (w v : Nat) (f : Warp → Warp) (h : ∀ x, p (f x) = p x) :
    p ((c.modWarp w f).warp v) = p (c.warp v) := get_modify_of p _ _ _ _ _ h

@[simp] theorem Chip.listed_modWarp (c : Chip) (w v : Nat) (f : Warp → Warp) :
    (Sparse.find (c.modWarp w f).warps v).isSome = (Sparse.find c.warps v).isSome := by
  by_cases h : v = w
  · subst h; simp [find_modify_same]
  · simp [find_modify_ne _ _ h]

@[simp] theorem Warp.thread_modThread_same (wp : Warp) (l : Nat) (f : Thread → Thread) :
    (wp.modThread l f).thread l = f (wp.thread l) := get_put_same _ _ _ _

theorem Warp.thread_modThread_ne (wp : Warp) {l k : Nat} (h : k ≠ l) (f : Thread → Thread) :
    (wp.modThread l f).thread k = wp.thread k := get_put_ne _ _ _ h

theorem Warp.thread_mapLanes_other (wp : Warp) (ls : List Nat) (f : Nat → Thread → Thread) {k : Nat} (h : k ∉ ls) :
    (wp.mapLanes ls f).thread k = wp.thread k := by
  induction ls generalizing wp with
  | nil => rfl
  | cons l r ih =>
    have h1 : k ≠ l := fun e => h (e ▸ List.mem_cons_self)
    have h2 : k ∉ r := fun e => h (List.mem_cons_of_mem _ e)
    exact (ih (wp.modThread l (f l)) h2).trans (Warp.thread_modThread_ne _ h1 _)

/-- Changing several lanes changes each of them by itself. -/
theorem Warp.thread_mapLanes (wp : Warp) (ls : List Nat) (hn : ls.Nodup) (f : Nat → Thread → Thread) (k : Nat) :
    (wp.mapLanes ls f).thread k = if k ∈ ls then f k (wp.thread k) else wp.thread k := by
  induction ls generalizing wp with
  | nil => rfl
  | cons l r ih =>
    obtain ⟨hl, hr⟩ := List.nodup_cons.mp hn
    show ((wp.modThread l (f l)).mapLanes r f).thread k = _
    by_cases hk : k = l
    · subst hk
      rw [Warp.thread_mapLanes_other _ _ _ hl]
      simp
    · rw [ih _ hr, Warp.thread_modThread_ne _ hk]
      simp [hk]

/-- What a change of several lanes leaves in every thread. -/
theorem Warp.thread_mapLanes_of {β : Type} (p : Thread → β) (wp : Warp) (ls : List Nat) (f : Nat → Thread → Thread)
    (h : ∀ l t, p (f l t) = p t) (k : Nat) : p ((wp.mapLanes ls f).thread k) = p (wp.thread k) := by
  induction ls generalizing wp with
  | nil => rfl
  | cons l r ih =>
    refine (ih (wp.modThread l (f l))).trans ?_
    by_cases hk : k = l
    · subst hk; simp [h]
    · rw [Warp.thread_modThread_ne _ hk]

/-- A warp's threads are those of its list. -/
theorem Warp.thread_of_threads {wp wp' : Warp} (h : wp'.threads = wp.threads) (l : Nat) : wp'.thread l = wp.thread l := by
  show Sparse.get _ wp'.threads l = _
  rw [h]; rfl

theorem Warp.active_of_threads {wp wp' : Warp} (h : wp'.threads = wp.threads) (r r' : Run) (hr : r'.lanes = r.lanes) :
    wp'.active r' = wp.active r := by
  unfold Warp.active
  rw [hr]
  congr 1
  funext l
  rw [Warp.thread_of_threads h]

/-- A listed run after a change. -/
theorem Warp.run_modify_same (rs : Sparse Run) (rid : Nat) (f : Run → Run) (h : (Sparse.find rs rid).isSome) :
    Sparse.get Run.blank (Sparse.modify rs rid f) rid = f (Sparse.get Run.blank rs rid) := get_modify_same _ _ _ _ h

/-- What a change of a run does not touch. -/
theorem run_modify_of {β : Type} (p : Run → β) (rs : Sparse Run) (rid k : Nat) (f : Run → Run) (h : ∀ x, p (f x) = p x) :
    p (Sparse.get Run.blank (Sparse.modify rs rid f) k) = p (Sparse.get Run.blank rs k) := get_modify_of p _ _ _ _ _ h

/-! ## The lanes of a run -/

/-- Every active lane of a run is changed by itself. -/
theorem Chip.thread_lanesDo {c : Chip} {w : Nat} (h : (Sparse.find c.warps w).isSome) (rid : Nat)
    (f : Warp → Run → Nat → Thread → Thread) (l : Nat) :
    ((c.lanesDo w rid f).warp w).thread l =
      if l ∈ (c.warp w).active ((c.warp w).run rid) then f (c.warp w) ((c.warp w).run rid) l ((c.warp w).thread l)
      else (c.warp w).thread l := by
  unfold Chip.lanesDo
  rw [Chip.warp_modWarp_same h, Warp.thread_mapLanes _ _ (active_nodup _ _)]

theorem Chip.warp_lanesDo_ne (c : Chip) {w v : Nat} (hv : v ≠ w) (rid : Nat) (f : Warp → Run → Nat → Thread → Thread) :
    (c.lanesDo w rid f).warp v = c.warp v := Chip.warp_modWarp_ne _ hv _

@[simp] theorem Chip.listed_lanesDo (c : Chip) (w v rid : Nat) (f : Warp → Run → Nat → Thread → Thread) :
    (Sparse.find (c.lanesDo w rid f).warps v).isSome = (Sparse.find c.warps v).isSome := Chip.listed_modWarp _ _ _ _

/-- A change of lanes leaves every field of a warp but its threads. -/
theorem Chip.warp_lanesDo_of {β : Type} (p : Warp → β) (hp : ∀ (wp : Warp) l f, p (wp.modThread l f) = p wp) (c : Chip)
    (w rid v : Nat) (f : Warp → Run → Nat → Thread → Thread) : p ((c.lanesDo w rid f).warp v) = p (c.warp v) :=
  Chip.warp_modWarp_of p _ _ _ _ fun x => Warp.mapLanes_keeps p hp x _ _

/-- What a change of lanes leaves in every thread of every warp. -/
theorem Chip.thread_lanesDo_of {β : Type} (p : Thread → β) (c : Chip) (w rid v : Nat)
    (f : Warp → Run → Nat → Thread → Thread) (h : ∀ wp run l t, p (f wp run l t) = p t) (l : Nat) :
    p (((c.lanesDo w rid f).warp v).thread l) = p ((c.warp v).thread l) :=
  Chip.warp_modWarp_of (fun x => p (x.thread l)) _ _ _ _ fun x => Warp.thread_mapLanes_of p _ _ _ (fun k t => h x _ k t) _

end Sys2Proof.Machine
end

