-- ==== Sys2Proof/Laws/Issue.lean ====
section
/-!
SUPPORT. Issuing a word: what its issue and its end leave of the threads, the runs and the joins, and the whole of a word
that only changes the lanes of its group.
-/

namespace Sys2Proof.Machine

open SparseLaws

/-! ## What bookkeeping leaves -/

/-- What changes of the run rid and of the lanes L leave of a warp: the runs of other groups and, of the other lanes, PC and
waits; while the run is listed, all else of these lanes, the joins and what collectives have delivered. -/
structure Warp.Aside (rid : Nat) (L : List Nat) (x y : Warp) : Prop where
  runs : ∀ r, r ≠ rid → Sparse.find x.runs r = Sparse.find y.runs r
  joins : x.joins.Sublist y.joins
  lanes : ∀ l, l ∉ L → (x.thread l).pc = (y.thread l).pc ∧ (x.thread l).waits.Sublist (y.thread l).waits
  mask : Sparse.find x.runs rid = none ∨ (Sparse.find x.runs rid).map Run.lanes = (Sparse.find y.runs rid).map Run.lanes
  going : (Sparse.find x.runs rid).isSome → x.joins = y.joins ∧ x.mergeDue = y.mergeDue ∧ x.delivered = y.delivered ∧
    ∀ l, l ∉ L → x.thread l = y.thread l

theorem Warp.Aside.refl (rid : Nat) (L : List Nat) (x : Warp) : x.Aside rid L x :=
  ⟨fun _ _ => rfl, List.Sublist.refl _, fun _ _ => ⟨rfl, List.Sublist.refl _⟩, .inr rfl, fun _ => ⟨rfl, rfl, rfl, fun _ _ => rfl⟩⟩

theorem Warp.Aside.trans {rid : Nat} {L : List Nat} {x y z : Warp} (h : x.Aside rid L y) (k : y.Aside rid L z) :
    x.Aside rid L z := by
  have hl : (Sparse.find x.runs rid).isSome → (Sparse.find y.runs rid).isSome := fun hx => by
    rcases h.mask with e | e
    · rw [e] at hx; exact absurd hx (by decide)
    · cases hf : Sparse.find y.runs rid with
      | some _ => rfl
      | none => rw [hf] at e; cases hg : Sparse.find x.runs rid <;> simp_all
  refine ⟨fun r hr => (h.runs r hr).trans (k.runs r hr), h.joins.trans k.joins,
    fun l hn => ⟨(h.lanes l hn).1.trans (k.lanes l hn).1, (h.lanes l hn).2.trans (k.lanes l hn).2⟩, ?_, fun hx => ?_⟩
  · rcases h.mask with e | e
    · exact .inl e
    · rcases k.mask with f | f
      · rw [f] at e
        cases hg : Sparse.find x.runs rid
        · exact .inl rfl
        · rw [hg] at e; exact absurd e (by simp)
      · exact .inr (e.trans f)
  · obtain ⟨a, b, c, d⟩ := h.going hx
    obtain ⟨a', b', c', d'⟩ := k.going (hl hx)
    exact ⟨a.trans a', b.trans b', c.trans c', fun l hn => (d l hn).trans (d' l hn)⟩

/-- The active lanes of a run stay among L. -/
theorem Warp.Aside.within {rid : Nat} {L : List Nat} {x y : Warp} (h : x.Aside rid L y)
    (hy : ∀ l ∈ y.active (y.run rid), l ∈ L) : ∀ l ∈ x.active (x.run rid), l ∈ L := by
  intro l hl
  cases hf : Sparse.find x.runs rid with
  | none =>
    have hb : x.run rid = Run.blank := by
      show Sparse.get _ _ _ = _
      rw [get_eq_find, hf]; rfl
    rw [hb] at hl
    have : Run.blank.lanes.lanes = [] := by decide
    unfold Warp.active at hl
    rw [this] at hl
    exact absurd hl List.not_mem_nil
  | some u =>
    by_cases hn : l ∈ L
    · exact hn
    · refine hy l ?_
      obtain ⟨-, -, -, ht⟩ := h.going (by rw [hf]; rfl)
      have hm : (y.run rid).lanes = (x.run rid).lanes := by
        rcases h.mask with e | e
        · rw [hf] at e; exact absurd e (by simp)
        · show (Sparse.get Run.blank y.runs rid).lanes = (Sparse.get Run.blank x.runs rid).lanes
          rw [get_eq_find, get_eq_find, hf]
          rw [hf] at e
          cases hg : Sparse.find y.runs rid with
          | none => rw [hg] at e; exact absurd e (by simp)
          | some v => rw [hg] at e; exact (Option.some.inj e).symm
      unfold Warp.active at hl ⊢
      rw [hm]
      rw [List.mem_filter] at hl ⊢
      exact ⟨hl.1, by rw [← ht l hn]; exact hl.2⟩

/-- Two warps differ only in what `Warp.rest` leaves out, their threads only in bookkeeping, and what is aside not at all. -/
structure Warp.Alike (rid : Nat) (L : List Nat) (x y : Warp) : Prop where
  rest : x.rest = y.rest
  thread : ∀ l, (x.thread l).arch = (y.thread l).arch
  aside : x.Aside rid L y

theorem Warp.Alike.refl (rid : Nat) (L : List Nat) (x : Warp) : x.Alike rid L x := ⟨rfl, fun _ => rfl, Warp.Aside.refl _ _ _⟩
theorem Warp.Alike.trans {rid : Nat} {L : List Nat} {x y z : Warp} (h : x.Alike rid L y) (k : y.Alike rid L z) :
    x.Alike rid L z := ⟨h.rest.trans k.rest, fun l => (h.thread l).trans (k.thread l), h.aside.trans k.aside⟩

/-- What a core guards: its comparators and its fences. -/
def Core.Guards (x y : Core) : Prop := x.comps = y.comps ∧ x.fenced = y.fenced ∧ x.fencedSlots = y.fencedSlots

theorem Core.Guards.refl (x : Core) : x.Guards x := ⟨rfl, rfl, rfl⟩
theorem Core.Guards.trans {x y z : Core} (h : x.Guards y) (k : y.Guards z) : x.Guards z :=
  ⟨h.1.trans k.1, h.2.1.trans k.2.1, h.2.2.trans k.2.2⟩

/-- Two chips differ only in time, ports and the bookkeeping of one warp. -/
structure Chip.Alike (w rid : Nat) (L : List Nat) (c d : Chip) : Prop where
  rest : c.rest = d.rest
  cores : ∀ k, (c.core k).Guards (d.core k)
  others : ∀ v, v ≠ w → c.warp v = d.warp v
  warp : (c.warp w).Alike rid L (d.warp w)

section
variable {w rid : Nat} {L : List Nat}

theorem Chip.Alike.refl (c : Chip) : Chip.Alike w rid L c c :=
  ⟨rfl, fun _ => Core.Guards.refl _, fun _ _ => rfl, Warp.Alike.refl _ _ _⟩
theorem Chip.Alike.trans {c d e : Chip} (h : Chip.Alike w rid L c d) (k : Chip.Alike w rid L d e) : Chip.Alike w rid L c e :=
  ⟨h.rest.trans k.rest, fun n => (h.cores n).trans (k.cores n), fun v hv => (h.others v hv).trans (k.others v hv),
    h.warp.trans k.warp⟩

/-- The active lanes of the run are among L. -/
def Chip.Within (w rid : Nat) (L : List Nat) (c : Chip) : Prop := ∀ l ∈ (c.warp w).active ((c.warp w).run rid), l ∈ L

theorem Chip.Alike.within {c d : Chip} (h : Chip.Alike w rid L c d) (hd : d.Within w rid L) : c.Within w rid L :=
  h.warp.aside.within hd

/-- A change of one warp that is alike. -/
theorem Chip.Alike.modWarp (c : Chip) (f : Warp → Warp) (h : (f (c.warp w)).Alike rid L (c.warp w)) :
    Chip.Alike w rid L (c.modWarp w f) c := by
  refine ⟨rfl, fun _ => Core.Guards.refl _, fun v hv => Chip.warp_modWarp_ne _ hv _, ?_⟩
  by_cases hl : (Sparse.find c.warps w).isSome
  · rw [Chip.warp_modWarp_same hl]; exact h
  · have : c.modWarp w f = c := by
      unfold Chip.modWarp Sparse.modify
      split
      · rename_i v hv; simp [hv] at hl
      · rfl
    rw [this]; exact Warp.Alike.refl _ _ _

/-- Threads of lanes in L changed: what is aside stays. -/
theorem Warp.Aside.mapLanes (wp : Warp) (ls : List Nat) (f : Nat → Thread → Thread) (hL : ∀ l ∈ ls, l ∈ L) :
    (wp.mapLanes ls f).Aside rid L wp := by
  have ho (l : Nat) (hn : l ∉ L) : (wp.mapLanes ls f).thread l = wp.thread l :=
    Warp.thread_mapLanes_other _ _ _ fun h => hn (hL l h)
  have hr : (wp.mapLanes ls f).runs = wp.runs := Warp.mapLanes_keeps (·.runs) (fun _ _ _ => rfl) _ _ _
  have hj : (wp.mapLanes ls f).joins = wp.joins := Warp.mapLanes_keeps (·.joins) (fun _ _ _ => rfl) _ _ _
  refine ⟨fun r _ => by rw [hr], hj ▸ List.Sublist.refl _, fun l hn => by rw [ho l hn]; exact ⟨rfl, List.Sublist.refl _⟩,
    .inr (by rw [hr]), fun _ => ⟨hj, Warp.mapLanes_keeps (·.mergeDue) (fun _ _ _ => rfl) _ _ _,
      Warp.mapLanes_keeps (·.delivered) (fun _ _ _ => rfl) _ _ _, ho⟩⟩

theorem Warp.Alike.mapLanes (wp : Warp) (ls : List Nat) (f : Nat → Thread → Thread) (hL : ∀ l ∈ ls, l ∈ L)
    (h : ∀ l t, (f l t).arch = t.arch) : (wp.mapLanes ls f).Alike rid L wp :=
  ⟨Warp.mapLanes_keeps Warp.rest (fun _ _ _ => rfl) wp ls f, fun k => Warp.thread_mapLanes_of Thread.arch wp ls f h k,
    Warp.Aside.mapLanes wp ls f hL⟩

theorem Chip.Alike.lanesDo (c : Chip) (f : Warp → Run → Nat → Thread → Thread) (hL : c.Within w rid L)
    (h : ∀ wp run l t, (f wp run l t).arch = t.arch) : Chip.Alike w rid L (c.lanesDo w rid f) c :=
  Chip.Alike.modWarp c _ (Warp.Alike.mapLanes _ _ _ hL fun l t => h _ _ l t)

/-- A change of one warp's records that are left out, and of its run, which keeps its lanes. -/
theorem Warp.Alike.of_eq {x y : Warp} (hr : x.rest = y.rest) (ht : x.threads = y.threads) (hj : x.joins = y.joins)
    (hm : x.mergeDue = y.mergeDue) (hd : x.delivered = y.delivered)
    (ho : ∀ r, r ≠ rid → Sparse.find x.runs r = Sparse.find y.runs r)
    (hl : (Sparse.find x.runs rid).map Run.lanes = (Sparse.find y.runs rid).map Run.lanes) : x.Alike rid L y :=
  ⟨hr, fun l => by rw [Warp.thread_of_threads ht], ho, hj ▸ List.Sublist.refl _,
    fun l _ => by rw [Warp.thread_of_threads ht]; exact ⟨rfl, List.Sublist.refl _⟩, .inr hl,
    fun _ => ⟨hj, hm, hd, fun l _ => Warp.thread_of_threads ht l⟩⟩

/-- The run changed with its lanes kept. -/
theorem Warp.Alike.modRuns (x : Warp) (f : Run → Run) (h : ∀ r, (f r).lanes = r.lanes) :
    Warp.Alike rid L { x with runs := Sparse.modify x.runs rid f } x := by
  refine Warp.Alike.of_eq rfl rfl rfl rfl rfl (fun r hr => find_modify_ne _ _ hr) ?_
  show (Sparse.find (Sparse.modify x.runs rid f) rid).map Run.lanes = _
  rw [find_modify_same]
  cases Sparse.find x.runs rid with
  | none => rfl
  | some v => exact congrArg some (h v)

end

/-! ## The end of a run -/

/-- What letting lanes go on leaves of a warp: all but join entries, what collectives have delivered, and waits. -/
structure Warp.Loose (x y : Warp) : Prop where
  rest : x.rest = y.rest
  runs : x.runs = y.runs
  joins : x.joins.Sublist y.joins
  thread : ∀ l, (x.thread l).arch = (y.thread l).arch ∧ (x.thread l).pc = (y.thread l).pc ∧
    (x.thread l).waits.Sublist (y.thread l).waits

theorem Warp.Loose.refl (x : Warp) : x.Loose x :=
  ⟨rfl, rfl, List.Sublist.refl _, fun _ => ⟨rfl, rfl, List.Sublist.refl _⟩⟩
theorem Warp.Loose.trans {x y z : Warp} (h : x.Loose y) (k : y.Loose z) : x.Loose z :=
  ⟨h.rest.trans k.rest, h.runs.trans k.runs, h.joins.trans k.joins, fun l =>
    ⟨(h.thread l).1.trans (k.thread l).1, (h.thread l).2.1.trans (k.thread l).2.1, (h.thread l).2.2.trans (k.thread l).2.2⟩⟩

theorem Warp.Loose.mapLanes (wp : Warp) (ls : List Nat) (f : Nat → Thread → Thread)
    (h : ∀ l t, (f l t).arch = t.arch ∧ (f l t).pc = t.pc ∧ (f l t).waits.Sublist t.waits) : (wp.mapLanes ls f).Loose wp := by
  induction ls generalizing wp with
  | nil => exact Warp.Loose.refl _
  | cons l r ih =>
    refine (ih (wp.modThread l (f l))).trans ⟨rfl, rfl, List.Sublist.refl _, fun k => ?_⟩
    by_cases hk : k = l
    · subst hk; rw [Warp.thread_modThread_same]; exact h k _
    · rw [Warp.thread_modThread_ne _ hk]; exact ⟨rfl, rfl, List.Sublist.refl _⟩

theorem Warp.Loose.foldl {α : Type} (xs : List α) (g : Warp → α → Warp) (h : ∀ wp a, (g wp a).Loose wp) (wp : Warp) :
    (xs.foldl g wp).Loose wp := by
  induction xs generalizing wp with
  | nil => exact Warp.Loose.refl _
  | cons a r ih => exact (ih (g wp a)).trans (h wp a)

/-- Lanes that go on together, without a wait that is over. -/
theorem Warp.Loose.release (wp : Warp) (as bs : List Nat) (p : Wait → Bool) :
    ((wp.level as).mapLanes bs fun _ t => { t with waits := t.waits.filter p }).Loose wp :=
  Warp.Loose.trans (Warp.Loose.mapLanes (wp.level as) bs (fun _ t => { t with waits := t.waits.filter p })
      fun _ _ => ⟨rfl, rfl, List.filter_sublist⟩)
    (Warp.Loose.mapLanes _ _ _ fun _ _ => ⟨rfl, rfl, List.Sublist.refl _⟩)

/-- Join entries that complete release their lanes and change nothing else. -/
theorem Warp.Loose.settleJoins (wp : Warp) : wp.settleJoins.Loose wp := by
  unfold Warp.settleJoins
  exact (Warp.Loose.foldl _ _ (fun x e => Warp.Loose.release x _ _ _) _).trans
    ⟨rfl, rfl, List.filter_sublist, fun _ => ⟨rfl, rfl, List.Sublist.refl _⟩⟩

/-- Collectives that have delivered release their lanes and change nothing else. -/
theorem Warp.Loose.settleColls (wp : Warp) : wp.settleColls.Loose wp := by
  unfold Warp.settleColls
  exact (Warp.Loose.foldl _ _ (fun x e => Warp.Loose.release x _ _ _) _).trans
    ⟨rfl, rfl, List.Sublist.refl _, fun _ => ⟨rfl, rfl, List.Sublist.refl _⟩⟩

/-- The end of a run leaves all but the run alike. -/
theorem Warp.Alike.dropRun {L : List Nat} (wp : Warp) (rid : Nat) : (wp.dropRun rid).Alike rid L wp := by
  have h : (wp.dropRun rid).Loose { wp with runs := Sparse.erase wp.runs rid } :=
    (Warp.Loose.settleColls _).trans (Warp.Loose.settleJoins _)
  have hn : Sparse.find (wp.dropRun rid).runs rid = none := by rw [h.runs]; exact find_erase_same _ _
  refine ⟨h.rest, fun l => (h.thread l).1, fun r hr => ?_, h.joins, fun l _ => (h.thread l).2, .inl hn, fun hs => ?_⟩
  · rw [h.runs]; exact find_erase_ne _ hr
  · rw [hn] at hs; exact absurd hs (by decide)

/-! ## The beginning of a word's issue -/

/-- A core of a chip whose cores are replaced, each by one that guards the same. -/
theorem core_foldl_put (xs : List Nat) (g : Nat → Core) (m : Sparse Core) (c : Chip)
    (hg : ∀ k, (g k).Guards (c.core k)) (hm : ∀ k, (Sparse.get Core.fresh m k).Guards (c.core k)) (k : Nat) :
    (Sparse.get Core.fresh (xs.foldl (fun m k => Sparse.put m k (g k)) m) k).Guards (c.core k) := by
  induction xs generalizing m with
  | nil => exact hm k
  | cons a r ih =>
    refine ih _ fun n => ?_
    by_cases hn : n = a
    · subst hn; rw [get_put_same]; exact hg n
    · rw [get_put_ne _ _ _ hn]; exact hm n

/-- Counting leaves what a core guards. -/
theorem Core.Guards.foldl {α : Type} (xs : List α) (f : Core → α → Core) (h : ∀ k a, (f k a).Guards k) (k : Core) :
    (xs.foldl f k).Guards k := by
  induction xs generalizing k with
  | nil => exact Core.Guards.refl _
  | cons a r ih => exact (ih (f k a)).trans (h k a)

theorem Chip.charged_guards (c : Chip) (k n : Nat) : (c.charged k n).Guards (c.core k) := by
  unfold Chip.charged
  refine Core.Guards.foldl _ _ (fun x p => ?_) _
  exact Core.Guards.trans ⟨rfl, rfl, rfl⟩ (Core.Guards.foldl
    ((12, c.cycle - Sparse.get 0 x.leaves (busyKey p)) :: _) (fun k x => k.add p x.1 x.2) (fun _ _ => ⟨rfl, rfl, rfl⟩) x)

section
variable {w rid : Nat} {L : List Nat}

theorem Chip.Alike.pass (c : Chip) (n : Nat) : Chip.Alike w rid L (c.pass n) c :=
  ⟨rfl, fun k => core_foldl_put _ _ _ c (fun k => Chip.charged_guards c k n) (fun _ => Core.Guards.refl _) k, fun _ _ => rfl,
    Warp.Alike.refl _ _ _⟩
theorem Chip.Alike.modCore (c : Chip) (k : Nat) (f : Core → Core) (h : ∀ x, (f x).Guards x) :
    Chip.Alike w rid L (c.modCore k f) c := by
  refine ⟨rfl, fun n => ?_, fun _ _ => rfl, Warp.Alike.refl _ _ _⟩
  show (Sparse.get Core.fresh (Sparse.put c.cores k _) n).Guards _
  by_cases hn : n = k
  · subst hn; rw [get_put_same]; exact h _
  · rw [get_put_ne _ _ _ hn]; exact Core.Guards.refl _

end

/-- The warp of a word as its effect sees it: `rec`, the draw held and the run's entry mark may have moved on. -/
structure Warp.Begun (x y : Warp) (rid : Nat) : Prop where
  warp : ∃ e d rs, x = { y with entries := e, drawHeld := d, runs := rs }
  run : ∃ b, x.run rid = { y.run rid with entering := b }
  others : ∀ r, r ≠ rid → Sparse.find x.runs r = Sparse.find y.runs r
  mask : (Sparse.find x.runs rid).map Run.lanes = (Sparse.find y.runs rid).map Run.lanes

theorem Warp.Begun.refl (x : Warp) (rid : Nat) : x.Begun x rid :=
  ⟨⟨x.entries, x.drawHeld, x.runs, rfl⟩, ⟨(x.run rid).entering, rfl⟩, fun _ _ => rfl, rfl⟩

theorem Warp.Begun.trans {x y z : Warp} {rid : Nat} (h : x.Begun y rid) (k : y.Begun z rid) : x.Begun z rid := by
  obtain ⟨⟨e, d, rs, hx⟩, ⟨b, hb⟩, ho, hm⟩ := h
  obtain ⟨⟨e', d', rs', hy⟩, ⟨b', hb'⟩, ho', hm'⟩ := k
  exact ⟨⟨e, d, rs, by rw [hx, hy]⟩, ⟨b, by rw [hb, hb']⟩, fun r hr => (ho r hr).trans (ho' r hr), hm.trans hm'⟩

theorem Warp.Begun.threads {x y : Warp} {rid : Nat} (h : x.Begun y rid) : x.threads = y.threads := by
  obtain ⟨e, d, rs, hx⟩ := h.warp
  rw [hx]

theorem Warp.Begun.lanes {x y : Warp} {rid : Nat} (h : x.Begun y rid) : x.active (x.run rid) = y.active (y.run rid) := by
  obtain ⟨b, hb⟩ := h.run
  exact Warp.active_of_threads h.threads _ _ (by rw [hb])

theorem Warp.Begun.alike {x y : Warp} {rid : Nat} {L : List Nat} (h : x.Begun y rid) : x.Alike rid L y := by
  obtain ⟨e, d, rs, hx⟩ := h.warp
  exact Warp.Alike.of_eq (by rw [hx]; rfl) h.threads (by rw [hx]) (by rw [hx]) (by rw [hx]) h.others h.mask

/-- What the beginning of a word's issue does. -/
structure Chip.Begun (c d : Chip) (w rid : Nat) : Prop where
  rest : c.rest = d.rest
  cores : ∀ k, (c.core k).Guards (d.core k)
  others : ∀ v, v ≠ w → c.warp v = d.warp v
  warp : (c.warp w).Begun (d.warp w) rid
  listed : (Sparse.find c.warps w).isSome = (Sparse.find d.warps w).isSome

theorem Chip.Begun.alike {c d : Chip} {w rid : Nat} (L : List Nat) (h : Chip.Begun c d w rid) : Chip.Alike w rid L c d :=
  ⟨h.rest, h.cores, h.others, h.warp.alike⟩

theorem Chip.Begun.of_warps {c d : Chip} (w rid : Nat) (h : Chip.Alike w rid [] c d) (hw : c.warps = d.warps) :
    Chip.Begun c d w rid := by
  have h' (v : Nat) : c.warp v = d.warp v := by unfold Chip.warp; rw [hw]
  exact ⟨h.rest, h.cores, h.others, by rw [h']; exact Warp.Begun.refl _ _, by rw [hw]⟩

theorem Chip.Begun.trans {c d e : Chip} {w rid : Nat} (h : Chip.Begun c d w rid) (k : Chip.Begun d e w rid) :
    Chip.Begun c e w rid :=
  ⟨h.rest.trans k.rest, fun n => (h.cores n).trans (k.cores n), fun v hv => (h.others v hv).trans (k.others v hv),
    h.warp.trans k.warp, h.listed.trans k.listed⟩

theorem Chip.Begun.modWarp (c : Chip) (w rid : Nat) (f : Warp → Warp) (h : ∀ x : Warp, (f x).Begun x rid) :
    Chip.Begun (c.modWarp w f) c w rid := by
  have ha : Chip.Alike w rid [] (c.modWarp w f) c := Chip.Alike.modWarp c f (h _).alike
  refine ⟨ha.rest, ha.cores, ha.others, ?_, Chip.listed_modWarp _ _ _ _⟩
  by_cases hl : (Sparse.find c.warps w).isSome
  · rw [Chip.warp_modWarp_same hl]; exact h _
  · have : c.modWarp w f = c := by
      unfold Chip.modWarp Sparse.modify
      split
      · rename_i v hv; simp [hv] at hl
      · rfl
    rw [this]; exact Warp.Begun.refl _ _

theorem Warp.Begun.entered (x : Warp) (rid : Nat) (e : Word) :
    Warp.Begun { x.modRun rid (fun r => { r with entering := false }) with entries := e } x rid := by
  refine ⟨⟨e, x.drawHeld, _, rfl⟩, ?_, fun r hr => find_modify_ne _ _ hr, ?_⟩
  · by_cases hl : (Sparse.find x.runs rid).isSome
    · exact ⟨false, get_modify_same _ _ _ _ hl⟩
    · refine ⟨(x.run rid).entering, ?_⟩
      show Sparse.get _ (Sparse.modify x.runs rid _) rid = _
      have : Sparse.modify x.runs rid (fun r => { r with entering := false }) = x.runs := by
        unfold Sparse.modify
        split
        · rename_i v hv; simp [hv] at hl
        · rfl
      rw [this]; rfl
  · show (Sparse.find (Sparse.modify x.runs rid _) rid).map Run.lanes = _
    rw [find_modify_same]
    cases Sparse.find x.runs rid <;> rfl

theorem Chip.begin_begun (c : Chip) (w rid : Nat) (i : Instr) : Chip.Begun (c.begin w rid i) c w rid := by
  unfold Chip.begin
  have hd (c : Chip) (f : Warp → List (Nat × Nat)) :
      Chip.Begun (c.modWarp w fun wp => { wp with drawHeld := f wp }) c w rid :=
    Chip.Begun.modWarp c w rid _ fun x => ⟨⟨x.entries, _, x.runs, rfl⟩, ⟨(x.run rid).entering, rfl⟩, fun _ _ => rfl, rfl⟩
  have he (c : Chip) :
      Chip.Begun (c.modWarp w fun wp =>
        { wp.modRun rid fun r => { r with entering := false } with entries := wp.entries + 1 }) c w rid :=
    Chip.Begun.modWarp c w rid _ fun x => Warp.Begun.entered x rid _
  dsimp only
  have hp (n k : Nat) (f : Core → Core) (h : ∀ x, (f x).Guards x) : Chip.Begun ((c.pass n).modCore k f) c w rid :=
    Chip.Begun.of_warps w rid ((Chip.Alike.modCore _ _ _ h).trans (Chip.Alike.pass _ _)) rfl
  have hc (port n o : Nat) (b : Bool) (ls : Sparse Nat) (x : Core) :
      Core.Guards { (x.add port 0 n).add port 1 o with leaves := ls } x := ⟨rfl, rfl, rfl⟩
  split
  · refine Chip.Begun.trans (hd _ _) ?_
    split
    · exact Chip.Begun.trans (he _) (hp _ _ _ fun x => ⟨rfl, rfl, rfl⟩)
    · exact hp _ _ _ fun x => ⟨rfl, rfl, rfl⟩
  · split
    · exact Chip.Begun.trans (he _) (hp _ _ _ fun x => ⟨rfl, rfl, rfl⟩)
    · exact hp _ _ _ fun x => ⟨rfl, rfl, rfl⟩

/-! ## The end of a word's issue -/

section
variable {w rid : Nat} {L : List Nat}

theorem Chip.setReady_alike (c : Chip) (i : Instr) (npc : Word) (n : Nat) (hL : c.Within w rid L) :
    Chip.Alike w rid L (c.setReady w rid i npc n) c := by
  unfold Chip.setReady
  split <;> exact Chip.Alike.lanesDo c _ hL fun _ _ _ _ => rfl

theorem Chip.endTolune_alike (c : Chip) (i : Instr) (hL : c.Within w rid L) : Chip.Alike w rid L (c.endTolune w rid i) c := by
  unfold Chip.endTolune
  dsimp only
  split
  · exact Chip.Alike.modWarp c _ ((Warp.Alike.dropRun _ _).trans (Warp.Alike.mapLanes _ _ _ hL fun _ _ => rfl))
  · exact Chip.Alike.refl _

theorem Chip.endExemption_alike (c : Chip) (hL : c.Within w rid L) : Chip.Alike w rid L (c.endExemption w rid) c := by
  refine Chip.Alike.lanesDo c _ hL fun _ run _ t => ?_
  split
  · rfl
  · unfold Thread.passHalt
    split <;> rfl

theorem Run.step_lanes (r : Run) (i : Instr) (n m : Nat) : (r.step i n m).lanes = r.lanes := by
  unfold Run.step
  dsimp only
  split <;> rfl

/-- The slots bound to streams and queues that a word writes. -/
def boundWrites (wp : Warp) (i : Instr) : List Nat := amongSlots wp.boundSlots i.writes

/-- Registers that no slot of a list names have no slot in common with it. -/
theorem amongSlots_nil {slots : List Nat} {rs : List Reg} (h : ∀ r ∈ rs, slots.contains r.toNat = false) :
    amongSlots slots rs = [] := by
  unfold amongSlots
  have : (rs.map BitVec.toNat).filter slots.contains = [] := by
    refine List.filter_eq_nil_iff.mpr fun n hn => ?_
    obtain ⟨r, hr, rfl⟩ := List.mem_map.mp hn
    rw [h r hr]; exact Bool.false_ne_true
  rw [this]; rfl

/-- Without an element to write, the end of a word is bookkeeping. -/
theorem Chip.finish_alike (c : Chip) (i : Instr) (h : boundWrites (c.warp w) i = []) (hL : c.Within w rid L) :
    Chip.Alike w rid L (c.finish w rid i) c := by
  unfold Chip.finish
  split
  · exact Chip.Alike.refl _
  · have hp : c.putElements w rid i = c := by
      unfold Chip.putElements
      unfold boundWrites at h
      simp only [h, List.isEmpty_nil, if_true]
    rw [hp]
    have h1 := Chip.setReady_alike (L := L) c i ((c.warp w).run rid).npc (c.issueEnd w rid) hL
    have h2 := (Chip.endExemption_alike _ (h1.within hL)).trans h1
    have hs (d : Chip) : Chip.Alike w rid L
        (d.modWarp w fun wp => { wp with runs := Sparse.modify wp.runs rid fun r => r.step i d.cycle (c.issueEnd w rid) }) d :=
      Chip.Alike.modWarp _ _ (Warp.Alike.modRuns _ _ fun r => Run.step_lanes r i d.cycle _)
    have h3 := (hs _).trans h2
    exact (Chip.endTolune_alike _ _ (h3.within hL)).trans h3

end

/-! ## The gate -/

/-- A word issues only from a run that is listed, of a warp that is listed. -/
theorem gate_run_listed {c : Chip} {w rid : Nat} {i : Instr} (h : gate c w rid i = .run) :
    (Sparse.find c.warps w).isSome ∧ (Sparse.find (c.warp w).runs rid).isSome := by
  have hr : (Sparse.find (c.warp w).runs rid).isSome := by
    cases hf : Sparse.find (c.warp w).runs rid with
    | some _ => rfl
    | none =>
      have hb : (c.warp w).run rid = Run.blank := by
        show Sparse.get _ _ _ = _
        rw [get_eq_find, hf]; rfl
      have ha : (c.warp w).active Run.blank = [] := by
        unfold Warp.active
        have : Run.blank.lanes.lanes = [] := by decide
        rw [this]; rfl
      have hn : gate c w rid i = .noRun := by
        unfold gate
        dsimp only
        rw [hb, ha]
        rfl
      rw [hn] at h
      exact absurd h (by decide)
  refine ⟨?_, hr⟩
  cases hf : Sparse.find c.warps w with
  | some _ => rfl
  | none =>
    have hb : c.warp w = Warp.blank := by
      show Sparse.get _ _ _ = _
      rw [get_eq_find, hf]; rfl
    rw [hb] at hr
    exact Bool.noConfusion hr

/-- A word that passes the gate and names no illegal use makes its change. -/
theorem issueWith_next {s : State} {w rid : Nat} {i : Instr} (h : Ready s w rid i) {bad : UseCheck} {go : Body}
    (hb : bad w rid (s.chip.peek w rid i) = false) : issueWith i bad go s = .next { s with chip := go w rid s.chip } := by
  unfold issueWith
  simp [h.1, h.2, hb]

/-- Without an element to take, nothing is taken. -/
theorem Chip.takeElements_none (c : Chip) (w rid : Nat) (i : Instr)
    (h : ∀ r ∈ i.reads ++ i.writes, (c.warp w).boundSlots.contains r.toNat = false)
    (hr : reaches i = true → (c.warp w).boundSlots = []) : c.takeElements w rid i = c := by
  unfold Chip.takeElements
  dsimp only
  rw [amongSlots_nil h, if_pos]
  cases hi : reaches i with
  | true => rw [hr hi]; rfl
  | false => rfl

/-! ## Words that change the lanes of their group -/

/-- What a change of the lanes of a run leaves alone. -/
theorem Chip.lanesDo_aside {c : Chip} {w rid : Nat} {L : List Nat} (hl : (Sparse.find c.warps w).isSome)
    (f : Warp → Run → Nat → Thread → Thread) (hL : c.Within w rid L) :
    ((c.lanesDo w rid f).warp w).Aside rid L (c.warp w) := by
  unfold Chip.lanesDo
  rw [Chip.warp_modWarp_same hl]
  exact Warp.Aside.mapLanes _ _ _ hL

/-- What stays apart of a warp and of the cores stays apart of the machine. -/
theorem Apart.of_aside {t : State} {w rid : Nat} {L : List Nat} {c : Chip} (hc : ∀ k, (t.chip.core k).Guards (c.core k))
    (h : (t.chip.warp w).Aside rid L (c.warp w)) : Apart t w rid L c :=
  ⟨hc, fun r hr _ => h.runs r hr, h.joins, h.lanes, fun hg _ => h.going (by
    cases hf : Sparse.find (t.chip.warp w).runs rid with
    | some _ => rfl
    | none => rw [hf] at hg; exact absurd hg (by simp))⟩

/-- A word whose effect changes each lane of its group by itself: what it does to the lanes, and that it does nothing
else (R71). -/
theorem wordGo_lanes {s : State} {w rid : Nat} {i : Instr} (h : Ready s w rid i) (hp : Plain s w i) {body : Body}
    {f : LaneEffect} (hbody : ∀ c : Chip, Chip.Begun c s.chip w rid → body w rid c = c.lanesDo w rid f)
    (hf : ∀ e d rs b l t, f { s.warp w with entries := e, drawHeld := d, runs := rs } { s.run w rid with entering := b } l t =
      f (s.warp w) (s.run w rid) l t) :
    ∃ t, issue i body s = .next t ∧ OnlyThreads s t w rid ∧ LanesBecome s t w rid (f (s.warp w) (s.run w rid)) := by
  refine ⟨_, issueWith_next (bad := anyUse) h rfl, ?_⟩
  obtain ⟨hl, -⟩ := gate_run_listed h.2
  have hB := Chip.begin_begun s.chip w rid i
  have hslots : (((s.chip.begin w rid i).warp w)).boundSlots = (s.chip.warp w).boundSlots := by
    obtain ⟨e, d, rs, hx⟩ := hB.warp.warp
    rw [hx]; rfl
  have htake : (s.chip.begin w rid i).takeElements w rid i = s.chip.begin w rid i :=
    Chip.takeElements_none _ _ _ _ (by rw [hslots]; exact hp.1) (by rw [hslots]; exact hp.2)
  have hgo : wordGo i body w rid s.chip = ((s.chip.begin w rid i).lanesDo w rid f).finish w rid i := by
    unfold wordGo
    rw [htake, hbody _ hB]
  have hws : boundWrites (((s.chip.begin w rid i).lanesDo w rid f).warp w) i = [] := by
    have hb : (((s.chip.begin w rid i).lanesDo w rid f).warp w).boundSlots = (s.chip.warp w).boundSlots :=
      (Chip.warp_lanesDo_of Warp.boundSlots (fun _ _ _ => rfl) _ _ _ _ _).trans hslots
    unfold boundWrites
    rw [hb]
    exact amongSlots_nil fun r hr => hp.1 r (List.mem_append_right _ hr)
  have hD := hB.alike (s.lanes w rid)
  have hW : s.chip.Within w rid (s.lanes w rid) := fun _ h => h
  have hl' : (Sparse.find (s.chip.begin w rid i).warps w).isSome := by rw [hB.listed]; exact hl
  have hA := Chip.lanesDo_aside hl' f (hD.within hW)
  have hF := Chip.finish_alike ((s.chip.begin w rid i).lanesDo w rid f) i hws (hA.within (hD.within hW))
  rw [hgo]
  refine ⟨⟨rfl, ?_, fun v hv => ?_, ?_, ?_⟩, fun l => ?_⟩
  · exact hF.rest.trans (Eq.trans rfl hD.rest)
  · exact (hF.others v hv).trans ((Chip.warp_lanesDo_ne _ hv _ _).trans (hD.others v hv))
  · exact hF.warp.rest.trans ((Chip.warp_lanesDo_of Warp.rest (fun _ _ _ => rfl) _ _ _ _ _).trans hD.warp.rest)
  · exact Apart.of_aside (fun k => (hF.cores k).trans (Core.Guards.trans (Core.Guards.refl _) (hD.cores k)))
      (hF.warp.aside.trans (hA.trans hD.warp.aside))
  · refine (hF.warp.thread l).trans ?_
    rw [Chip.thread_lanesDo hl', hB.warp.lanes]
    have ht : ((s.chip.begin w rid i).warp w).thread l = (s.chip.warp w).thread l := Warp.thread_of_threads hB.warp.threads l
    obtain ⟨e, d, rs, hx⟩ := hB.warp.warp
    obtain ⟨b, hb⟩ := hB.warp.run
    show _ = Thread.arch (if l ∈ (s.chip.warp w).active ((s.chip.warp w).run rid) then _ else _)
    split
    · rw [ht, hb, hx]
      exact congrArg Thread.arch (hf e d rs b l _)
    · rw [ht]; rfl

end Sys2Proof.Machine
end

