-- ==== Sys2Proof/Laws/Memory.lean ====
section
/-!
SUPPORT. Memory: reading after writing, and the canonical form, which every operation keeps.
-/

namespace Sys2Proof.Machine

open SparseLaws

namespace MemoryLaws

/-! ## Reading after writing -/

@[simp] theorem read_write_same (m : Memory) (a : Nat) (v : Byte) : (m.write a v).read a = v := get_set_same _ _ _ _

theorem read_write_ne (m : Memory) {a b : Nat} (v : Byte) (h : b ≠ a) : (m.write a v).read b = m.read b :=
  get_set_ne _ _ _ h

/-- An address below a range of writes reads as before. -/
theorem read_writeBytes_below (m : Memory) {a x : Nat} (bs : List Byte) (h : x < a) :
    (m.writeBytes a bs).read x = m.read x := by
  induction bs generalizing m a with
  | nil => rfl
  | cons b r ih =>
    show ((m.write a b).writeBytes (a + 1) r).read x = _
    rw [ih _ (by omega), read_write_ne _ _ (by omega)]

/-- An address above a range of writes reads as before. -/
theorem read_writeBytes_above (m : Memory) {a x : Nat} (bs : List Byte) (h : a + bs.length ≤ x) :
    (m.writeBytes a bs).read x = m.read x := by
  induction bs generalizing m a with
  | nil => rfl
  | cons b r ih =>
    simp only [List.length_cons] at h
    show ((m.write a b).writeBytes (a + 1) r).read x = _
    rw [ih _ (by omega), read_write_ne _ _ (by omega)]

/-- An address in a range of writes reads as what was written there. -/
theorem read_writeBytes_in (m : Memory) (a : Nat) (bs : List Byte) (i : Nat) (h : i < bs.length) :
    (m.writeBytes a bs).read (a + i) = bs[i] := by
  induction bs generalizing m a i with
  | nil => exact absurd h (Nat.not_lt_zero _)
  | cons b r ih =>
    show ((m.write a b).writeBytes (a + 1) r).read (a + i) = _
    cases i with
    | zero => rw [read_writeBytes_below _ _ (by omega)]; simp
    | succ n =>
      have := ih (m.write a b) (a + 1) n (by simpa using h)
      rw [show a + (n + 1) = a + 1 + n by omega, this]; rfl

/-! ## The canonical form -/

theorem wf_empty : Memory.wf [] := ⟨List.Pairwise.nil, by simp⟩

theorem wf_write {m : Memory} (h : m.wf) (a : Nat) (v : Byte) : (m.write a v).wf := set_canonical h a v

theorem wf_writeBytes {m : Memory} (h : m.wf) (a : Nat) (bs : List Byte) : (m.writeBytes a bs).wf := by
  induction bs generalizing m a with
  | nil => exact h
  | cons b r ih => exact ih (wf_write h a b) (a + 1)

theorem wf_filter {m : Memory} (h : m.wf) (p : Host.Cell → Bool) : Memory.wf (m.filter p) := filter_canonical h p

theorem wf_clear {m : Memory} (h : m.wf) (a n : Nat) : (m.clear a n).wf := filter_canonical h _

theorem wf_store {r : Ram} (h : r.bytes.wf) (a : Nat) (bs : List Byte) (p : Bool) : (r.store a bs p).bytes.wf :=
  wf_writeBytes h a bs

theorem wf_ramClear {r : Ram} (h : r.bytes.wf) (a n : Nat) : (r.clear a n).bytes.wf := wf_clear h a n

/-- Main memory lists nothing after reset. -/
theorem reset_main_wf : State.reset.main.bytes.wf := wf_empty

/-! ## A store in a memory with marks -/

/-- Bytes outside a store read as before. -/
theorem store_outside (r : Ram) {a x : Nat} (bs : List Byte) (p : Bool) (h : x < a ∨ a + bs.length ≤ x) :
    (r.store a bs p).bytes.read x = r.bytes.read x := by
  rcases h with h | h
  · exact read_writeBytes_below _ _ h
  · exact read_writeBytes_above _ _ h

/-- Bytes of a store read as what was stored. -/
theorem store_inside (r : Ram) (a : Nat) (bs : List Byte) (p : Bool) (i : Nat) (h : i < bs.length) :
    (r.store a bs p).bytes.read (a + i) = bs[i] := read_writeBytes_in _ _ _ _ h

end MemoryLaws

end Sys2Proof.Machine
end

