-- ==== Sys2Proof/Laws/PerInstr.lean ====
section
/-!
SUPPORT. Statements about every instruction as syntax, one lemma per constructor.

Family `SameOpcode` (R49): byte 0 of an instruction in Tolune is the opcode byte of its native word.
-/

namespace Sys2Proof.Laws

/-- The first Tolune byte of an instruction is the opcode of its native word (R49); a step of an engine has neither. -/
def SameOpcode.Statement (i : Instr) : Prop :=
  (encode i).map (fun w => w.extractLsb' 24 8) = (encodeTolune i).map fun v => v.extractLsb' 0 8

/-- Bits above the lower part of a concatenation are bits of the upper part. -/
theorem upper_part {m n k : Nat} (x : BitVec m) (y : BitVec n) (o : Nat) (h : n ≤ o) :
    (x ++ y).extractLsb' o k = x.extractLsb' (o - n) k := by
  ext j hj; simp [BitVec.getLsbD_append, show ¬ (o + j < n) by omega, show o + j - n = o - n + j by omega]

/-- The lowest bits of a concatenation are bits of its lower part. -/
theorem lower_part {m n k : Nat} (x : BitVec m) (y : BitVec n) (h : k ≤ n) :
    (x ++ y).extractLsb' 0 k = y.extractLsb' 0 k := by
  ext j hj; simp [BitVec.getLsbD_append, show (j < n) by omega]

/-- The two spellings of the same parts have the same opcode. -/
theorem opcode_of_parts (p : Parts) : p.native.extractLsb' 24 8 = p.tolune.extractLsb' 0 8 := by
  cases p with
  | three op d a b s =>
    show (op ++ d.setWidth 7 ++ a.setWidth 7 ++ b.setWidth 7 ++ s).extractLsb' 24 8 = (b ++ a ++ d ++ op).extractLsb' 0 8
    rw [lower_part _ _ (by omega), upper_part _ _ _ (by omega), upper_part _ _ _ (by omega), upper_part _ _ _ (by omega), upper_part _ _ _ (by omega)]
  | wide op d i s =>
    show (op ++ d.setWidth 7 ++ i.setWidth 14 ++ s).extractLsb' 24 8 = (i ++ d ++ op).extractLsb' 0 8
    rw [lower_part _ _ (by omega), upper_part _ _ _ (by omega), upper_part _ _ _ (by omega), upper_part _ _ _ (by omega)]
  | jump op i s =>
    show (op ++ i.setWidth 21 ++ s).extractLsb' 24 8 = (i ++ op).extractLsb' 0 8
    rw [lower_part _ _ (by omega), upper_part _ _ _ (by omega), upper_part _ _ _ (by omega)]
  | ext op p =>
    show (op ++ p ++ (0 : BitVec 3)).extractLsb' 24 8 = (p.setWidth 24 ++ op).extractLsb' 0 8
    rw [lower_part _ _ (by omega), upper_part _ _ _ (by omega), upper_part _ _ _ (by omega)]

theorem sameOpcode_of_parts (i : Instr) : SameOpcode.Statement i := by
  unfold SameOpcode.Statement encode encodeTolune
  cases i.parts with
  | none => rfl
  | some p => simp [opcode_of_parts p]

end Sys2Proof.Laws

theorem Sys2Proof.Laws.SameOpcode.nop : ∀ a, Sys2Proof.Laws.SameOpcode.Statement (.nop a) := fun _ => Sys2Proof.Laws.sameOpcode_of_parts _
theorem Sys2Proof.Laws.SameOpcode.runt : ∀ a b c d, Sys2Proof.Laws.SameOpcode.Statement (.runt a b c d) := fun _ _ _ _ => Sys2Proof.Laws.sameOpcode_of_parts _
theorem Sys2Proof.Laws.SameOpcode.ext : ∀ a, Sys2Proof.Laws.SameOpcode.Statement (.ext a) := fun _ => Sys2Proof.Laws.sameOpcode_of_parts _
theorem Sys2Proof.Laws.SameOpcode.bra : ∀ a b, Sys2Proof.Laws.SameOpcode.Statement (.bra a b) := fun _ _ => Sys2Proof.Laws.sameOpcode_of_parts _
theorem Sys2Proof.Laws.SameOpcode.bnz : ∀ a b c, Sys2Proof.Laws.SameOpcode.Statement (.bnz a b c) := fun _ _ _ => Sys2Proof.Laws.sameOpcode_of_parts _
theorem Sys2Proof.Laws.SameOpcode.bz : ∀ a b c, Sys2Proof.Laws.SameOpcode.Statement (.bz a b c) := fun _ _ _ => Sys2Proof.Laws.sameOpcode_of_parts _
theorem Sys2Proof.Laws.SameOpcode.bltz : ∀ a b c, Sys2Proof.Laws.SameOpcode.Statement (.bltz a b c) := fun _ _ _ => Sys2Proof.Laws.sameOpcode_of_parts _
theorem Sys2Proof.Laws.SameOpcode.bgez : ∀ a b c, Sys2Proof.Laws.SameOpcode.Statement (.bgez a b c) := fun _ _ _ => Sys2Proof.Laws.sameOpcode_of_parts _
theorem Sys2Proof.Laws.SameOpcode.jpt : ∀ a b, Sys2Proof.Laws.SameOpcode.Statement (.jpt a b) := fun _ _ => Sys2Proof.Laws.sameOpcode_of_parts _
theorem Sys2Proof.Laws.SameOpcode.rejoin : ∀ a, Sys2Proof.Laws.SameOpcode.Statement (.rejoin a) := fun _ => Sys2Proof.Laws.sameOpcode_of_parts _
theorem Sys2Proof.Laws.SameOpcode.call : ∀ a b c, Sys2Proof.Laws.SameOpcode.Statement (.call a b c) := fun _ _ _ => Sys2Proof.Laws.sameOpcode_of_parts _
theorem Sys2Proof.Laws.SameOpcode.callr : ∀ a b c, Sys2Proof.Laws.SameOpcode.Statement (.callr a b c) := fun _ _ _ => Sys2Proof.Laws.sameOpcode_of_parts _
theorem Sys2Proof.Laws.SameOpcode.ret : ∀ a, Sys2Proof.Laws.SameOpcode.Statement (.ret a) := fun _ => Sys2Proof.Laws.sameOpcode_of_parts _
theorem Sys2Proof.Laws.SameOpcode.jmpr : ∀ a b, Sys2Proof.Laws.SameOpcode.Statement (.jmpr a b) := fun _ _ => Sys2Proof.Laws.sameOpcode_of_parts _
theorem Sys2Proof.Laws.SameOpcode.land : ∀ a, Sys2Proof.Laws.SameOpcode.Statement (.land a) := fun _ => Sys2Proof.Laws.sameOpcode_of_parts _
theorem Sys2Proof.Laws.SameOpcode.exit : ∀ a, Sys2Proof.Laws.SameOpcode.Statement (.exit a) := fun _ => Sys2Proof.Laws.sameOpcode_of_parts _
theorem Sys2Proof.Laws.SameOpcode.svc : ∀ a b, Sys2Proof.Laws.SameOpcode.Statement (.svc a b) := fun _ _ => Sys2Proof.Laws.sameOpcode_of_parts _
theorem Sys2Proof.Laws.SameOpcode.trap : ∀ a b, Sys2Proof.Laws.SameOpcode.Statement (.trap a b) := fun _ _ => Sys2Proof.Laws.sameOpcode_of_parts _
theorem Sys2Proof.Laws.SameOpcode.brk : ∀ a b, Sys2Proof.Laws.SameOpcode.Statement (.brk a b) := fun _ _ => Sys2Proof.Laws.sameOpcode_of_parts _
theorem Sys2Proof.Laws.SameOpcode.spinw : ∀ a b c d, Sys2Proof.Laws.SameOpcode.Statement (.spinw a b c d) := fun _ _ _ _ => Sys2Proof.Laws.sameOpcode_of_parts _
theorem Sys2Proof.Laws.SameOpcode.wbase : ∀ a b c, Sys2Proof.Laws.SameOpcode.Statement (.wbase a b c) := fun _ _ _ => Sys2Proof.Laws.sameOpcode_of_parts _
theorem Sys2Proof.Laws.SameOpcode.rget : ∀ a b c, Sys2Proof.Laws.SameOpcode.Statement (.rget a b c) := fun _ _ _ => Sys2Proof.Laws.sameOpcode_of_parts _
theorem Sys2Proof.Laws.SameOpcode.rput : ∀ a b c, Sys2Proof.Laws.SameOpcode.Statement (.rput a b c) := fun _ _ _ => Sys2Proof.Laws.sameOpcode_of_parts _
theorem Sys2Proof.Laws.SameOpcode.add : ∀ a b c d, Sys2Proof.Laws.SameOpcode.Statement (.add a b c d) := fun _ _ _ _ => Sys2Proof.Laws.sameOpcode_of_parts _
theorem Sys2Proof.Laws.SameOpcode.sub : ∀ a b c d, Sys2Proof.Laws.SameOpcode.Statement (.sub a b c d) := fun _ _ _ _ => Sys2Proof.Laws.sameOpcode_of_parts _
theorem Sys2Proof.Laws.SameOpcode.mul : ∀ a b c d, Sys2Proof.Laws.SameOpcode.Statement (.mul a b c d) := fun _ _ _ _ => Sys2Proof.Laws.sameOpcode_of_parts _
theorem Sys2Proof.Laws.SameOpcode.mulhs : ∀ a b c d, Sys2Proof.Laws.SameOpcode.Statement (.mulhs a b c d) := fun _ _ _ _ => Sys2Proof.Laws.sameOpcode_of_parts _
theorem Sys2Proof.Laws.SameOpcode.mulhu : ∀ a b c d, Sys2Proof.Laws.SameOpcode.Statement (.mulhu a b c d) := fun _ _ _ _ => Sys2Proof.Laws.sameOpcode_of_parts _
theorem Sys2Proof.Laws.SameOpcode.mad : ∀ a b c d, Sys2Proof.Laws.SameOpcode.Statement (.mad a b c d) := fun _ _ _ _ => Sys2Proof.Laws.sameOpcode_of_parts _
theorem Sys2Proof.Laws.SameOpcode.divs : ∀ a b c d, Sys2Proof.Laws.SameOpcode.Statement (.divs a b c d) := fun _ _ _ _ => Sys2Proof.Laws.sameOpcode_of_parts _
theorem Sys2Proof.Laws.SameOpcode.divu : ∀ a b c d, Sys2Proof.Laws.SameOpcode.Statement (.divu a b c d) := fun _ _ _ _ => Sys2Proof.Laws.sameOpcode_of_parts _
theorem Sys2Proof.Laws.SameOpcode.rems : ∀ a b c d, Sys2Proof.Laws.SameOpcode.Statement (.rems a b c d) := fun _ _ _ _ => Sys2Proof.Laws.sameOpcode_of_parts _
theorem Sys2Proof.Laws.SameOpcode.remu : ∀ a b c d, Sys2Proof.Laws.SameOpcode.Statement (.remu a b c d) := fun _ _ _ _ => Sys2Proof.Laws.sameOpcode_of_parts _
theorem Sys2Proof.Laws.SameOpcode.and : ∀ a b c d, Sys2Proof.Laws.SameOpcode.Statement (.and a b c d) := fun _ _ _ _ => Sys2Proof.Laws.sameOpcode_of_parts _
theorem Sys2Proof.Laws.SameOpcode.or : ∀ a b c d, Sys2Proof.Laws.SameOpcode.Statement (.or a b c d) := fun _ _ _ _ => Sys2Proof.Laws.sameOpcode_of_parts _
theorem Sys2Proof.Laws.SameOpcode.xor : ∀ a b c d, Sys2Proof.Laws.SameOpcode.Statement (.xor a b c d) := fun _ _ _ _ => Sys2Proof.Laws.sameOpcode_of_parts _
theorem Sys2Proof.Laws.SameOpcode.andn : ∀ a b c d, Sys2Proof.Laws.SameOpcode.Statement (.andn a b c d) := fun _ _ _ _ => Sys2Proof.Laws.sameOpcode_of_parts _
theorem Sys2Proof.Laws.SameOpcode.shl : ∀ a b c d, Sys2Proof.Laws.SameOpcode.Statement (.shl a b c d) := fun _ _ _ _ => Sys2Proof.Laws.sameOpcode_of_parts _
theorem Sys2Proof.Laws.SameOpcode.shr : ∀ a b c d, Sys2Proof.Laws.SameOpcode.Statement (.shr a b c d) := fun _ _ _ _ => Sys2Proof.Laws.sameOpcode_of_parts _
theorem Sys2Proof.Laws.SameOpcode.sar : ∀ a b c d, Sys2Proof.Laws.SameOpcode.Statement (.sar a b c d) := fun _ _ _ _ => Sys2Proof.Laws.sameOpcode_of_parts _
theorem Sys2Proof.Laws.SameOpcode.rol : ∀ a b c d, Sys2Proof.Laws.SameOpcode.Statement (.rol a b c d) := fun _ _ _ _ => Sys2Proof.Laws.sameOpcode_of_parts _
theorem Sys2Proof.Laws.SameOpcode.mins : ∀ a b c d, Sys2Proof.Laws.SameOpcode.Statement (.mins a b c d) := fun _ _ _ _ => Sys2Proof.Laws.sameOpcode_of_parts _
theorem Sys2Proof.Laws.SameOpcode.minu : ∀ a b c d, Sys2Proof.Laws.SameOpcode.Statement (.minu a b c d) := fun _ _ _ _ => Sys2Proof.Laws.sameOpcode_of_parts _
theorem Sys2Proof.Laws.SameOpcode.maxs : ∀ a b c d, Sys2Proof.Laws.SameOpcode.Statement (.maxs a b c d) := fun _ _ _ _ => Sys2Proof.Laws.sameOpcode_of_parts _
theorem Sys2Proof.Laws.SameOpcode.maxu : ∀ a b c d, Sys2Proof.Laws.SameOpcode.Statement (.maxu a b c d) := fun _ _ _ _ => Sys2Proof.Laws.sameOpcode_of_parts _
theorem Sys2Proof.Laws.SameOpcode.seq : ∀ a b c d, Sys2Proof.Laws.SameOpcode.Statement (.seq a b c d) := fun _ _ _ _ => Sys2Proof.Laws.sameOpcode_of_parts _
theorem Sys2Proof.Laws.SameOpcode.sne : ∀ a b c d, Sys2Proof.Laws.SameOpcode.Statement (.sne a b c d) := fun _ _ _ _ => Sys2Proof.Laws.sameOpcode_of_parts _
theorem Sys2Proof.Laws.SameOpcode.slt : ∀ a b c d, Sys2Proof.Laws.SameOpcode.Statement (.slt a b c d) := fun _ _ _ _ => Sys2Proof.Laws.sameOpcode_of_parts _
theorem Sys2Proof.Laws.SameOpcode.sltu : ∀ a b c d, Sys2Proof.Laws.SameOpcode.Statement (.sltu a b c d) := fun _ _ _ _ => Sys2Proof.Laws.sameOpcode_of_parts _
theorem Sys2Proof.Laws.SameOpcode.sle : ∀ a b c d, Sys2Proof.Laws.SameOpcode.Statement (.sle a b c d) := fun _ _ _ _ => Sys2Proof.Laws.sameOpcode_of_parts _
theorem Sys2Proof.Laws.SameOpcode.sleu : ∀ a b c d, Sys2Proof.Laws.SameOpcode.Statement (.sleu a b c d) := fun _ _ _ _ => Sys2Proof.Laws.sameOpcode_of_parts _
theorem Sys2Proof.Laws.SameOpcode.csel : ∀ a b c d, Sys2Proof.Laws.SameOpcode.Statement (.csel a b c d) := fun _ _ _ _ => Sys2Proof.Laws.sameOpcode_of_parts _
theorem Sys2Proof.Laws.SameOpcode.mov : ∀ a b c, Sys2Proof.Laws.SameOpcode.Statement (.mov a b c) := fun _ _ _ => Sys2Proof.Laws.sameOpcode_of_parts _
theorem Sys2Proof.Laws.SameOpcode.clz : ∀ a b c, Sys2Proof.Laws.SameOpcode.Statement (.clz a b c) := fun _ _ _ => Sys2Proof.Laws.sameOpcode_of_parts _
theorem Sys2Proof.Laws.SameOpcode.ctz : ∀ a b c, Sys2Proof.Laws.SameOpcode.Statement (.ctz a b c) := fun _ _ _ => Sys2Proof.Laws.sameOpcode_of_parts _
theorem Sys2Proof.Laws.SameOpcode.popc : ∀ a b c, Sys2Proof.Laws.SameOpcode.Statement (.popc a b c) := fun _ _ _ => Sys2Proof.Laws.sameOpcode_of_parts _
theorem Sys2Proof.Laws.SameOpcode.brev : ∀ a b c, Sys2Proof.Laws.SameOpcode.Statement (.brev a b c) := fun _ _ _ => Sys2Proof.Laws.sameOpcode_of_parts _
theorem Sys2Proof.Laws.SameOpcode.abs : ∀ a b c, Sys2Proof.Laws.SameOpcode.Statement (.abs a b c) := fun _ _ _ => Sys2Proof.Laws.sameOpcode_of_parts _
theorem Sys2Proof.Laws.SameOpcode.bfxu : ∀ a b c d, Sys2Proof.Laws.SameOpcode.Statement (.bfxu a b c d) := fun _ _ _ _ => Sys2Proof.Laws.sameOpcode_of_parts _
theorem Sys2Proof.Laws.SameOpcode.bfxs : ∀ a b c d, Sys2Proof.Laws.SameOpcode.Statement (.bfxs a b c d) := fun _ _ _ _ => Sys2Proof.Laws.sameOpcode_of_parts _
theorem Sys2Proof.Laws.SameOpcode.bfi : ∀ a b c d, Sys2Proof.Laws.SameOpcode.Statement (.bfi a b c d) := fun _ _ _ _ => Sys2Proof.Laws.sameOpcode_of_parts _
theorem Sys2Proof.Laws.SameOpcode.addi : ∀ a b c d, Sys2Proof.Laws.SameOpcode.Statement (.addi a b c d) := fun _ _ _ _ => Sys2Proof.Laws.sameOpcode_of_parts _
theorem Sys2Proof.Laws.SameOpcode.andi : ∀ a b c d, Sys2Proof.Laws.SameOpcode.Statement (.andi a b c d) := fun _ _ _ _ => Sys2Proof.Laws.sameOpcode_of_parts _
theorem Sys2Proof.Laws.SameOpcode.ori : ∀ a b c d, Sys2Proof.Laws.SameOpcode.Statement (.ori a b c d) := fun _ _ _ _ => Sys2Proof.Laws.sameOpcode_of_parts _
theorem Sys2Proof.Laws.SameOpcode.xori : ∀ a b c d, Sys2Proof.Laws.SameOpcode.Statement (.xori a b c d) := fun _ _ _ _ => Sys2Proof.Laws.sameOpcode_of_parts _
theorem Sys2Proof.Laws.SameOpcode.shli : ∀ a b c d, Sys2Proof.Laws.SameOpcode.Statement (.shli a b c d) := fun _ _ _ _ => Sys2Proof.Laws.sameOpcode_of_parts _
theorem Sys2Proof.Laws.SameOpcode.shri : ∀ a b c d, Sys2Proof.Laws.SameOpcode.Statement (.shri a b c d) := fun _ _ _ _ => Sys2Proof.Laws.sameOpcode_of_parts _
theorem Sys2Proof.Laws.SameOpcode.sari : ∀ a b c d, Sys2Proof.Laws.SameOpcode.Statement (.sari a b c d) := fun _ _ _ _ => Sys2Proof.Laws.sameOpcode_of_parts _
theorem Sys2Proof.Laws.SameOpcode.movi : ∀ a b c, Sys2Proof.Laws.SameOpcode.Statement (.movi a b c) := fun _ _ _ => Sys2Proof.Laws.sameOpcode_of_parts _
theorem Sys2Proof.Laws.SameOpcode.slti : ∀ a b c d, Sys2Proof.Laws.SameOpcode.Statement (.slti a b c d) := fun _ _ _ _ => Sys2Proof.Laws.sameOpcode_of_parts _
theorem Sys2Proof.Laws.SameOpcode.seqi : ∀ a b c d, Sys2Proof.Laws.SameOpcode.Statement (.seqi a b c d) := fun _ _ _ _ => Sys2Proof.Laws.sameOpcode_of_parts _
theorem Sys2Proof.Laws.SameOpcode.lea1 : ∀ a b c d, Sys2Proof.Laws.SameOpcode.Statement (.lea1 a b c d) := fun _ _ _ _ => Sys2Proof.Laws.sameOpcode_of_parts _
theorem Sys2Proof.Laws.SameOpcode.lea2 : ∀ a b c d, Sys2Proof.Laws.SameOpcode.Statement (.lea2 a b c d) := fun _ _ _ _ => Sys2Proof.Laws.sameOpcode_of_parts _
theorem Sys2Proof.Laws.SameOpcode.lea4 : ∀ a b c d, Sys2Proof.Laws.SameOpcode.Statement (.lea4 a b c d) := fun _ _ _ _ => Sys2Proof.Laws.sameOpcode_of_parts _
theorem Sys2Proof.Laws.SameOpcode.lea8 : ∀ a b c d, Sys2Proof.Laws.SameOpcode.Statement (.lea8 a b c d) := fun _ _ _ _ => Sys2Proof.Laws.sameOpcode_of_parts _
theorem Sys2Proof.Laws.SameOpcode.add64 : ∀ a b c d, Sys2Proof.Laws.SameOpcode.Statement (.add64 a b c d) := fun _ _ _ _ => Sys2Proof.Laws.sameOpcode_of_parts _
theorem Sys2Proof.Laws.SameOpcode.sub64 : ∀ a b c d, Sys2Proof.Laws.SameOpcode.Statement (.sub64 a b c d) := fun _ _ _ _ => Sys2Proof.Laws.sameOpcode_of_parts _
theorem Sys2Proof.Laws.SameOpcode.mulw : ∀ a b c d, Sys2Proof.Laws.SameOpcode.Statement (.mulw a b c d) := fun _ _ _ _ => Sys2Proof.Laws.sameOpcode_of_parts _
theorem Sys2Proof.Laws.SameOpcode.sltu64 : ∀ a b c d, Sys2Proof.Laws.SameOpcode.Statement (.sltu64 a b c d) := fun _ _ _ _ => Sys2Proof.Laws.sameOpcode_of_parts _
theorem Sys2Proof.Laws.SameOpcode.fadd : ∀ a b c d, Sys2Proof.Laws.SameOpcode.Statement (.fadd a b c d) := fun _ _ _ _ => Sys2Proof.Laws.sameOpcode_of_parts _
theorem Sys2Proof.Laws.SameOpcode.fsub : ∀ a b c d, Sys2Proof.Laws.SameOpcode.Statement (.fsub a b c d) := fun _ _ _ _ => Sys2Proof.Laws.sameOpcode_of_parts _
theorem Sys2Proof.Laws.SameOpcode.fmul : ∀ a b c d, Sys2Proof.Laws.SameOpcode.Statement (.fmul a b c d) := fun _ _ _ _ => Sys2Proof.Laws.sameOpcode_of_parts _
theorem Sys2Proof.Laws.SameOpcode.ffma : ∀ a b c d, Sys2Proof.Laws.SameOpcode.Statement (.ffma a b c d) := fun _ _ _ _ => Sys2Proof.Laws.sameOpcode_of_parts _
theorem Sys2Proof.Laws.SameOpcode.ffms : ∀ a b c d, Sys2Proof.Laws.SameOpcode.Statement (.ffms a b c d) := fun _ _ _ _ => Sys2Proof.Laws.sameOpcode_of_parts _
theorem Sys2Proof.Laws.SameOpcode.fmin : ∀ a b c d, Sys2Proof.Laws.SameOpcode.Statement (.fmin a b c d) := fun _ _ _ _ => Sys2Proof.Laws.sameOpcode_of_parts _
theorem Sys2Proof.Laws.SameOpcode.fmax : ∀ a b c d, Sys2Proof.Laws.SameOpcode.Statement (.fmax a b c d) := fun _ _ _ _ => Sys2Proof.Laws.sameOpcode_of_parts _
theorem Sys2Proof.Laws.SameOpcode.fcps : ∀ a b c d, Sys2Proof.Laws.SameOpcode.Statement (.fcps a b c d) := fun _ _ _ _ => Sys2Proof.Laws.sameOpcode_of_parts _
theorem Sys2Proof.Laws.SameOpcode.feq : ∀ a b c d, Sys2Proof.Laws.SameOpcode.Statement (.feq a b c d) := fun _ _ _ _ => Sys2Proof.Laws.sameOpcode_of_parts _
theorem Sys2Proof.Laws.SameOpcode.flt : ∀ a b c d, Sys2Proof.Laws.SameOpcode.Statement (.flt a b c d) := fun _ _ _ _ => Sys2Proof.Laws.sameOpcode_of_parts _
theorem Sys2Proof.Laws.SameOpcode.fle : ∀ a b c d, Sys2Proof.Laws.SameOpcode.Statement (.fle a b c d) := fun _ _ _ _ => Sys2Proof.Laws.sameOpcode_of_parts _
theorem Sys2Proof.Laws.SameOpcode.funo : ∀ a b c d, Sys2Proof.Laws.SameOpcode.Statement (.funo a b c d) := fun _ _ _ _ => Sys2Proof.Laws.sameOpcode_of_parts _
theorem Sys2Proof.Laws.SameOpcode.frcp : ∀ a b c, Sys2Proof.Laws.SameOpcode.Statement (.frcp a b c) := fun _ _ _ => Sys2Proof.Laws.sameOpcode_of_parts _
theorem Sys2Proof.Laws.SameOpcode.frsq : ∀ a b c, Sys2Proof.Laws.SameOpcode.Statement (.frsq a b c) := fun _ _ _ => Sys2Proof.Laws.sameOpcode_of_parts _
theorem Sys2Proof.Laws.SameOpcode.fsqrt : ∀ a b c, Sys2Proof.Laws.SameOpcode.Statement (.fsqrt a b c) := fun _ _ _ => Sys2Proof.Laws.sameOpcode_of_parts _
theorem Sys2Proof.Laws.SameOpcode.fdiv : ∀ a b c d, Sys2Proof.Laws.SameOpcode.Statement (.fdiv a b c d) := fun _ _ _ _ => Sys2Proof.Laws.sameOpcode_of_parts _
theorem Sys2Proof.Laws.SameOpcode.fexp2 : ∀ a b c, Sys2Proof.Laws.SameOpcode.Statement (.fexp2 a b c) := fun _ _ _ => Sys2Proof.Laws.sameOpcode_of_parts _
theorem Sys2Proof.Laws.SameOpcode.flog2 : ∀ a b c, Sys2Proof.Laws.SameOpcode.Statement (.flog2 a b c) := fun _ _ _ => Sys2Proof.Laws.sameOpcode_of_parts _
theorem Sys2Proof.Laws.SameOpcode.fsin : ∀ a b c, Sys2Proof.Laws.SameOpcode.Statement (.fsin a b c) := fun _ _ _ => Sys2Proof.Laws.sameOpcode_of_parts _
theorem Sys2Proof.Laws.SameOpcode.fcos : ∀ a b c, Sys2Proof.Laws.SameOpcode.Statement (.fcos a b c) := fun _ _ _ => Sys2Proof.Laws.sameOpcode_of_parts _
theorem Sys2Proof.Laws.SameOpcode.dadd : ∀ a b c d, Sys2Proof.Laws.SameOpcode.Statement (.dadd a b c d) := fun _ _ _ _ => Sys2Proof.Laws.sameOpcode_of_parts _
theorem Sys2Proof.Laws.SameOpcode.dsub : ∀ a b c d, Sys2Proof.Laws.SameOpcode.Statement (.dsub a b c d) := fun _ _ _ _ => Sys2Proof.Laws.sameOpcode_of_parts _
theorem Sys2Proof.Laws.SameOpcode.dmul : ∀ a b c d, Sys2Proof.Laws.SameOpcode.Statement (.dmul a b c d) := fun _ _ _ _ => Sys2Proof.Laws.sameOpcode_of_parts _
theorem Sys2Proof.Laws.SameOpcode.dfma : ∀ a b c d, Sys2Proof.Laws.SameOpcode.Statement (.dfma a b c d) := fun _ _ _ _ => Sys2Proof.Laws.sameOpcode_of_parts _
theorem Sys2Proof.Laws.SameOpcode.dmin : ∀ a b c d, Sys2Proof.Laws.SameOpcode.Statement (.dmin a b c d) := fun _ _ _ _ => Sys2Proof.Laws.sameOpcode_of_parts _
theorem Sys2Proof.Laws.SameOpcode.dmax : ∀ a b c d, Sys2Proof.Laws.SameOpcode.Statement (.dmax a b c d) := fun _ _ _ _ => Sys2Proof.Laws.sameOpcode_of_parts _
theorem Sys2Proof.Laws.SameOpcode.deq : ∀ a b c d, Sys2Proof.Laws.SameOpcode.Statement (.deq a b c d) := fun _ _ _ _ => Sys2Proof.Laws.sameOpcode_of_parts _
theorem Sys2Proof.Laws.SameOpcode.dlt : ∀ a b c d, Sys2Proof.Laws.SameOpcode.Statement (.dlt a b c d) := fun _ _ _ _ => Sys2Proof.Laws.sameOpcode_of_parts _
theorem Sys2Proof.Laws.SameOpcode.dle : ∀ a b c d, Sys2Proof.Laws.SameOpcode.Statement (.dle a b c d) := fun _ _ _ _ => Sys2Proof.Laws.sameOpcode_of_parts _
theorem Sys2Proof.Laws.SameOpcode.ddiv : ∀ a b c d, Sys2Proof.Laws.SameOpcode.Statement (.ddiv a b c d) := fun _ _ _ _ => Sys2Proof.Laws.sameOpcode_of_parts _
theorem Sys2Proof.Laws.SameOpcode.dsqrt : ∀ a b c, Sys2Proof.Laws.SameOpcode.Statement (.dsqrt a b c) := fun _ _ _ => Sys2Proof.Laws.sameOpcode_of_parts _
theorem Sys2Proof.Laws.SameOpcode.drcp : ∀ a b c, Sys2Proof.Laws.SameOpcode.Statement (.drcp a b c) := fun _ _ _ => Sys2Proof.Laws.sameOpcode_of_parts _
theorem Sys2Proof.Laws.SameOpcode.hadd2 : ∀ a b c d, Sys2Proof.Laws.SameOpcode.Statement (.hadd2 a b c d) := fun _ _ _ _ => Sys2Proof.Laws.sameOpcode_of_parts _
theorem Sys2Proof.Laws.SameOpcode.hmul2 : ∀ a b c d, Sys2Proof.Laws.SameOpcode.Statement (.hmul2 a b c d) := fun _ _ _ _ => Sys2Proof.Laws.sameOpcode_of_parts _
theorem Sys2Proof.Laws.SameOpcode.hfma2 : ∀ a b c d, Sys2Proof.Laws.SameOpcode.Statement (.hfma2 a b c d) := fun _ _ _ _ => Sys2Proof.Laws.sameOpcode_of_parts _
theorem Sys2Proof.Laws.SameOpcode.badd2 : ∀ a b c d, Sys2Proof.Laws.SameOpcode.Statement (.badd2 a b c d) := fun _ _ _ _ => Sys2Proof.Laws.sameOpcode_of_parts _
theorem Sys2Proof.Laws.SameOpcode.bmul2 : ∀ a b c d, Sys2Proof.Laws.SameOpcode.Statement (.bmul2 a b c d) := fun _ _ _ _ => Sys2Proof.Laws.sameOpcode_of_parts _
theorem Sys2Proof.Laws.SameOpcode.bfma2 : ∀ a b c d, Sys2Proof.Laws.SameOpcode.Statement (.bfma2 a b c d) := fun _ _ _ _ => Sys2Proof.Laws.sameOpcode_of_parts _
theorem Sys2Proof.Laws.SameOpcode.cvt : ∀ a b c d, Sys2Proof.Laws.SameOpcode.Statement (.cvt a b c d) := fun _ _ _ _ => Sys2Proof.Laws.sameOpcode_of_parts _
theorem Sys2Proof.Laws.SameOpcode.cvtz : ∀ a b c d, Sys2Proof.Laws.SameOpcode.Statement (.cvtz a b c d) := fun _ _ _ _ => Sys2Proof.Laws.sameOpcode_of_parts _
theorem Sys2Proof.Laws.SameOpcode.fclass : ∀ a b c, Sys2Proof.Laws.SameOpcode.Statement (.fclass a b c) := fun _ _ _ => Sys2Proof.Laws.sameOpcode_of_parts _
theorem Sys2Proof.Laws.SameOpcode.fldx : ∀ a b c d, Sys2Proof.Laws.SameOpcode.Statement (.fldx a b c d) := fun _ _ _ _ => Sys2Proof.Laws.sameOpcode_of_parts _
theorem Sys2Proof.Laws.SameOpcode.frnd : ∀ a b c d, Sys2Proof.Laws.SameOpcode.Statement (.frnd a b c d) := fun _ _ _ _ => Sys2Proof.Laws.sameOpcode_of_parts _
theorem Sys2Proof.Laws.SameOpcode.drnd : ∀ a b c d, Sys2Proof.Laws.SameOpcode.Statement (.drnd a b c d) := fun _ _ _ _ => Sys2Proof.Laws.sameOpcode_of_parts _
theorem Sys2Proof.Laws.SameOpcode.fdot2 : ∀ a b c d, Sys2Proof.Laws.SameOpcode.Statement (.fdot2 a b c d) := fun _ _ _ _ => Sys2Proof.Laws.sameOpcode_of_parts _
theorem Sys2Proof.Laws.SameOpcode.hdot2 : ∀ a b c d, Sys2Proof.Laws.SameOpcode.Statement (.hdot2 a b c d) := fun _ _ _ _ => Sys2Proof.Laws.sameOpcode_of_parts _
theorem Sys2Proof.Laws.SameOpcode.packb : ∀ a b c d, Sys2Proof.Laws.SameOpcode.Statement (.packb a b c d) := fun _ _ _ _ => Sys2Proof.Laws.sameOpcode_of_parts _
theorem Sys2Proof.Laws.SameOpcode.packh : ∀ a b c d, Sys2Proof.Laws.SameOpcode.Statement (.packh a b c d) := fun _ _ _ _ => Sys2Proof.Laws.sameOpcode_of_parts _
theorem Sys2Proof.Laws.SameOpcode.ldb : ∀ a b c d, Sys2Proof.Laws.SameOpcode.Statement (.ldb a b c d) := fun _ _ _ _ => Sys2Proof.Laws.sameOpcode_of_parts _
theorem Sys2Proof.Laws.SameOpcode.ldbs : ∀ a b c d, Sys2Proof.Laws.SameOpcode.Statement (.ldbs a b c d) := fun _ _ _ _ => Sys2Proof.Laws.sameOpcode_of_parts _
theorem Sys2Proof.Laws.SameOpcode.ldh : ∀ a b c d, Sys2Proof.Laws.SameOpcode.Statement (.ldh a b c d) := fun _ _ _ _ => Sys2Proof.Laws.sameOpcode_of_parts _
theorem Sys2Proof.Laws.SameOpcode.ldhs : ∀ a b c d, Sys2Proof.Laws.SameOpcode.Statement (.ldhs a b c d) := fun _ _ _ _ => Sys2Proof.Laws.sameOpcode_of_parts _
theorem Sys2Proof.Laws.SameOpcode.ldw : ∀ a b c d, Sys2Proof.Laws.SameOpcode.Statement (.ldw a b c d) := fun _ _ _ _ => Sys2Proof.Laws.sameOpcode_of_parts _
theorem Sys2Proof.Laws.SameOpcode.ldd : ∀ a b c d, Sys2Proof.Laws.SameOpcode.Statement (.ldd a b c d) := fun _ _ _ _ => Sys2Proof.Laws.sameOpcode_of_parts _
theorem Sys2Proof.Laws.SameOpcode.ldq : ∀ a b c d, Sys2Proof.Laws.SameOpcode.Statement (.ldq a b c d) := fun _ _ _ _ => Sys2Proof.Laws.sameOpcode_of_parts _
theorem Sys2Proof.Laws.SameOpcode.stb : ∀ a b c d, Sys2Proof.Laws.SameOpcode.Statement (.stb a b c d) := fun _ _ _ _ => Sys2Proof.Laws.sameOpcode_of_parts _
theorem Sys2Proof.Laws.SameOpcode.sth : ∀ a b c d, Sys2Proof.Laws.SameOpcode.Statement (.sth a b c d) := fun _ _ _ _ => Sys2Proof.Laws.sameOpcode_of_parts _
theorem Sys2Proof.Laws.SameOpcode.stw : ∀ a b c d, Sys2Proof.Laws.SameOpcode.Statement (.stw a b c d) := fun _ _ _ _ => Sys2Proof.Laws.sameOpcode_of_parts _
theorem Sys2Proof.Laws.SameOpcode.std : ∀ a b c d, Sys2Proof.Laws.SameOpcode.Statement (.std a b c d) := fun _ _ _ _ => Sys2Proof.Laws.sameOpcode_of_parts _
theorem Sys2Proof.Laws.SameOpcode.stq : ∀ a b c d, Sys2Proof.Laws.SameOpcode.Statement (.stq a b c d) := fun _ _ _ _ => Sys2Proof.Laws.sameOpcode_of_parts _
theorem Sys2Proof.Laws.SameOpcode.ldo : ∀ a b c d e f, Sys2Proof.Laws.SameOpcode.Statement (.ldo a b c d e f) := fun _ _ _ _ _ _ => Sys2Proof.Laws.sameOpcode_of_parts _
theorem Sys2Proof.Laws.SameOpcode.sto : ∀ a b c d e f, Sys2Proof.Laws.SameOpcode.Statement (.sto a b c d e f) := fun _ _ _ _ _ _ => Sys2Proof.Laws.sameOpcode_of_parts _
theorem Sys2Proof.Laws.SameOpcode.aadd : ∀ a b c d e f, Sys2Proof.Laws.SameOpcode.Statement (.aadd a b c d e f) := fun _ _ _ _ _ _ => Sys2Proof.Laws.sameOpcode_of_parts _
theorem Sys2Proof.Laws.SameOpcode.aand : ∀ a b c d e f, Sys2Proof.Laws.SameOpcode.Statement (.aand a b c d e f) := fun _ _ _ _ _ _ => Sys2Proof.Laws.sameOpcode_of_parts _
theorem Sys2Proof.Laws.SameOpcode.aor : ∀ a b c d e f, Sys2Proof.Laws.SameOpcode.Statement (.aor a b c d e f) := fun _ _ _ _ _ _ => Sys2Proof.Laws.sameOpcode_of_parts _
theorem Sys2Proof.Laws.SameOpcode.axor : ∀ a b c d e f, Sys2Proof.Laws.SameOpcode.Statement (.axor a b c d e f) := fun _ _ _ _ _ _ => Sys2Proof.Laws.sameOpcode_of_parts _
theorem Sys2Proof.Laws.SameOpcode.amins : ∀ a b c d e f, Sys2Proof.Laws.SameOpcode.Statement (.amins a b c d e f) := fun _ _ _ _ _ _ => Sys2Proof.Laws.sameOpcode_of_parts _
theorem Sys2Proof.Laws.SameOpcode.aminu : ∀ a b c d e f, Sys2Proof.Laws.SameOpcode.Statement (.aminu a b c d e f) := fun _ _ _ _ _ _ => Sys2Proof.Laws.sameOpcode_of_parts _
theorem Sys2Proof.Laws.SameOpcode.amaxs : ∀ a b c d e f, Sys2Proof.Laws.SameOpcode.Statement (.amaxs a b c d e f) := fun _ _ _ _ _ _ => Sys2Proof.Laws.sameOpcode_of_parts _
theorem Sys2Proof.Laws.SameOpcode.amaxu : ∀ a b c d e f, Sys2Proof.Laws.SameOpcode.Statement (.amaxu a b c d e f) := fun _ _ _ _ _ _ => Sys2Proof.Laws.sameOpcode_of_parts _
theorem Sys2Proof.Laws.SameOpcode.axch : ∀ a b c d e f, Sys2Proof.Laws.SameOpcode.Statement (.axch a b c d e f) := fun _ _ _ _ _ _ => Sys2Proof.Laws.sameOpcode_of_parts _
theorem Sys2Proof.Laws.SameOpcode.acas : ∀ a b c d e f, Sys2Proof.Laws.SameOpcode.Statement (.acas a b c d e f) := fun _ _ _ _ _ _ => Sys2Proof.Laws.sameOpcode_of_parts _
theorem Sys2Proof.Laws.SameOpcode.afxa : ∀ a b c d e f, Sys2Proof.Laws.SameOpcode.Statement (.afxa a b c d e f) := fun _ _ _ _ _ _ => Sys2Proof.Laws.sameOpcode_of_parts _
theorem Sys2Proof.Laws.SameOpcode.afxr : ∀ a b c d e f, Sys2Proof.Laws.SameOpcode.Statement (.afxr a b c d e f) := fun _ _ _ _ _ _ => Sys2Proof.Laws.sameOpcode_of_parts _
theorem Sys2Proof.Laws.SameOpcode.afxz : ∀ a b c d e, Sys2Proof.Laws.SameOpcode.Statement (.afxz a b c d e) := fun _ _ _ _ _ => Sys2Proof.Laws.sameOpcode_of_parts _
theorem Sys2Proof.Laws.SameOpcode.fence : ∀ a b c, Sys2Proof.Laws.SameOpcode.Statement (.fence a b c) := fun _ _ _ => Sys2Proof.Laws.sameOpcode_of_parts _
theorem Sys2Proof.Laws.SameOpcode.tgrab : ∀ a b c, Sys2Proof.Laws.SameOpcode.Statement (.tgrab a b c) := fun _ _ _ => Sys2Proof.Laws.sameOpcode_of_parts _
theorem Sys2Proof.Laws.SameOpcode.tinit : ∀ a b c, Sys2Proof.Laws.SameOpcode.Statement (.tinit a b c) := fun _ _ _ => Sys2Proof.Laws.sameOpcode_of_parts _
theorem Sys2Proof.Laws.SameOpcode.vote : ∀ a b c d, Sys2Proof.Laws.SameOpcode.Statement (.vote a b c d) := fun _ _ _ _ => Sys2Proof.Laws.sameOpcode_of_parts _
theorem Sys2Proof.Laws.SameOpcode.shfi : ∀ a b c d, Sys2Proof.Laws.SameOpcode.Statement (.shfi a b c d) := fun _ _ _ _ => Sys2Proof.Laws.sameOpcode_of_parts _
theorem Sys2Proof.Laws.SameOpcode.shfu : ∀ a b c d, Sys2Proof.Laws.SameOpcode.Statement (.shfu a b c d) := fun _ _ _ _ => Sys2Proof.Laws.sameOpcode_of_parts _
theorem Sys2Proof.Laws.SameOpcode.shfd : ∀ a b c d, Sys2Proof.Laws.SameOpcode.Statement (.shfd a b c d) := fun _ _ _ _ => Sys2Proof.Laws.sameOpcode_of_parts _
theorem Sys2Proof.Laws.SameOpcode.shfx : ∀ a b c d, Sys2Proof.Laws.SameOpcode.Statement (.shfx a b c d) := fun _ _ _ _ => Sys2Proof.Laws.sameOpcode_of_parts _
theorem Sys2Proof.Laws.SameOpcode.redf : ∀ a b c d, Sys2Proof.Laws.SameOpcode.Statement (.redf a b c d) := fun _ _ _ _ => Sys2Proof.Laws.sameOpcode_of_parts _
theorem Sys2Proof.Laws.SameOpcode.redi : ∀ a b c d, Sys2Proof.Laws.SameOpcode.Statement (.redi a b c d) := fun _ _ _ _ => Sys2Proof.Laws.sameOpcode_of_parts _
theorem Sys2Proof.Laws.SameOpcode.scni : ∀ a b c d e, Sys2Proof.Laws.SameOpcode.Statement (.scni a b c d e) := fun _ _ _ _ _ => Sys2Proof.Laws.sameOpcode_of_parts _
theorem Sys2Proof.Laws.SameOpcode.matchw : ∀ a b c, Sys2Proof.Laws.SameOpcode.Statement (.matchw a b c) := fun _ _ _ => Sys2Proof.Laws.sameOpcode_of_parts _
theorem Sys2Proof.Laws.SameOpcode.elect : ∀ a b, Sys2Proof.Laws.SameOpcode.Statement (.elect a b) := fun _ _ => Sys2Proof.Laws.sameOpcode_of_parts _
theorem Sys2Proof.Laws.SameOpcode.qswz : ∀ a b c d, Sys2Proof.Laws.SameOpcode.Statement (.qswz a b c d) := fun _ _ _ _ => Sys2Proof.Laws.sameOpcode_of_parts _
theorem Sys2Proof.Laws.SameOpcode.sbind : ∀ a b c d, Sys2Proof.Laws.SameOpcode.Statement (.sbind a b c d) := fun _ _ _ _ => Sys2Proof.Laws.sameOpcode_of_parts _
theorem Sys2Proof.Laws.SameOpcode.spos : ∀ a b c d e, Sys2Proof.Laws.SameOpcode.Statement (.spos a b c d e) := fun _ _ _ _ _ => Sys2Proof.Laws.sameOpcode_of_parts _
theorem Sys2Proof.Laws.SameOpcode.qbind : ∀ a b c, Sys2Proof.Laws.SameOpcode.Statement (.qbind a b c) := fun _ _ _ => Sys2Proof.Laws.sameOpcode_of_parts _
theorem Sys2Proof.Laws.SameOpcode.wspl : ∀ a b, Sys2Proof.Laws.SameOpcode.Statement (.wspl a b) := fun _ _ => Sys2Proof.Laws.sameOpcode_of_parts _
theorem Sys2Proof.Laws.SameOpcode.wfil : ∀ a b, Sys2Proof.Laws.SameOpcode.Statement (.wfil a b) := fun _ _ => Sys2Proof.Laws.sameOpcode_of_parts _
theorem Sys2Proof.Laws.SameOpcode.dsp : ∀ a b, Sys2Proof.Laws.SameOpcode.Statement (.dsp a b) := fun _ _ => Sys2Proof.Laws.sameOpcode_of_parts _
theorem Sys2Proof.Laws.SameOpcode.gldb : ∀ a b c, Sys2Proof.Laws.SameOpcode.Statement (.gldb a b c) := fun _ _ _ => Sys2Proof.Laws.sameOpcode_of_parts _
theorem Sys2Proof.Laws.SameOpcode.gldbs : ∀ a b c, Sys2Proof.Laws.SameOpcode.Statement (.gldbs a b c) := fun _ _ _ => Sys2Proof.Laws.sameOpcode_of_parts _
theorem Sys2Proof.Laws.SameOpcode.gldh : ∀ a b c, Sys2Proof.Laws.SameOpcode.Statement (.gldh a b c) := fun _ _ _ => Sys2Proof.Laws.sameOpcode_of_parts _
theorem Sys2Proof.Laws.SameOpcode.gldhs : ∀ a b c, Sys2Proof.Laws.SameOpcode.Statement (.gldhs a b c) := fun _ _ _ => Sys2Proof.Laws.sameOpcode_of_parts _
theorem Sys2Proof.Laws.SameOpcode.gldw : ∀ a b c, Sys2Proof.Laws.SameOpcode.Statement (.gldw a b c) := fun _ _ _ => Sys2Proof.Laws.sameOpcode_of_parts _
theorem Sys2Proof.Laws.SameOpcode.gadv : ∀ a b, Sys2Proof.Laws.SameOpcode.Statement (.gadv a b) := fun _ _ => Sys2Proof.Laws.sameOpcode_of_parts _
theorem Sys2Proof.Laws.SameOpcode.gjmp : ∀ a b, Sys2Proof.Laws.SameOpcode.Statement (.gjmp a b) := fun _ _ => Sys2Proof.Laws.sameOpcode_of_parts _
theorem Sys2Proof.Laws.SameOpcode.gjrel : ∀ a b, Sys2Proof.Laws.SameOpcode.Statement (.gjrel a b) := fun _ _ => Sys2Proof.Laws.sameOpcode_of_parts _
theorem Sys2Proof.Laws.SameOpcode.gtrap : ∀ a b, Sys2Proof.Laws.SameOpcode.Statement (.gtrap a b) := fun _ _ => Sys2Proof.Laws.sameOpcode_of_parts _
theorem Sys2Proof.Laws.SameOpcode.bld : ∀ a b c d, Sys2Proof.Laws.SameOpcode.Statement (.bld a b c d) := fun _ _ _ _ => Sys2Proof.Laws.sameOpcode_of_parts _
theorem Sys2Proof.Laws.SameOpcode.cbl : ∀ a b c, Sys2Proof.Laws.SameOpcode.Statement (.cbl a b c) := fun _ _ _ => Sys2Proof.Laws.sameOpcode_of_parts _
theorem Sys2Proof.Laws.SameOpcode.mma : ∀ a b c d, Sys2Proof.Laws.SameOpcode.Statement (.mma a b c d) := fun _ _ _ _ => Sys2Proof.Laws.sameOpcode_of_parts _
theorem Sys2Proof.Laws.SameOpcode.mmab : ∀ a b c d, Sys2Proof.Laws.SameOpcode.Statement (.mmab a b c d) := fun _ _ _ _ => Sys2Proof.Laws.sameOpcode_of_parts _
theorem Sys2Proof.Laws.SameOpcode.mmas : ∀ a b c d, Sys2Proof.Laws.SameOpcode.Statement (.mmas a b c d) := fun _ _ _ _ => Sys2Proof.Laws.sameOpcode_of_parts _
theorem Sys2Proof.Laws.SameOpcode.drn : ∀ a b c d e, Sys2Proof.Laws.SameOpcode.Statement (.drn a b c d e) := fun _ _ _ _ _ => Sys2Proof.Laws.sameOpcode_of_parts _
theorem Sys2Proof.Laws.SameOpcode.acz : ∀ a b c, Sys2Proof.Laws.SameOpcode.Statement (.acz a b c) := fun _ _ _ => Sys2Proof.Laws.sameOpcode_of_parts _
theorem Sys2Proof.Laws.SameOpcode.acl : ∀ a b c d e, Sys2Proof.Laws.SameOpcode.Statement (.acl a b c d e) := fun _ _ _ _ _ => Sys2Proof.Laws.sameOpcode_of_parts _
theorem Sys2Proof.Laws.SameOpcode.rqt : ∀ a b c d, Sys2Proof.Laws.SameOpcode.Statement (.rqt a b c d) := fun _ _ _ _ => Sys2Proof.Laws.sameOpcode_of_parts _
theorem Sys2Proof.Laws.SameOpcode.mstat : ∀ a b c, Sys2Proof.Laws.SameOpcode.Statement (.mstat a b c) := fun _ _ _ => Sys2Proof.Laws.sameOpcode_of_parts _
theorem Sys2Proof.Laws.SameOpcode.dwait : ∀ a b c, Sys2Proof.Laws.SameOpcode.Statement (.dwait a b c) := fun _ _ _ => Sys2Proof.Laws.sameOpcode_of_parts _
theorem Sys2Proof.Laws.SameOpcode.dpoll : ∀ a b c, Sys2Proof.Laws.SameOpcode.Statement (.dpoll a b c) := fun _ _ _ => Sys2Proof.Laws.sameOpcode_of_parts _
theorem Sys2Proof.Laws.SameOpcode.drst : ∀ a b, Sys2Proof.Laws.SameOpcode.Statement (.drst a b) := fun _ _ => Sys2Proof.Laws.sameOpcode_of_parts _
theorem Sys2Proof.Laws.SameOpcode.rwait : ∀ a b c, Sys2Proof.Laws.SameOpcode.Statement (.rwait a b c) := fun _ _ _ => Sys2Proof.Laws.sameOpcode_of_parts _
theorem Sys2Proof.Laws.SameOpcode.rrel : ∀ a b, Sys2Proof.Laws.SameOpcode.Statement (.rrel a b) := fun _ _ => Sys2Proof.Laws.sameOpcode_of_parts _
theorem Sys2Proof.Laws.SameOpcode.rclm : ∀ a b c, Sys2Proof.Laws.SameOpcode.Statement (.rclm a b c) := fun _ _ _ => Sys2Proof.Laws.sameOpcode_of_parts _
theorem Sys2Proof.Laws.SameOpcode.rcmt : ∀ a b c, Sys2Proof.Laws.SameOpcode.Statement (.rcmt a b c) := fun _ _ _ => Sys2Proof.Laws.sameOpcode_of_parts _
theorem Sys2Proof.Laws.SameOpcode.bar : ∀ a b, Sys2Proof.Laws.SameOpcode.Statement (.bar a b) := fun _ _ => Sys2Proof.Laws.sameOpcode_of_parts _
theorem Sys2Proof.Laws.SameOpcode.bara : ∀ a b c, Sys2Proof.Laws.SameOpcode.Statement (.bara a b c) := fun _ _ _ => Sys2Proof.Laws.sameOpcode_of_parts _
theorem Sys2Proof.Laws.SameOpcode.barw : ∀ a b c, Sys2Proof.Laws.SameOpcode.Statement (.barw a b c) := fun _ _ _ => Sys2Proof.Laws.sameOpcode_of_parts _
theorem Sys2Proof.Laws.SameOpcode.srd : ∀ a b c, Sys2Proof.Laws.SameOpcode.Statement (.srd a b c) := fun _ _ _ => Sys2Proof.Laws.sameOpcode_of_parts _
theorem Sys2Proof.Laws.SameOpcode.swr : ∀ a b c, Sys2Proof.Laws.SameOpcode.Statement (.swr a b c) := fun _ _ _ => Sys2Proof.Laws.sameOpcode_of_parts _
theorem Sys2Proof.Laws.SameOpcode.pcrd : ∀ a b c, Sys2Proof.Laws.SameOpcode.Statement (.pcrd a b c) := fun _ _ _ => Sys2Proof.Laws.sameOpcode_of_parts _
theorem Sys2Proof.Laws.SameOpcode.tmrk : ∀ a b, Sys2Proof.Laws.SameOpcode.Statement (.tmrk a b) := fun _ _ => Sys2Proof.Laws.sameOpcode_of_parts _
theorem Sys2Proof.Laws.SameOpcode.time : ∀ a b, Sys2Proof.Laws.SameOpcode.Statement (.time a b) := fun _ _ => Sys2Proof.Laws.sameOpcode_of_parts _
theorem Sys2Proof.Laws.SameOpcode.toluneInstruction : ∀ a b, Sys2Proof.Laws.SameOpcode.Statement (.toluneInstruction a b) := fun _ _ => Sys2Proof.Laws.sameOpcode_of_parts _
theorem Sys2Proof.Laws.SameOpcode.portRunChoice : ∀ a b, Sys2Proof.Laws.SameOpcode.Statement (.portRunChoice a b) := fun _ _ => Sys2Proof.Laws.sameOpcode_of_parts _
theorem Sys2Proof.Laws.SameOpcode.strayIssue : ∀ a b, Sys2Proof.Laws.SameOpcode.Statement (.strayIssue a b) := fun _ _ => Sys2Proof.Laws.sameOpcode_of_parts _
theorem Sys2Proof.Laws.SameOpcode.strayPromotion : ∀ a b, Sys2Proof.Laws.SameOpcode.Statement (.strayPromotion a b) := fun _ _ => Sys2Proof.Laws.sameOpcode_of_parts _
theorem Sys2Proof.Laws.SameOpcode.gangAgingPromotion : ∀ a b, Sys2Proof.Laws.SameOpcode.Statement (.gangAgingPromotion a b) := fun _ _ => Sys2Proof.Laws.sameOpcode_of_parts _
theorem Sys2Proof.Laws.SameOpcode.regroupHoldExpiry : ∀ a b, Sys2Proof.Laws.SameOpcode.Statement (.regroupHoldExpiry a b) := fun _ _ => Sys2Proof.Laws.sameOpcode_of_parts _
theorem Sys2Proof.Laws.SameOpcode.loopBufferRefill : ∀ a b, Sys2Proof.Laws.SameOpcode.Statement (.loopBufferRefill a b) := fun _ _ => Sys2Proof.Laws.sameOpcode_of_parts _
theorem Sys2Proof.Laws.SameOpcode.loadResultDeliver : ∀ a b c, Sys2Proof.Laws.SameOpcode.Statement (.loadResultDeliver a b c) := fun _ _ _ => Sys2Proof.Laws.sameOpcode_of_parts _
theorem Sys2Proof.Laws.SameOpcode.storePerformed : ∀ a, Sys2Proof.Laws.SameOpcode.Statement (.storePerformed a) := fun _ => Sys2Proof.Laws.sameOpcode_of_parts _
theorem Sys2Proof.Laws.SameOpcode.atomicResultDeliver : ∀ a b c, Sys2Proof.Laws.SameOpcode.Statement (.atomicResultDeliver a b c) := fun _ _ _ => Sys2Proof.Laws.sameOpcode_of_parts _
theorem Sys2Proof.Laws.SameOpcode.divideResultDeliver : ∀ a b c, Sys2Proof.Laws.SameOpcode.Statement (.divideResultDeliver a b c) := fun _ _ _ => Sys2Proof.Laws.sameOpcode_of_parts _
theorem Sys2Proof.Laws.SameOpcode.fdivResultDeliver : ∀ a b c, Sys2Proof.Laws.SameOpcode.Statement (.fdivResultDeliver a b c) := fun _ _ _ => Sys2Proof.Laws.sameOpcode_of_parts _
theorem Sys2Proof.Laws.SameOpcode.guestLoadDeliver : ∀ a b c, Sys2Proof.Laws.SameOpcode.Statement (.guestLoadDeliver a b c) := fun _ _ _ => Sys2Proof.Laws.sameOpcode_of_parts _
theorem Sys2Proof.Laws.SameOpcode.rputWriteDeliver : ∀ a b c, Sys2Proof.Laws.SameOpcode.Statement (.rputWriteDeliver a b c) := fun _ _ _ => Sys2Proof.Laws.sameOpcode_of_parts _
theorem Sys2Proof.Laws.SameOpcode.dspReadsComplete : ∀ a b, Sys2Proof.Laws.SameOpcode.Statement (.dspReadsComplete a b) := fun _ _ => Sys2Proof.Laws.sameOpcode_of_parts _
theorem Sys2Proof.Laws.SameOpcode.spinwReread : ∀ a b, Sys2Proof.Laws.SameOpcode.Statement (.spinwReread a b) := fun _ _ => Sys2Proof.Laws.sameOpcode_of_parts _
theorem Sys2Proof.Laws.SameOpcode.dpollResultDeliver : ∀ a b c, Sys2Proof.Laws.SameOpcode.Statement (.dpollResultDeliver a b c) := fun _ _ _ => Sys2Proof.Laws.sameOpcode_of_parts _
theorem Sys2Proof.Laws.SameOpcode.tgrabResultDeliver : ∀ a b c, Sys2Proof.Laws.SameOpcode.Statement (.tgrabResultDeliver a b c) := fun _ _ _ => Sys2Proof.Laws.sameOpcode_of_parts _
theorem Sys2Proof.Laws.SameOpcode.ringSlotDeliver : ∀ a b c, Sys2Proof.Laws.SameOpcode.Statement (.ringSlotDeliver a b c) := fun _ _ _ => Sys2Proof.Laws.sameOpcode_of_parts _
theorem Sys2Proof.Laws.SameOpcode.streamElementArrive : ∀ a b c, Sys2Proof.Laws.SameOpcode.Statement (.streamElementArrive a b c) := fun _ _ _ => Sys2Proof.Laws.sameOpcode_of_parts _
theorem Sys2Proof.Laws.SameOpcode.matrixProductStart : ∀ a, Sys2Proof.Laws.SameOpcode.Statement (.matrixProductStart a) := fun _ => Sys2Proof.Laws.sameOpcode_of_parts _
theorem Sys2Proof.Laws.SameOpcode.narrowProductComplete : ∀ a, Sys2Proof.Laws.SameOpcode.Statement (.narrowProductComplete a) := fun _ => Sys2Proof.Laws.sameOpcode_of_parts _
theorem Sys2Proof.Laws.SameOpcode.slicedPassComplete : ∀ a, Sys2Proof.Laws.SameOpcode.Statement (.slicedPassComplete a) := fun _ => Sys2Proof.Laws.sameOpcode_of_parts _
theorem Sys2Proof.Laws.SameOpcode.bldComplete : ∀ a, Sys2Proof.Laws.SameOpcode.Statement (.bldComplete a) := fun _ => Sys2Proof.Laws.sameOpcode_of_parts _
theorem Sys2Proof.Laws.SameOpcode.cblComplete : ∀ a, Sys2Proof.Laws.SameOpcode.Statement (.cblComplete a) := fun _ => Sys2Proof.Laws.sameOpcode_of_parts _
theorem Sys2Proof.Laws.SameOpcode.drainResultDeliver : ∀ a, Sys2Proof.Laws.SameOpcode.Statement (.drainResultDeliver a) := fun _ => Sys2Proof.Laws.sameOpcode_of_parts _
theorem Sys2Proof.Laws.SameOpcode.mstatResultDeliver : ∀ a, Sys2Proof.Laws.SameOpcode.Statement (.mstatResultDeliver a) := fun _ => Sys2Proof.Laws.sameOpcode_of_parts _
theorem Sys2Proof.Laws.SameOpcode.rqtJobComplete : ∀ a, Sys2Proof.Laws.SameOpcode.Statement (.rqtJobComplete a) := fun _ => Sys2Proof.Laws.sameOpcode_of_parts _
theorem Sys2Proof.Laws.SameOpcode.stagingRegisterWrite : ∀ a, Sys2Proof.Laws.SameOpcode.Statement (.stagingRegisterWrite a) := fun _ => Sys2Proof.Laws.sameOpcode_of_parts _
theorem Sys2Proof.Laws.SameOpcode.go : ∀ a, Sys2Proof.Laws.SameOpcode.Statement (.go a) := fun _ => Sys2Proof.Laws.sameOpcode_of_parts _
theorem Sys2Proof.Laws.SameOpcode.jobStart : ∀ a, Sys2Proof.Laws.SameOpcode.Statement (.jobStart a) := fun _ => Sys2Proof.Laws.sameOpcode_of_parts _
theorem Sys2Proof.Laws.SameOpcode.jobRingClaim : ∀ a, Sys2Proof.Laws.SameOpcode.Statement (.jobRingClaim a) := fun _ => Sys2Proof.Laws.sameOpcode_of_parts _
theorem Sys2Proof.Laws.SameOpcode.jobChunkComplete : ∀ a, Sys2Proof.Laws.SameOpcode.Statement (.jobChunkComplete a) := fun _ => Sys2Proof.Laws.sameOpcode_of_parts _
theorem Sys2Proof.Laws.SameOpcode.pageWalkComplete : ∀ a, Sys2Proof.Laws.SameOpcode.Statement (.pageWalkComplete a) := fun _ => Sys2Proof.Laws.sameOpcode_of_parts _
theorem Sys2Proof.Laws.SameOpcode.peerChunkAck : ∀ a, Sys2Proof.Laws.SameOpcode.Statement (.peerChunkAck a) := fun _ => Sys2Proof.Laws.sameOpcode_of_parts _
theorem Sys2Proof.Laws.SameOpcode.jobComplete : ∀ a, Sys2Proof.Laws.SameOpcode.Statement (.jobComplete a) := fun _ => Sys2Proof.Laws.sameOpcode_of_parts _
theorem Sys2Proof.Laws.SameOpcode.ladleChannelError : ∀ a b, Sys2Proof.Laws.SameOpcode.Statement (.ladleChannelError a b) := fun _ _ => Sys2Proof.Laws.sameOpcode_of_parts _
theorem Sys2Proof.Laws.SameOpcode.rqtError : ∀ a, Sys2Proof.Laws.SameOpcode.Statement (.rqtError a) := fun _ => Sys2Proof.Laws.sameOpcode_of_parts _
theorem Sys2Proof.Laws.SameOpcode.ringStateError : ∀ a, Sys2Proof.Laws.SameOpcode.Statement (.ringStateError a) := fun _ => Sys2Proof.Laws.sameOpcode_of_parts _
theorem Sys2Proof.Laws.SameOpcode.patrolScrub : ∀ a, Sys2Proof.Laws.SameOpcode.Statement (.patrolScrub a) := fun _ => Sys2Proof.Laws.sameOpcode_of_parts _
theorem Sys2Proof.Laws.SameOpcode.slipwayFlitRetry : Sys2Proof.Laws.SameOpcode.Statement (.slipwayFlitRetry) := Sys2Proof.Laws.sameOpcode_of_parts _
theorem Sys2Proof.Laws.SameOpcode.slipwayLinkFence : Sys2Proof.Laws.SameOpcode.Statement (.slipwayLinkFence) := Sys2Proof.Laws.sameOpcode_of_parts _
theorem Sys2Proof.Laws.SameOpcode.towlineFlitRetry : ∀ a, Sys2Proof.Laws.SameOpcode.Statement (.towlineFlitRetry a) := fun _ => Sys2Proof.Laws.sameOpcode_of_parts _
theorem Sys2Proof.Laws.SameOpcode.towlineLinkFence : ∀ a, Sys2Proof.Laws.SameOpcode.Statement (.towlineLinkFence a) := fun _ => Sys2Proof.Laws.sameOpcode_of_parts _
theorem Sys2Proof.Laws.SameOpcode.qtail : ∀ a b, Sys2Proof.Laws.SameOpcode.Statement (.qtail a b) := fun _ _ => Sys2Proof.Laws.sameOpcode_of_parts _
theorem Sys2Proof.Laws.SameOpcode.registerBlockWrite : ∀ a b c, Sys2Proof.Laws.SameOpcode.Statement (.registerBlockWrite a b c) := fun _ _ _ => Sys2Proof.Laws.sameOpcode_of_parts _
theorem Sys2Proof.Laws.SameOpcode.launchRecord : ∀ a, Sys2Proof.Laws.SameOpcode.Statement (.launchRecord a) := fun _ => Sys2Proof.Laws.sameOpcode_of_parts _
theorem Sys2Proof.Laws.SameOpcode.markerRecord : ∀ a, Sys2Proof.Laws.SameOpcode.Statement (.markerRecord a) := fun _ => Sys2Proof.Laws.sameOpcode_of_parts _
theorem Sys2Proof.Laws.SameOpcode.patchActivation : ∀ a, Sys2Proof.Laws.SameOpcode.Statement (.patchActivation a) := fun _ => Sys2Proof.Laws.sameOpcode_of_parts _
theorem Sys2Proof.Laws.SameOpcode.patchActivationComplete : Sys2Proof.Laws.SameOpcode.Statement (.patchActivationComplete) := Sys2Proof.Laws.sameOpcode_of_parts _
theorem Sys2Proof.Laws.SameOpcode.bindBlock : ∀ a, Sys2Proof.Laws.SameOpcode.Statement (.bindBlock a) := fun _ => Sys2Proof.Laws.sameOpcode_of_parts _
theorem Sys2Proof.Laws.SameOpcode.bindRecord : ∀ a, Sys2Proof.Laws.SameOpcode.Statement (.bindRecord a) := fun _ => Sys2Proof.Laws.sameOpcode_of_parts _
theorem Sys2Proof.Laws.SameOpcode.unbindNotice : ∀ a, Sys2Proof.Laws.SameOpcode.Statement (.unbindNotice a) := fun _ => Sys2Proof.Laws.sameOpcode_of_parts _
theorem Sys2Proof.Laws.SameOpcode.blockComplete : ∀ a, Sys2Proof.Laws.SameOpcode.Statement (.blockComplete a) := fun _ => Sys2Proof.Laws.sameOpcode_of_parts _
theorem Sys2Proof.Laws.SameOpcode.windowOpenComplete : ∀ a b, Sys2Proof.Laws.SameOpcode.Statement (.windowOpenComplete a b) := fun _ _ => Sys2Proof.Laws.sameOpcode_of_parts _
theorem Sys2Proof.Laws.SameOpcode.engineStopAck : ∀ a b c, Sys2Proof.Laws.SameOpcode.Statement (.engineStopAck a b c) := fun _ _ _ => Sys2Proof.Laws.sameOpcode_of_parts _
theorem Sys2Proof.Laws.SameOpcode.preemptStallTimeout : ∀ a b, Sys2Proof.Laws.SameOpcode.Statement (.preemptStallTimeout a b) := fun _ _ => Sys2Proof.Laws.sameOpcode_of_parts _
theorem Sys2Proof.Laws.SameOpcode.preemptQuantumExpiry : ∀ a, Sys2Proof.Laws.SameOpcode.Statement (.preemptQuantumExpiry a) := fun _ => Sys2Proof.Laws.sameOpcode_of_parts _
theorem Sys2Proof.Laws.SameOpcode.queueHeadAging : ∀ a, Sys2Proof.Laws.SameOpcode.Statement (.queueHeadAging a) := fun _ => Sys2Proof.Laws.sameOpcode_of_parts _
theorem Sys2Proof.Laws.SameOpcode.trapRecordPost : ∀ a, Sys2Proof.Laws.SameOpcode.Statement (.trapRecordPost a) := fun _ => Sys2Proof.Laws.sameOpcode_of_parts _
theorem Sys2Proof.Laws.SameOpcode.serviceRequestPost : ∀ a, Sys2Proof.Laws.SameOpcode.Statement (.serviceRequestPost a) := fun _ => Sys2Proof.Laws.sameOpcode_of_parts _
theorem Sys2Proof.Laws.SameOpcode.serviceWarpRebind : ∀ a, Sys2Proof.Laws.SameOpcode.Statement (.serviceWarpRebind a) := fun _ => Sys2Proof.Laws.sameOpcode_of_parts _
theorem Sys2Proof.Laws.SameOpcode.ringHeadRelease : ∀ a, Sys2Proof.Laws.SameOpcode.Statement (.ringHeadRelease a) := fun _ => Sys2Proof.Laws.sameOpcode_of_parts _
theorem Sys2Proof.Laws.SameOpcode.trapReplyResume : ∀ a, Sys2Proof.Laws.SameOpcode.Statement (.trapReplyResume a) := fun _ => Sys2Proof.Laws.sameOpcode_of_parts _
theorem Sys2Proof.Laws.SameOpcode.trapReplyRedirect : ∀ a, Sys2Proof.Laws.SameOpcode.Statement (.trapReplyRedirect a) := fun _ => Sys2Proof.Laws.sameOpcode_of_parts _
theorem Sys2Proof.Laws.SameOpcode.trapReplyAbort : ∀ a, Sys2Proof.Laws.SameOpcode.Statement (.trapReplyAbort a) := fun _ => Sys2Proof.Laws.sameOpcode_of_parts _
theorem Sys2Proof.Laws.SameOpcode.trapReplyChunkServiced : ∀ a, Sys2Proof.Laws.SameOpcode.Statement (.trapReplyChunkServiced a) := fun _ => Sys2Proof.Laws.sameOpcode_of_parts _
theorem Sys2Proof.Laws.SameOpcode.trapReplyChunkFatal : ∀ a, Sys2Proof.Laws.SameOpcode.Statement (.trapReplyChunkFatal a) := fun _ => Sys2Proof.Laws.sameOpcode_of_parts _
theorem Sys2Proof.Laws.SameOpcode.serviceReplyResume : ∀ a, Sys2Proof.Laws.SameOpcode.Statement (.serviceReplyResume a) := fun _ => Sys2Proof.Laws.sameOpcode_of_parts _
theorem Sys2Proof.Laws.SameOpcode.serviceReplyAbort : ∀ a, Sys2Proof.Laws.SameOpcode.Statement (.serviceReplyAbort a) := fun _ => Sys2Proof.Laws.sameOpcode_of_parts _
theorem Sys2Proof.Laws.SameOpcode.windowOpen : Sys2Proof.Laws.SameOpcode.Statement (.windowOpen) := Sys2Proof.Laws.sameOpcode_of_parts _
theorem Sys2Proof.Laws.SameOpcode.windowClose : Sys2Proof.Laws.SameOpcode.Statement (.windowClose) := Sys2Proof.Laws.sameOpcode_of_parts _
theorem Sys2Proof.Laws.SameOpcode.windowDescriptorRead : Sys2Proof.Laws.SameOpcode.Statement (.windowDescriptorRead) := Sys2Proof.Laws.sameOpcode_of_parts _
theorem Sys2Proof.Laws.SameOpcode.ringDefine : Sys2Proof.Laws.SameOpcode.Statement (.ringDefine) := Sys2Proof.Laws.sameOpcode_of_parts _
theorem Sys2Proof.Laws.SameOpcode.queueDefine : Sys2Proof.Laws.SameOpcode.Statement (.queueDefine) := Sys2Proof.Laws.sameOpcode_of_parts _
theorem Sys2Proof.Laws.SameOpcode.translationRoot : Sys2Proof.Laws.SameOpcode.Statement (.translationRoot) := Sys2Proof.Laws.sameOpcode_of_parts _
theorem Sys2Proof.Laws.SameOpcode.invalidate : Sys2Proof.Laws.SameOpcode.Statement (.invalidate) := Sys2Proof.Laws.sameOpcode_of_parts _
theorem Sys2Proof.Laws.SameOpcode.shadowPoolGrant : Sys2Proof.Laws.SameOpcode.Statement (.shadowPoolGrant) := Sys2Proof.Laws.sameOpcode_of_parts _
theorem Sys2Proof.Laws.SameOpcode.contextSuspend : Sys2Proof.Laws.SameOpcode.Statement (.contextSuspend) := Sys2Proof.Laws.sameOpcode_of_parts _
theorem Sys2Proof.Laws.SameOpcode.contextResume : Sys2Proof.Laws.SameOpcode.Statement (.contextResume) := Sys2Proof.Laws.sameOpcode_of_parts _
theorem Sys2Proof.Laws.SameOpcode.slotReset : Sys2Proof.Laws.SameOpcode.Statement (.slotReset) := Sys2Proof.Laws.sameOpcode_of_parts _
theorem Sys2Proof.Laws.SameOpcode.statusRead : Sys2Proof.Laws.SameOpcode.Statement (.statusRead) := Sys2Proof.Laws.sameOpcode_of_parts _
theorem Sys2Proof.Laws.SameOpcode.firmwareLoad : Sys2Proof.Laws.SameOpcode.Statement (.firmwareLoad) := Sys2Proof.Laws.sameOpcode_of_parts _
theorem Sys2Proof.Laws.SameOpcode.quote : Sys2Proof.Laws.SameOpcode.Statement (.quote) := Sys2Proof.Laws.sameOpcode_of_parts _
theorem Sys2Proof.Laws.SameOpcode.toluneDefine : Sys2Proof.Laws.SameOpcode.Statement (.toluneDefine) := Sys2Proof.Laws.sameOpcode_of_parts _
theorem Sys2Proof.Laws.SameOpcode.translationInstall : Sys2Proof.Laws.SameOpcode.Statement (.translationInstall) := Sys2Proof.Laws.sameOpcode_of_parts _
theorem Sys2Proof.Laws.SameOpcode.traceSet : Sys2Proof.Laws.SameOpcode.Statement (.traceSet) := Sys2Proof.Laws.sameOpcode_of_parts _
theorem Sys2Proof.Laws.SameOpcode.comparatorSet : Sys2Proof.Laws.SameOpcode.Statement (.comparatorSet) := Sys2Proof.Laws.sameOpcode_of_parts _
theorem Sys2Proof.Laws.SameOpcode.warpStop : Sys2Proof.Laws.SameOpcode.Statement (.warpStop) := Sys2Proof.Laws.sameOpcode_of_parts _
theorem Sys2Proof.Laws.SameOpcode.peerBind : Sys2Proof.Laws.SameOpcode.Statement (.peerBind) := Sys2Proof.Laws.sameOpcode_of_parts _
theorem Sys2Proof.Laws.SameOpcode.contextDefine : Sys2Proof.Laws.SameOpcode.Statement (.contextDefine) := Sys2Proof.Laws.sameOpcode_of_parts _
theorem Sys2Proof.Laws.SameOpcode.contextRelease : Sys2Proof.Laws.SameOpcode.Statement (.contextRelease) := Sys2Proof.Laws.sameOpcode_of_parts _
theorem Sys2Proof.Laws.SameOpcode.stickyClear : Sys2Proof.Laws.SameOpcode.Statement (.stickyClear) := Sys2Proof.Laws.sameOpcode_of_parts _
theorem Sys2Proof.Laws.SameOpcode.clockThrottle : ∀ a, Sys2Proof.Laws.SameOpcode.Statement (.clockThrottle a) := fun _ => Sys2Proof.Laws.sameOpcode_of_parts _
theorem Sys2Proof.Laws.SameOpcode.freezeN : ∀ a, Sys2Proof.Laws.SameOpcode.Statement (.freezeN a) := fun _ => Sys2Proof.Laws.sameOpcode_of_parts _
theorem Sys2Proof.Laws.SameOpcode.moduleReset : Sys2Proof.Laws.SameOpcode.Statement (.moduleReset) := Sys2Proof.Laws.sameOpcode_of_parts _
theorem Sys2Proof.Laws.SameOpcode.powerOn : Sys2Proof.Laws.SameOpcode.Statement (.powerOn) := Sys2Proof.Laws.sameOpcode_of_parts _
theorem Sys2Proof.Laws.SameOpcode.powerLoss : Sys2Proof.Laws.SameOpcode.Statement (.powerLoss) := Sys2Proof.Laws.sameOpcode_of_parts _
theorem Sys2Proof.Laws.SameOpcode.towlinePeerRequest : ∀ a b c d, Sys2Proof.Laws.SameOpcode.Statement (.towlinePeerRequest a b c d) := fun _ _ _ _ => Sys2Proof.Laws.sameOpcode_of_parts _
theorem Sys2Proof.Laws.SameOpcode.peerFaultReturn : ∀ a b, Sys2Proof.Laws.SameOpcode.Statement (.peerFaultReturn a b) := fun _ _ => Sys2Proof.Laws.sameOpcode_of_parts _
theorem Sys2Proof.Laws.SameOpcode.towlineLinkTrained : ∀ a, Sys2Proof.Laws.SameOpcode.Statement (.towlineLinkTrained a) := fun _ => Sys2Proof.Laws.sameOpcode_of_parts _
theorem Sys2Proof.Laws.SameOpcode.firmwareReady : Sys2Proof.Laws.SameOpcode.Statement (.firmwareReady) := Sys2Proof.Laws.sameOpcode_of_parts _
theorem Sys2Proof.Laws.SameOpcode.collectiveResultDeliver : ∀ a b, Sys2Proof.Laws.SameOpcode.Statement (.collectiveResultDeliver a b) := fun _ _ => Sys2Proof.Laws.sameOpcode_of_parts _
theorem Sys2Proof.Laws.SameOpcode.threadMoveComplete : ∀ a b, Sys2Proof.Laws.SameOpcode.Statement (.threadMoveComplete a b) := fun _ _ => Sys2Proof.Laws.sameOpcode_of_parts _
theorem Sys2Proof.Laws.SameOpcode.instructionCacheRefill : ∀ a b, Sys2Proof.Laws.SameOpcode.Statement (.instructionCacheRefill a b) := fun _ _ => Sys2Proof.Laws.sameOpcode_of_parts _
end

