-- ==== Sys2Proof/Laws/Step.lean ====
section
/-!
SUPPORT. The step: a run whose next word decodes and is not claimed issues that word.
-/

namespace Sys2Proof.Machine

/-- Fetching, the Mould and the decoder give the word that stands next in a run (R45 steps 1 to 4). -/
theorem prepare_of_nextIs (s : State) (w rid : Nat) (i : Instr) (word : Word) (h : NextIs s w rid i word) :
    s.chip.prepare w rid = .word (s.noted w rid word).chip i := by
  obtain ⟨x, hx, h3, h4, h5, hu, hm, hd⟩ := h
  simp only [State.warp] at hx
  have hr : (s.chip.warp w).run rid = x := by
    simp [Warp.run, SparseLaws.get_eq_find, hx]
  have hn : s.chip.nextWord w rid = .word word := by
    unfold Chip.nextWord; simp only [hr, h4, h5, Option.isSome_none]
    simp only [Bool.false_eq_true, if_false]
    obtain ⟨hw, hc⟩ := hm
    cases hb : x.buffer[(x.pc - x.entry).toNat / 4]? with
    | some y => simp only [hb, Option.getD_some] at hw ⊢; rw [hw]
    | none =>
      obtain ⟨hc, hp⟩ := hc hb
      simp only [hb, Option.getD_none] at hw
      unfold Chip.fetchAt Chip.fetch
      simp only [hc]
      rw [if_neg]
      · rw [hw]; rfl
      · simp only [List.any_eq_true, not_exists, not_and, Bool.not_eq_true]
        intro b hb'; exact hp b hb'
  have hs : s.chip.wordSlot w rid word = none := by
    unfold Chip.wordSlot
    have : (Sparse.get MouldBank.empty s.chip.banks ((s.chip.warp w).run rid).bank).slots = [] := hu
    simp only [this]; split <;> rfl
  unfold Chip.prepare
  simp only [hx, h3, hn, hs, Bool.false_eq_true, if_false]
  unfold Chip.decodeNext
  have : ((Chip.warp (s.chip.modWarp w fun wp => wp.modRun rid fun r => r.note word) w).run rid).tolune = x.tolune := by
    have hw : (Sparse.find s.chip.warps w).isSome := by
      cases hq : Sparse.find s.chip.warps w with
      | some _ => rfl
      | none => simp [Chip.warp, SparseLaws.get_eq_find, hq, Warp.blank] at hx
    unfold Chip.warp Chip.modWarp; simp only
    rw [SparseLaws.get_modify_same _ _ _ _ hw]
    unfold Warp.run Warp.modRun; simp only
    rw [SparseLaws.get_modify_same]
    · unfold Run.note; simp only; rw [← hr]; rfl
    · show (Sparse.find (s.chip.warp w).runs rid).isSome; simp [hx]
  simp only [this, hd]; rfl

/-- A run whose next word decodes to i executes i. -/
theorem issueNext_of_nextIs (s : State) (w rid : Nat) (i : Instr) (word : Word) (h : NextIs s w rid i word) :
    issueNext w rid s = exec i (s.noted w rid word) := by
  unfold issueNext
  simp only [prepare_of_nextIs s w rid i word h]
  rfl

end Sys2Proof.Machine
end

