-- ==== Sys2Proof/Tests/Slice0.lean ====
section
/-!
SUPPORT. Tests: ill-formed terms, words written out from the encodings of the spec, and states that meet the hypotheses
of the statements.
-/

open Sys2Proof Sys2Proof.Machine

namespace Sys2Proof.Tests

set_option Elab.async false

/-! ## Small states -/

/-- The word of run 0 of warp 3 is about to issue: a gang of four lanes, window 0 open for every use. -/
def base : State := { State.reset.withFetchWord 32 0 with focus := some (3, 0) }

def inWarp (f : Warp → Warp) (s : State) : State := s.onChip fun c => c.modWarp 3 f
def inRun (f : Run → Run) : State → State := inWarp fun wp => wp.modRun 0 f
def inLanes (f : Nat → Thread → Thread) : State → State := inWarp fun wp => wp.mapLanes [0, 1, 2, 3] f
def inBlock (f : Block → Block) (s : State) : State := s.onChip fun c => c.modBlock 2 f
def inLaunch (f : Launch → Launch) (s : State) : State := s.onChip fun c => c.modLaunch 1 f
def inContext (f : Context → Context) (s : State) : State := s.onChip fun c => c.modContext 65535 f
/-- Registers of every lane by cell. -/
def withRegs (rs : List (Nat × Word)) : State → State :=
  inLanes fun _ t => rs.foldl (fun t e => t.setCell e.1 ⟨e.2, false⟩) t
/-- Bytes in window 0. -/
def withBytes (a : Nat) (bs : List Byte) (s : State) : State :=
  s.onChip fun c => { c with scratch := c.scratch.store a bs false }
def inTolune : State → State := inRun fun r => { r with tolune := true }

theorem permitted_of {s : State} {c : Chip} {w rid : Nat} {i : Instr} {a : Reg} {need : Need} {reads : Bool} {unit : Nat}
    (h : Clean s w rid [a])
    (k : ∀ l ∈ s.lanes w rid, (laneAccess (s.warp w) (s.run w rid) (s.thread w l) i).any
      (fun v => decide (v.1.toNat % unit = 0) && (c.check w need reads true v.1 v.2.1).isNone) = true) :
    Permitted s c w rid i a need reads unit := by
  refine ⟨h, fun l hl => ?_⟩
  obtain ⟨v, hv, h2⟩ := (Option.any_eq_true _ _).mp (k l hl)
  simp only [Bool.and_eq_true, decide_eq_true_eq, Option.isNone_iff_eq_none] at h2
  exact ⟨v.1, v.2.1, v.2.2.1, v.2.2.2, hv, h2.1, h2.2⟩

theorem violates_of {s : State} {w rid l : Nat} {i : Instr} {need : Need} {reads : Bool} {unit : Nat}
    (k : (laneAccess (s.warp w) (s.run w rid) (s.thread w l) i).any
      (fun v => decide (v.1.toNat % unit ≠ 0) || (s.chip.check w need reads true v.1 v.2.1).isSome) = true) :
    Violates s w rid l i need reads unit := by
  obtain ⟨v, hv, h2⟩ := (Option.any_eq_true _ _).mp k
  simp only [Bool.or_eq_true, decide_eq_true_eq] at h2
  exact ⟨v.1, v.2.1, v.2.2.1, v.2.2.2, hv, h2⟩

/-! ## Witnesses: words -/

/-- A list of words that may issue, none naming a bound slot. -/
def Issues (s : State) (is : List Instr) : Prop := ∀ i ∈ is, Ready s 3 0 i ∧ Plain s 3 i

theorem witness_step : (base.agenda = [.word 3 0] ∧ base.frozen = false ∧ base.powered = true ∧
    (base.run 3 0).stray = false ∧ (base.run 3 0).tolune = false ∧ ({ base with agenda := [] } : State).heldBack 3 = false) ∧ NextIs base 3 0 (.nop 0) 0 :=
  ⟨by decide +kernel, placedRun 0, by decide +kernel, by decide +kernel, by decide +kernel, by decide +kernel,
    by unfold Unclaimed; decide +kernel, by decide +kernel, rfl⟩

theorem witness_step_events : (∀ t, exec .slipwayLinkFence { base with agenda := [], focus := none } = .next t → t.focus = none) ∧
    exec (.toluneInstruction 3 0) { inTolune base with agenda := [], focus := none } = .next { inTolune base with agenda := [] } ∧
      (inTolune base).focus = some (3, 0) ∧ NextIs { inTolune base with agenda := [] } 3 0 (.nop 0) 0 :=
  ⟨fun t h => by cases h; rfl, rfl, by decide +kernel, { placedRun 0 with tolune := true }, by decide +kernel, by decide +kernel,
    by decide +kernel, by decide +kernel, by unfold Unclaimed; decide +kernel, by decide +kernel, rfl⟩

/-- `t0` is unwritten; the result of an earlier word is pending in `g4`. -/
theorem witness_no_issue : (gate base.chip 3 0 (.add 4 120 5 0) = .illegal .temporaryUnwritten ∧ Unclaimed base 3 0 ∧
      (Sparse.find base.chip.warps 3).isSome ∧ (encode (.add 4 120 5 0)).isSome) ∧
    ∃ leaf, gate (inLanes (fun _ t => { t with pend := [⟨.load, [(4, ⟨0, false⟩)], 0⟩] }) base).chip 3 0 (.add 5 4 4 0) =
      .wait leaf := by
  refine ⟨by unfold Unclaimed; decide +kernel, _, rfl⟩

/-- Window 2 is closed; an `ldo` of an odd address is misaligned. -/
theorem witness_violations :
    let s := withRegs [(5, 0x20000000), (6, 2)] base
    (Issues s [.ldw 4 5 0 0, .stw 4 5 0 0, .ldo 4 6 10 0 0 0] ∧ Unclaimed s 3 0 ∧ Clean s 3 0 [4, 5, 6]) ∧
      (∀ l ∈ s.lanes 3 0, Violates s 3 0 l (.ldw 4 5 0 0) .load true 1 ∧ Violates s 3 0 l (.stw 4 5 0 0) .store false 1 ∧
        Violates s 3 0 l (.ldo 4 6 10 0 0 0) .load true 4) := by
  refine ⟨by unfold Issues Ready Plain Unclaimed Clean; decide +kernel, fun l hl => ?_⟩
  have : l ∈ [0, 1, 2, 3] := hl
  simp only [List.mem_cons, List.not_mem_nil, or_false] at this
  rcases this with rfl | rfl | rfl | rfl <;> exact ⟨violates_of (by decide +kernel), violates_of (by decide +kernel),
    violates_of (by decide +kernel)⟩

/-- A three-register word, a pair, an immediate into a temporary, and a divide. -/
theorem witness_integer : Issues base [.mad 119 2 3 0, .add64 118 0 4 0, .addi 120 1 (-64) 0, .remu 1 2 3 0] ∧
    (intEffect (.mad 119 2 3 0)).isSome ∧ (intEffect (.add64 118 0 4 0)).isSome ∧ (intEffect (.addi 120 1 (-64) 0)).isSome ∧
    (divideResult (.remu 1 2 3 0)).isSome := by
  unfold Issues Ready Plain; decide +kernel

theorem witness_float : Issues base [.ffma 1 2 3 0, .ddiv 118 4 6 0, .cvt 2 4 17 0] ∧
    (floatForm (.ffma 1 2 3 0)).isSome ∧ (floatForm (.ddiv 118 4 6 0)).isSome ∧ (floatForm (.cvt 2 4 17 0)).isSome := by
  unfold Issues Ready Plain; decide +kernel

theorem witness_rounding : bf16 ∈ [f64, f32, f16, bf16] ∧ (1 : Nat) ≠ 0 := by decide

/-- Native and Tolune words without effect, and a trailer after a body word that did not end the run, and after one that did. -/
theorem witness_no_effect :
    Issues base [.nop 7, .land 0, .ext 0x1FFFFF] ∧ (base.run 3 0).tolune = false ∧ (base.run 3 0).subst = [] ∧
      Issues base [.add 1 2 3 0, .bnz 4 0 0] ∧ Unclaimed base 3 0 ∧ (encode (.add 1 2 3 0)).isSome ∧
      Issues (inTolune base) [.add 1 2 3 0] ∧ Unclaimed (inTolune base) 3 0 ∧
      Issues (inTolune base) [.nop 0, .land 0] ∧ ((inTolune base).run 3 0).ended = false ∧
      Ready base 3 0 (.runt 127 4 119 3) ∧ (base.run 3 0).emul = none ∧ base.chip.choices = [] ∧
      Ready (inRun (fun r => { r with ended := true }) base) 3 0 (.runt 127 127 127 0) := by
  unfold Issues Ready Plain Unclaimed
  exact ⟨by decide +kernel, by decide +kernel, by decide +kernel, by decide +kernel, by decide +kernel, by decide +kernel,
    by decide +kernel, by decide +kernel, by decide +kernel, by decide +kernel, by decide +kernel, by decide +kernel, by decide +kernel,
    by decide +kernel⟩

/-- Word 64 of window 0 is `land`, native and Tolune. -/
def landing : State := withBytes 256 [0, 0, 0, 0x0E] (withRegs [(4, 256)] base)
def landingT : State := inTolune (withBytes 256 [0x0E, 0, 0, 0] (withRegs [(4, 256)] base))

theorem witness_branches :
    Issues landing [.bra (-1) 0, .bnz 4 0x1FFF 0, .bz 4 (-8192) 0, .bltz 4 0 0, .bgez 4 0 0, .jmpr 4 0] ∧
      Clean landing 3 0 [4] ∧
      (∀ l ∈ landing.lanes 3 0, landing.chip.landAt 3 false (landing.value 3 0 l 4) = true) ∧
      Issues landingT [.bnz 4 4 0, .jmpr 4 0] ∧ Clean landingT 3 0 [4] ∧
      (∀ l ∈ landingT.lanes 3 0, landingT.chip.landAt 3 true (landingT.value 3 0 l 4) = true) ∧
      (branchTo (landing.run 3 0) 0 (.bgez 4 0 0)).isSome := by
  unfold Issues Ready Plain Clean; decide +kernel

/-- A call of 15 units has room under 256 registers; a return of 1 unit ends at base 0; the window moves both ways. -/
def called : State := withRegs [(8, 256), (9, 1)] (inLanes (fun _ t => { t with base := 8 }) landing)

theorem witness_calls :
    (Issues landing [.call 15 1 0, .callr 1 4 0] ∧ (∀ l ∈ landing.lanes 3 0, (landing.thread 3 l).floor ≤ (landing.thread 3 l).base ∧
      (landing.thread 3 l).base + 8 * 15 + window (landing.warp 3).alloc ≤ (landing.thread 3 l).floor + (landing.warp 3).alloc)) ∧
    (Issues landingT [.call 0 4 0, .callr 0 4 0, .ret 0] ∧ Clean landingT 3 0 [0, 1, 4] ∧
      (∀ l ∈ landingT.lanes 3 0, (landingT.value 3 0 l 0).extractLsb' 0 2 = 0 ∧ landingT.value 3 0 l 1 = 0)) ∧
    (Issues called [.ret 0, .wbase 0 15 0, .wbase 1 1 0] ∧ Clean called 3 0 [0, 1] ∧
      (∀ l ∈ called.lanes 3 0, (called.value 3 0 l 0).extractLsb' 0 2 = 0 ∧ called.value 3 0 l 1 = 1 ∧
        (called.thread 3 l).floor + 8 * 1 ≤ (called.thread 3 l).base ∧ (called.thread 3 l).floor ≤ (called.thread 3 l).base ∧
        (called.thread 3 l).base + 8 * 15 + window (called.warp 3).alloc ≤ (called.thread 3 l).floor + (called.warp 3).alloc)) := by
  refine ⟨?_, ?_, ?_⟩ <;> (unfold Issues Ready Plain; try unfold Clean
                           decide +kernel)

theorem witness_spill :
    (Ready called 3 0 (.wspl 0 0) ∧ ∀ l ∈ called.lanes 3 0, (1 : Nat) = ((called.thread 3 l).base - (called.thread 3 l).floor) / 8 ∧
      (called.thread 3 l).floor + 8 * 1 ≤ (called.thread 3 l).base ∧ (called.thread 3 l).floor / 8 + 1 ≤ 32) ∧
    let s := inLanes (fun _ t => { t with floor := 8 }) called
    Ready s 3 0 (.wfil 1 0) ∧ ∀ l ∈ s.lanes 3 0, 8 * 1 ≤ (s.thread 3 l).floor ∧
      (s.thread 3 l).base + window (s.warp 3).alloc + 8 * 1 ≤ (s.warp 3).alloc + (s.thread 3 l).floor := by
  unfold Ready; decide +kernel

/-- The last register of the window, and of a Tolune thread. -/
theorem witness_indexed :
    let s := withRegs [(4, 119)] base
    let t := inTolune (withRegs [(4, 255)] base)
    (Issues s [.rget 1 4 0, .rput 1 4 0] ∧ Clean s 3 0 [4] ∧ ∀ l ∈ s.lanes 3 0, (s.value 3 0 l 4).toNat < window (s.warp 3).alloc) ∧
      Issues t [.rget 1 4 0, .rput 1 4 0] ∧ Clean t 3 0 [4] ∧ ∀ l ∈ t.lanes 3 0, (t.value 3 0 l 4).toNat < (t.warp 3).alloc := by
  unfold Issues Ready Plain Clean; decide +kernel

theorem witness_joins :
    (Ready base 3 0 (.jpt 0 0) ∧ (base.warp 3).joins.length < 256) ∧
      Ready (inWarp (fun wp => { wp with joins := [⟨9, 4, 15, 0⟩] }) base) 3 0 (.rejoin 0) ∧ (base.run 3 0).tolune = false := by
  unfold Ready; decide +kernel

theorem witness_ends :
    Issues base [.exit 0, .svc 0x3FFF 0, .trap 0 0, .brk 0x3FFF 0] ∧ (Sparse.find base.chip.blocks (base.warp 3).block).isSome ∧
      Clean base 3 0 (regs 0 8) := by
  unfold Issues Ready Plain Clean; decide +kernel

/-- A word that differs from b, and one that equals it. -/
theorem witness_spin :
    let s := withRegs [(4, 256)] base
    Issues s [.spinw 1 4 2 0] ∧ Clean s 3 0 [4] ∧
      (∀ l ∈ s.lanes 3 0, (s.value 3 0 l 4).toNat % 4 = 0 ∧ s.chip.check 3 .load true true (s.value 3 0 l 4) 4 = none ∧
        (s.chip.loadBytes 3 (s.value 3 0 l 4) 4).2 = false ∧
        numOfBytes (s.chip.loadBytes 3 (s.value 3 0 l 4) 4).1 = (s.value 3 0 l 2).toNat ∧
        numOfBytes (s.chip.loadBytes 3 (s.value 3 0 l 4) 4).1 ≠ (s.value 3 0 l 4).toNat) := by
  unfold Issues Ready Plain Clean; decide +kernel

/-- A guest program of one opcode, 0, with a handler table at 512. -/
def guest (kind : Byte) : State :=
  withBytes 512 [0, 1, 0, 0, 0x10 + kind] (inLanes (fun _ t => { t with gcb := 0x400, htb := 512 }) landing)
def gtrapped : State → State := inLaunch fun n => { n with header := { n.header with gtrap := 256 } }

theorem witness_guest :
    (Issues (gtrapped landing) [.gtrap 0x3FFF 0] ∧ (landing.chip.launch (landing.warp 3).launch).header.gtrap = 0 ∧
      ((gtrapped landing).chip.launch ((gtrapped landing).warp 3).launch).header.gtrap ≠ 0 ∧
      (gtrapped landing).chip.landAt 3 false 256 = true ∧ Issues landing [.gtrap 0 0]) ∧
    (Issues (guest 0) [.dsp 119 0] ∧ ∀ l ∈ (guest 0).lanes 3 0,
      (guest 0).chip.dispatchRead 3 ((guest 0).thread 3 l) = .ok (0, 0x1000000100) ∧ entryKind 0x1000000100 = 0) ∧
    (Issues (gtrapped (guest 3)) [.dsp 0 0] ∧ ∀ l ∈ (guest 3).lanes 3 0,
      (gtrapped (guest 3)).chip.dispatchRead 3 ((gtrapped (guest 3)).thread 3 l) = .ok (0, 0x1300000100) ∧
        entryKind 0x1300000100 ≠ 0) ∧
    Issues base [.gadv 0 0, .gjmp 4 0, .gjrel 4 0] ∧ Clean base 3 0 [4] ∧ (guestEffect (.gjrel 4 0)).isSome := by
  refine ⟨by unfold Issues Ready Plain; decide +kernel, ⟨by unfold Issues Ready Plain; decide +kernel, ?_⟩,
    ⟨by unfold Issues Ready Plain; decide +kernel, ?_⟩, by unfold Issues Ready Plain Clean; decide +kernel⟩
  all_goals
    intro l hl
    have : l ∈ [0, 1, 2, 3] := hl
    simp only [List.mem_cons, List.not_mem_nil, or_false] at this
    rcases this with rfl | rfl | rfl | rfl <;> exact ⟨rfl, by decide +kernel⟩

theorem staging_of {s : State} {w rid : Nat} {i : Instr} {d : Reg} {n : Nat}
    (k : ∀ l ∈ s.lanes w rid, (laneAccess (s.warp w) (s.run w rid) (s.thread w l) i).all (fun v =>
      (!touchesStaging v.1 n || stagingStore v.1 n || goStore v.1 n) &&
        (!stagingStore v.1 n || !(dataOf (s.warp w) (s.run w rid) (s.thread w l) d n).2)) = true) : StagingUse s w rid i d n := by
  intro l hl x r wr hx
  have := k l hl
  simp only [hx, Option.all_some, Bool.and_eq_true, Bool.or_eq_true, Bool.not_eq_true'] at this
  refine ⟨fun h => ?_, fun h => ?_⟩
  · rcases this.1 with (h1 | h1) | h1
    · rw [h] at h1; exact absurd h1 (by decide)
    · exact .inl h1
    · exact .inr h1
  · rcases this.2 with h1 | h1
    · rw [h] at h1; exact absurd h1 (by decide)
    · exact h1

/-- Addresses at the top of window 0: the last byte, and the last aligned eight bytes. -/
def addressed : State := withRegs [(4, 4088), (5, 4095), (8, 1), (9, 0)] base

theorem witness_loads :
    (Issues addressed [.ldb 1 5 0 0, .ldq 8 4 (-1) 0, .ldo 8 4 10 3 1 0] ∧ (loadForm (.ldb 1 5 0 0)).isSome ∧
      (loadForm (.ldq 8 4 (-1) 0)).isSome ∧ (loadForm (.ldo 8 4 10 3 1 0)).isSome) ∧
    Permitted addressed addressed.chip 3 0 (.ldb 1 5 0 0) 5 .load true 1 ∧
    Permitted addressed addressed.chip 3 0 (.ldq 8 4 (-1) 0) 4 .load true 1 ∧
    Permitted addressed (addressed.chip.drain 3) 3 0 (.ldo 8 4 10 3 1 0) 4 .load true 8 ∧
    let s := inLanes (fun _ t => { t with gcb := 4092 }) base
    Issues s [.gldw 1 0 0] ∧ (guestLoadForm (.gldw 1 0 0)).isSome ∧
      ∀ l ∈ s.lanes 3 0, s.chip.check 3 .guest true true ((s.thread 3 l).guestAddr + immOperand (s.run 3 0) 0) 4 = none := by
  refine ⟨by unfold Issues Ready Plain; decide +kernel, permitted_of ?_ ?_, permitted_of ?_ ?_, permitted_of ?_ ?_, ?_⟩ <;>
    first
    | (unfold Issues Ready Plain; decide +kernel)
    | (unfold Clean; decide +kernel)
    | decide +kernel

theorem witness_stores :
    (Issues addressed [.stb 1 5 0 0, .sto 8 4 0 2 1 0, .fence 0 1 0, .fence 10 3 0] ∧ (storeForm (.stb 1 5 0 0)).isSome ∧
      (storeForm (.sto 8 4 0 2 1 0)).isSome) ∧
    (Permitted addressed addressed.chip 3 0 (.stb 1 5 0 0) 5 .store false 1 ∧ StagingUse addressed 3 0 (.stb 1 5 0 0) 1 1) ∧
    (Permitted addressed addressed.chip 3 0 (.sto 8 4 0 2 1 0) 4 .store false 8 ∧ StagingUse addressed 3 0 (.sto 8 4 0 2 1 0) 8 8) ∧
    let s := withRegs [(4, 0xFF000000)] base
    Issues s [.std 8 4 3 0] ∧ Permitted s s.chip 3 0 (.std 8 4 3 0) 4 .store false 1 ∧ StagingUse s 3 0 (.std 8 4 3 0) 8 8 := by
  refine ⟨by unfold Issues Ready Plain; decide +kernel, ⟨permitted_of ?_ ?_, staging_of ?_⟩, ⟨permitted_of ?_ ?_, staging_of ?_⟩, ?_,
    permitted_of ?_ ?_, staging_of ?_⟩ <;>
    first
    | (unfold Issues Ready Plain; decide +kernel)
    | (unfold Clean; decide +kernel)
    | decide +kernel

/-- A fixed-point cell is 32 bytes at a multiple of 32. -/
theorem witness_atomics :
    let s := withRegs [(4, 4088), (5, 4064)] base
    (Issues s [.aadd 8 4 0 0 1 0, .acas 8 4 10 3 1 0, .afxa 8 5 0 0 1 0, .afxr 8 5 0 0 0 0, .afxz 8 5 10 3 0] ∧
      (atomicForm (.aadd 8 4 0 0 1 0)).isSome ∧ (atomicForm (.acas 8 4 10 3 1 0)).isSome) ∧
    Permitted s (s.chip.drain 3) 3 0 (.aadd 8 4 0 0 1 0) 4 .atomic true 8 ∧
    Permitted s (s.chip.drain 3) 3 0 (.acas 8 4 10 3 1 0) 4 .atomic true 8 ∧
    Permitted s (s.chip.drain 3) 3 0 (.afxa 8 5 0 0 1 0) 5 .atomic true 32 ∧
    Permitted s (s.chip.drain 3) 3 0 (.afxr 8 5 0 0 0 0) 5 .atomic true 32 ∧
    Permitted s (s.chip.drain 3) 3 0 (.afxz 8 5 10 3 0) 5 .atomic false 32 := by
  refine ⟨by unfold Issues Ready Plain; decide +kernel, permitted_of ?_ ?_, permitted_of ?_ ?_, permitted_of ?_ ?_,
    permitted_of ?_ ?_, permitted_of ?_ ?_⟩ <;>
    first
    | (unfold Clean; decide +kernel)
    | decide +kernel

theorem witness_counters :
    let s := withRegs [(4, 4080)] base
    Issues s [.tinit 4 8 0, .tgrab 8 4 0, .dwait 63 4 0, .dpoll 8 63 0, .drst 63 0] ∧ Clean s 3 0 [4] ∧
      (∀ l ∈ s.lanes 3 0, (s.value 3 0 l 4).toNat % 16 = 0 ∧
        (s.chip.drain 3).check 3 .tundish false true (s.value 3 0 l 4) 16 = none ∧
        (s.chip.drain 3).check 3 .tundish true true (s.value 3 0 l 4) 16 = none) ∧
      (63 : Reg).toNat < (s.chip.block (s.warp 3).block).ndc := by
  unfold Issues Ready Plain Clean; decide +kernel

/-- Ring 0 has four slots of 16 bytes at the start of shared memory, the last of them claimed and open. -/
def lastClaimed : Ring := { Ring.blank with size := 16, count := 4, free := 3 }

theorem witness_rings :
    let s := inBlock (fun b => { b with rings := [(0, lastClaimed)] }) (withRegs [(4, 0xF0000030)] base)
    Sparse.find (s.chip.block (s.warp 3).block).rings 0 = some lastClaimed ∧
      Issues s [.rwait 8 0 0, .rclm 8 0 0, .rcmt 0 4 0, .rrel 0 0] ∧
      ((s.warp 3).read (s.run 3 0) (s.thread 3 ((s.lanes 3 0).headD 0)) 4).p = false ∧
      (lastClaimed.slotAt (s.value 3 0 ((s.lanes 3 0).headD 0) 4)) = some 3 := by
  unfold Issues Ready Plain; decide +kernel

theorem witness_barriers : Issues (withRegs [(4, 4)] base) [.bar 15 0, .bara 4 0 0, .barw 4 15 0] ∧
    Clean (withRegs [(4, 4)] base) 3 0 [4] := by
  unfold Issues Ready Plain Clean; decide +kernel

/-- A vote that opens an instance, and one that joins the instance of lane 4. -/
def joining : State := inWarp (fun wp => { wp with colls := [{
  num := 9, pc := 4, raw := 0, word := .vote 8 1 2 0, members := 31, issued := 16, given := [], dest := [] }] }) base

theorem witness_collectives : Issues base [.vote 8 1 2 0, .shfi 8 1 2 0, .scni 8 1 1 5 0] ∧
    (collForm (.vote 8 1 2 0)).isSome ∧ openInstance (base.warp 3) (base.run 3 0) (.vote 8 1 2 0) = none ∧
    Issues joining [.vote 8 1 2 0] ∧ (openInstance (joining.warp 3) (joining.run 3 0) (.vote 8 1 2 0)).isSome := by
  unfold Issues Ready Plain; decide +kernel

theorem witness_group_local : Issues base [.elect 119 0, .qswz 8 1 2 0] := by
  unfold Issues Ready Plain; decide +kernel

/-- A descriptor in `g4` to `g7`: one word-sized element at address 0; and a stream 7 and a queue 7 bound to slots 119 and
118. -/
def described : State := withRegs [(4, 0), (5, 4), (6, 1), (7, 2)] base
def bound : State := inWarp (fun wp => { wp with
  streams := [(7, ⟨119, 0, 4, 1, 2, 1⟩)], queues := [(7, { Queue.blank with slot := some 118 })] }) described

theorem witness_streams :
    Issues described [.sbind 7 4 119 0] ∧ Clean described 3 0 (regs 4 4) ∧ Ready described 3 0 (.qbind 7 119 0) ∧
    Issues bound [.sbind 7 0 127 0, .spos 8 4 1 7 0, .spos 8 0 0 7 0] ∧ Clean bound 3 0 [4] ∧
      (Sparse.find (bound.warp 3).streams 7).isSome ∧ Ready bound 3 0 (.qbind 7 127 0) ∧
      (Sparse.get Queue.blank (bound.warp 3).queues 7).slot.isSome := by
  unfold Issues Ready Plain Clean
  exact ⟨by decide +kernel, by decide +kernel, by decide +kernel, by decide +kernel⟩

theorem witness_slots : SlotFree (described.warp 3) 119 (some 7) none ∧ SlotFree (described.warp 3) 119 none (some 7) :=
  ⟨⟨by decide +kernel, by decide +kernel⟩, by decide +kernel, by decide +kernel⟩

theorem witness_descriptor : goodDescriptor 0 1 2 ∧ described.value 3 0 0 4 = 0 ∧ described.value 3 0 0 6 = 1 ∧
    described.value 3 0 0 7 = 2 := by
  refine ⟨⟨by decide, by decide, by decide, by decide, ?_⟩, by decide +kernel, by decide +kernel, by decide +kernel⟩
  show windowOf 0 < 14
  decide

/-- Bank 0 holds an INT8 tile, bank 1 a sliced FP32 one; `g4` has the control word, `g5` a descriptor of no rows. -/
def crucible (x : Crucible) (s : State) : State := s.onChip fun c => { c with crucibles := [(0, x)] }
def banked : Crucible := { Crucible.fresh with
  banks := [(0, { Bank.empty with tag := ⟨1, 0, false, 32, 32⟩ }), (1, { Bank.empty with tag := ⟨4, 1, false, 1, 1⟩ })] }
def matrix (f : Word) : State := crucible banked (withRegs [(4, f), (5, 512), (6, 1024)] base)

theorem witness_matrix :
    (∀ i ∈ [Instr.mma 7 16 4 0, .mmab 7 0 4 0, .bld 7 5 0 0, .cbl 1 5 0, .acl 6 16 1 3 0, .acz 6 1 0, .drn 16 6 1 3 0, .mstat 8 8 0],
      Ready (matrix 0x10011) 3 0 i ∧ Plain (matrix 0x10011) 3 i ∧ Clean (matrix 0x10011) 3 0 ((votedRegs i).map (·.1)) ∧
        vote (matrix 0x10011).chip 3 0 i = .ok) ∧
    (∀ i ∈ [Instr.mmas 7 16 4 0], Ready (matrix 0x1144) 3 0 i ∧ Plain (matrix 0x1144) 3 i ∧
      Clean (matrix 0x1144) 3 0 ((votedRegs i).map (·.1)) ∧ vote (matrix 0x1144).chip 3 0 i = .ok) ∧
    (∀ i ∈ [Instr.rqt 4 5 6 0], Ready (matrix 63) 3 0 i ∧ Plain (matrix 63) 3 i ∧
      Clean (matrix 63) 3 0 ((votedRegs i).map (·.1)) ∧ vote (matrix 63).chip 3 0 i = .ok) ∧
    (tileLoadOf (matrix 0).chip 3 0 5 0).isSome ∧ votedValue ((matrix 0).warp 3) ((matrix 0).run 3 0) 5 = 512 ∧
    (matrix 0).chip.check 3 .load true true 512 32 = none := by
  unfold Ready Plain Clean
  exact ⟨by decide +kernel, by decide +kernel, by decide +kernel, by decide +kernel, by decide +kernel, by decide +kernel⟩

theorem witness_special :
    let s := withRegs [(4, 2)] base
    Issues s [.srd 8 0x39 0, .swr 4 0x15 0, .swr 4 0x1F 0] ∧ Clean s 3 0 [4] ∧
      (specialValue s.chip (s.warp 3) (s.run 3 0) 0 (s.thread 3 0) 0x39).isSome ∧
      ∀ l ∈ s.lanes 3 0, (specialWrite 0x15 (s.value 3 0 l 4) (s.thread 3 l)).isSome ∧
        (specialWrite 0x1F (s.value 3 0 l 4) (s.thread 3 l)).isSome := by
  unfold Issues Ready Plain Clean; decide +kernel

theorem witness_time : Issues base [.time 118 0, .pcrd 8 4 0, .tmrk 0x3FFF 0] := by
  unfold Issues Ready Plain; decide +kernel

/-! ## Witnesses: words that do not issue -/

/-- A Mould slot that claims every word, or every fault, for an action; its template is a word of its own. -/
def slotFor (event : Bool) (action : Nat) (template : Word) : MouldSlot :=
  [0, 0, BitVec.ofNat 32 (2 ^ 31 + (if event then 2 ^ 30 else 0) + 2 * 2 ^ 28 + action * 2 ^ 19 + 2 ^ 17 + 0xFFFF), 0, 7, template, 0, 0]
/-- Bank 0 holds the slot and one word of resident code, `exit`. -/
def moulded (m : MouldSlot) (s : State) : State := s.onChip fun c => { c with banks := [(0, ⟨[m], [0x0F000000], 1, none⟩)] }

/-- A group of 16 registers from g112 on reaches beyond g119. -/
theorem witness_claimed_faults : ∀ a ∈ [3, 4], let s := moulded (slotFor true a 0) base
    s.focus = some (3, 0) ∧ (encode (.drn 112 0 1 0 0)).isSome ∧ gate s.chip 3 0 (.drn 112 0 1 0 0) = .illegal .illegalUse ∧
      claimable .illegalUse = true ∧ s.chip.faultSlot 3 0 0 = some (slotFor true a 0) ∧ (slotFor true a 0).action = a ∧
      (Sparse.find (s.warp 3).runs 0).isSome := by decide +kernel

/-- A result ready only at cycle 9 in stall-check mode, a comparator on address 4, a check that fails in unit 5. -/
theorem witness_gates :
    gate (inWarp (fun wp => { wp with stallchk := true }) (inLanes (fun _ t => { t with fix := [⟨4, 9, 0, 3⟩] }) base)).chip 3 0
      (.add 5 4 6 0) = .short 4 ⟨4, 9, 0, 3⟩ 9 ∧
    gate (base.onChip fun c => { c with cores := [(0, { Core.fresh with comps := [(2, 65535, 4, 0xFFFFFFFF, 8, 0)] })] }).chip 3 0
      (.add 5 4 6 0) = .halt 0 2 ∧
    gate (base.onChip fun c => { c with inject := some 5 }).chip 3 0 (.add 5 4 6 0) = .mismatch 5 := by decide +kernel

/-- The `nop` at address 4 is claimed: for the host, for the template `exit`, for a routine. -/
theorem witness_claims : (∀ a ∈ [0, 1, 2],
      Claims (moulded (slotFor false a 0x0F000000) base) 3 0 (placedRun 0) 0 (slotFor false a 0x0F000000) ∧
        (slotFor false a 0x0F000000).action = a) ∧
    (slotFor false 1 0x0F000000).rewrite 0 false = [0x0F000000] ∧ decodeOrdered false 0x0F000000 = .ok (.exit 0) ∧
    (let s := moulded (slotFor false 2 0) base;
      misplaced (placedRun 0) 0 = none ∧ framePending (s.warp 3) (placedRun 0) 0 = false ∧ (slotFor false 2 0).target.toNat < 2 ^ 23 ∧
        decodeNative ((s.chip.bankOf (placedRun 0).bank).code.getD ((slotFor false 2 0).target.toNat / 4) 0) = .ok (.exit 0)) := by
  unfold Claims FetchesAt
  exact ⟨by decide +kernel, by decide +kernel, rfl, by decide +kernel, by decide +kernel, by decide +kernel, rfl⟩

/-- Lane 3 holds poison in `g4`: every word whose poison kills. -/
def tainted : State := inLanes (fun l t => t.setCell 4 ⟨256, l == 3⟩) landing

theorem witness_poison :
    Issues tainted [.bnz 4 0 0, .jmpr 4 0, .callr 1 4 0, .gjmp 4 0, .ldw 1 4 0 0, .stw 1 4 0 0, .rget 1 4 0, .spinw 1 4 2 0, .swr 4 0x15 0] ∧
    Unclaimed tainted 3 0 ∧ ([.bnz 4 0 0, .jmpr 4 0, .callr 1 4 0, .gjmp 4 0, .ldw 1 4 0 0, .stw 1 4 0 0, .rget 1 4 0, .spinw 1 4 2 0,
      .swr 4 0x15 0] : List Instr).map poisonKills =
      [6, 6, 6, 6, 5, 5, 5, 5, 8].map (fun cause => some ([(4 : Reg)], cause)) ∧
    ((tainted.warp 3).read (tainted.run 3 0) (tainted.thread 3 3) 4).p = true := by
  unfold Issues Ready Plain Unclaimed
  exact ⟨by decide +kernel, by decide +kernel, by decide +kernel, by decide +kernel⟩

theorem witness_uses :
    UsesAllowed (withRegs [(4, 1)] base) 3 0 (.rget 1 4 0) ∧ UsesAllowed (withRegs [(4, 2)] base) 3 0 (.swr 4 0x15 0) ∧
      UsesAllowed tainted 3 0 (.bnz 4 0 0) := by
  refine ⟨?_, ?_, fun _ _ => trivial⟩ <;> simp only [UsesAllowed] <;> decide +kernel

/-- The word at 260 is no `land`; the next word stands in a closed window, or in a poisoned one. -/
theorem witness_targets_and_fetches :
    (let s := withRegs [(4, 260)] base;
      Issues s [.jmpr 4 0, .callr 1 4 0] ∧ Unclaimed s 3 0 ∧ Clean s 3 0 [4] ∧
        ∀ l ∈ s.lanes 3 0, s.chip.landAt 3 (s.thread 3 l).tolune (s.value 3 0 l 4) = false) ∧
    (let x : Run := { placedRun 0 with pc := 0x20000000 }; let s := inRun (fun _ => x) base;
      FetchesAt s 3 0 x ∧ x.buffer[(x.pc - x.entry).toNat / 4]? = none ∧ (s.chip.check 3 .fetch true true x.pc 4).isSome) ∧
    (let s := base.onChip fun c => { c with scratch := { c.scratch with marks := [0] } };
      FetchesAt s 3 0 (placedRun 0) ∧ (placedRun 0).buffer[((placedRun 0).pc - (placedRun 0).entry).toNat / 4]? = none ∧
        s.chip.check 3 .fetch true true 4 4 = none ∧ ∃ b ∈ s.fetched 3 4, b.2 = true) := by
  unfold Issues Ready Plain Unclaimed Clean FetchesAt
  exact ⟨by decide +kernel, by decide +kernel, by decide +kernel⟩

/-! ## Witnesses: local memory -/

/-- The last bytes of window 0, which is no shadow window; a shadow window at a line; block shared memory. -/
theorem witness_local :
    (windowOf (0x0FFFFFFC : Word) ≠ 14 ∧ offsetOf (0x0FFFFFFC : Word) + 4 ≤ 2 ^ 28 ∧
      ((base.chip.context 65535).window (windowOf (0x0FFFFFFC : Word))).shadow = false) ∧
    (let s := inContext (fun x => x.modWindow 0 fun v => { v with shadow := true, base := 64 }) base;
      ((s.chip.context 65535).window (windowOf (0 : Word))).shadow = true ∧
        ((s.chip.context 65535).window (windowOf (0 : Word))).base % 64 = 0) ∧
    (windowOf (0xF0000FFC : Word) = 15 ∧ windowOf (0xF0000FFC : Word) ≠ 14 ∧ offsetOf (0xF0000FFC : Word) + 4 ≤ 2 ^ 28 ∧
      (Sparse.find base.chip.blocks 2).isSome) := by decide +kernel

/-- A store to a line of a tracked window that nothing has written is permitted; a load of it is not. -/
theorem witness_tracked :
    let s := inContext (fun x => x.modWindow 0 fun v => { v with track := true }) addressed
    Issues s [.stw 8 4 0 0] ∧ Permitted s s.chip 3 0 (.stw 8 4 0 0) 4 .store false 1 ∧
      ∀ l ∈ s.lanes 3 0, Violates s 3 0 l (.ldw 8 4 0 0) .load true 1 := by
  refine ⟨by unfold Issues Ready Plain; decide +kernel, permitted_of (by unfold Clean; decide +kernel) (by decide +kernel), fun l hl => ?_⟩
  have : l ∈ [0, 1, 2, 3] := hl
  simp only [List.mem_cons, List.not_mem_nil, or_false] at this
  rcases this with rfl | rfl | rfl | rfl <;> exact violates_of (by decide +kernel)

/-! ## Witnesses: windows of registers -/

/-- Base 24 with floor 0: a call of 15 units spills one. Floor 256: it would spill a unit beyond the last. -/
def deep (b f : Nat) : State := inLanes (fun _ t => { t with base := b, floor := f }) landing

theorem witness_spilling_calls :
    Issues (deep 24 0) [.call 15 1 0] ∧ (∀ l ∈ (deep 24 0).lanes 3 0,
      callSpills ((deep 24 0).warp 3) ((deep 24 0).thread 3 l) 15 = 1 ∧ ((deep 24 0).thread 3 l).floor / 8 + 1 ≤ 32) ∧
    Issues (deep 280 256) [.call 15 1 0] ∧ (∀ l ∈ (deep 280 256).lanes 3 0,
      callSpills ((deep 280 256).warp 3) ((deep 280 256).thread 3 l) 15 = 1 ∧ 32 < ((deep 280 256).thread 3 l).floor / 8 + 1) := by
  unfold Issues Ready Plain
  exact ⟨by decide +kernel, by decide +kernel, by decide +kernel, by decide +kernel⟩

/-- A return that must fill one unit; a link of no units, and one that leaves Tolune code. -/
theorem witness_links :
    (let s := inLanes (fun _ t => { t with floor := 8 }) called;
      Issues s [.ret 0] ∧ Clean s 3 0 [0, 1] ∧ (s.run 3 0).tolune = false ∧
        ∀ l ∈ s.lanes 3 0, (s.value 3 0 l 0).extractLsb' 0 2 = 0 ∧ s.value 3 0 l 1 = 1 ∧ 8 * 1 ≤ (s.thread 3 l).base ∧
          (s.thread 3 l).base < (s.thread 3 l).floor + 8 * 1) ∧
    (Issues landing [.ret 0] ∧ Clean landing 3 0 [0, 1] ∧ Unclaimed landing 3 0 ∧ (landing.run 3 0).tolune = false ∧
      ∀ l ∈ landing.lanes 3 0, (landing.value 3 0 l 1).toNat = 0) ∧
    (let s := withRegs [(1, 1)] landingT;
      Issues s [.ret 0] ∧ Clean s 3 0 [0, 1] ∧ Unclaimed s 3 0 ∧ (s.run 3 0).tolune = true ∧ ∀ l ∈ s.lanes 3 0, s.value 3 0 l 1 ≠ 0) := by
  unfold Issues Ready Plain Clean Unclaimed
  exact ⟨by decide +kernel, by decide +kernel, by decide +kernel⟩

/-! ## Witnesses: guest dispatch, GO, bound slots, traps of products -/

/-- Lanes 0 and 2 stand at opcode 0 with a handler, lanes 1 and 3 at opcode 1 with a guest trap of kind 3. -/
def mixedGuest : State :=
  withBytes 512 [0, 1, 0, 0, 0x10, 0, 0, 0, 0, 1, 0, 0, 0x13] (withBytes 0x400 [0, 1, 0, 1]
    (inLanes (fun l t => { t with gcb := 0x400, gpc := BitVec.ofNat 32 l, htb := 512 }) landing))
def mixedOp (l : Nat) : BitVec 8 := BitVec.ofNat 8 (l % 2)
def mixedEntry (l : Nat) : Dword := if l % 2 = 0 then 0x1000000100 else 0x1300000100

theorem witness_mixed_dispatch : ∀ s ∈ [mixedGuest, gtrapped mixedGuest],
    Issues s [.dsp 119 0] ∧ (∀ l ∈ s.lanes 3 0, (s.chip.dispatchRead 3 (s.thread 3 l)).toOption = some (mixedOp l, mixedEntry l)) ∧
      (∀ l ∈ s.lanes 3 0, entryKind (mixedEntry l) = 0 → s.chip.landAt 3 (s.run 3 0).tolune (loHalf (mixedEntry l)) = true) ∧
      (s.chip.launch (s.warp 3).launch).header.gtrap = (if (s.chip.launch (s.warp 3).launch).header.gtrap = 0 then 0 else 256) ∧
      s.chip.landAt 3 (s.run 3 0).tolune 256 = true := by
  unfold Issues Ready Plain; decide +kernel

/-- GO with a card that holds, and with staging registers unwritten. -/
def going (jcw : BitVec 4) : State :=
  withRegs [(4, 0xFF000000), (8, 0)] (inLanes (fun _ t => { t with jc1 := 64, jc2 := 0x0008000100000000, jc3 := 0x37F, jcw := jcw }) base)

theorem witness_go :
    (∀ k ∈ ([0, 15] : List (BitVec 4)), Issues (going k) [.stw 8 4 8 0] ∧ Unclaimed (going k) 3 0 ∧ Clean (going k) 3 0 [4]) ∧
    (storeForm (.stw 8 4 8 0)).isSome ∧
    (Permitted (going 15) (going 15).chip 3 0 (.stw 8 4 8 0) 4 .store false 1 ∧ StagingUse (going 15) 3 0 (.stw 8 4 8 0) 8 4) ∧
    (∀ l ∈ (going 15).lanes 3 0, GoStop (going 15) 3 0 l = none) ∧
    (∀ l ∈ (going 0).lanes 3 0, (GoStop (going 0) 3 0 l).map Stop.cause = some 3) ∧
    ((((going 0).chip.drain 3).warp 3).active ((((going 0).chip.drain 3).warp 3).run 0) = (going 0).lanes 3 0) ∧
    GoAt (going 0) 3 0 0 (.stw 8 4 8 0) 4 := by
  refine ⟨by unfold Issues Ready Plain Unclaimed Clean; decide +kernel, by decide, ⟨permitted_of (by unfold Clean; decide +kernel)
    (by decide +kernel), staging_of (by decide +kernel)⟩, by decide +kernel, by decide +kernel, by decide +kernel, 0xFF000020, false, true,
    by decide +kernel, by decide +kernel⟩

theorem elementsAllowed_of {s : State} {w rid : Nat} {i : Instr}
    (k : ∀ l ∈ s.lanes w rid, ∀ slot ∈ boundIn (s.warp w) (i.reads ++ i.writes), ((s.warp w).streamAt slot).all (fun v =>
      decide (v.2.count ≤ Sparse.get 0 (s.thread w l).spos v.1 ∨
        s.chip.elementFault w v.2 l (Sparse.get 0 (s.thread w l).spos v.1) = none)) = true) : ElementsAllowed s w rid i := by
  intro l hl slot hs n x hx
  have := k l hl slot hs
  rw [hx] at this
  exact of_decide_eq_true this

/-- A load stream at slot 10, a store stream at 11, a load queue at 12, a store queue at 13, each with room or an element. -/
def slotted : State := inLanes (fun _ t => { t with selem := [(0, [⟨5, false⟩])] }) (inWarp (fun wp => { wp with
  streams := [(0, ⟨10, 0, 4, 2, 2, 1⟩), (1, ⟨11, 256, 16, 1, 0x22, 2⟩)]
  queues := [(0, { Queue.blank with slot := some 12, fifo := [[(0, ⟨7, false⟩), (3, ⟨8, true⟩)]] }), (4, { Queue.blank with slot := some 13 })] }) base)

theorem witness_bound_slots :
    (∀ i ∈ [Instr.add 11 10 12 0, .mov 13 10 0, .add 13 12 12 0], Ready slotted 3 0 i ∧ (laneResult i).isSome ∧
      boundIn (slotted.warp 3) (i.reads ++ i.writes) ≠ []) ∧
    ElementsAllowed slotted 3 0 (.add 11 10 12 0) ∧ ElementsAllowed slotted 3 0 (.mov 13 10 0) ∧
    (Sparse.find (slotted.warp 3).queues 0).isSome ∧ (Sparse.find (slotted.warp 3).queues 4).isSome := by
  refine ⟨by unfold Ready; decide +kernel, elementsAllowed_of (by decide +kernel), elementsAllowed_of (by decide +kernel),
    by decide +kernel, by decide +kernel⟩

theorem extent_of {s : State} {i : Instr} {x : Reg × Nat} (h : fragmentExtent (s.warp 3) (s.run 3 0) i = some x)
    (k : extentBad (s.warp 3) (s.run 3 0) x.1 x.2 = false) :
    ∀ a n, fragmentExtent (s.warp 3) (s.run 3 0) i = some (a, n) → extentBad (s.warp 3) (s.run 3 0) a n = false := by
  intro a n h'
  rw [h] at h'
  cases h'
  exact k

/-- Lanes that name two format words; a reserved bit; a combination that is not legal; an empty bank; a bank of another format. -/
theorem witness_product_traps :
    (let s := inLanes (fun l t => t.setCell 4 ⟨if l = 3 then 0x10012 else 0x10011, false⟩) (matrix 0x10011);
      Ready s 3 0 (.mma 7 16 4 0) ∧ Plain s 3 (.mma 7 16 4 0) ∧ Clean s 3 0 [4] ∧
        ProductTrap s 3 0 (.mma 7 16 4 0) 7 4 4 0 0x10011 8) ∧
    (Ready (matrix 0x50011) 3 0 (.mma 7 16 4 0) ∧ ProductTrap (matrix 0x50011) 3 0 (.mma 7 16 4 0) 7 4 4 1 0x50011 0) ∧
    (Ready (matrix 0x10044) 3 0 (.mma 7 16 4 0) ∧ ProductTrap (matrix 0x10044) 3 0 (.mma 7 16 4 0) 7 4 4 2 0x10044 0) ∧
    (Ready (matrix 0x12011) 3 0 (.mma 7 16 4 0) ∧
      ProductTrap (matrix 0x12011) 3 0 (.mma 7 16 4 0) 7 4 5 0 (BitVec.ofNat 64 (0x12011 + Bank.empty.tag.word.toNat % 2 ^ 25 * 2 ^ 32)) 0) ∧
    (Ready (matrix 0x11011) 3 0 (.mma 7 16 4 0) ∧
      ProductTrap (matrix 0x11011) 3 0 (.mma 7 16 4 0) 7 4 5 1
        (BitVec.ofNat 64 (0x11011 + (banked.bank 1).tag.word.toNat % 2 ^ 25 * 2 ^ 32)) 0) := by
  refine ⟨⟨by unfold Ready; decide +kernel, by unfold Plain; decide +kernel, by unfold Clean; decide +kernel, .inl (by decide +kernel)⟩,
    ⟨by unfold Ready; decide +kernel, .inr (.inl (by decide +kernel))⟩,
    ⟨by unfold Ready; decide +kernel, .inr (.inr (.inl (by decide +kernel)))⟩,
    ⟨by unfold Ready; decide +kernel, .inr (.inr (.inr (.inl ⟨⟨by decide +kernel, by decide +kernel, by decide +kernel, by decide +kernel,
      extent_of (x := (16, 8)) (by decide +kernel) (by decide +kernel)⟩, by decide +kernel⟩)))⟩,
    ⟨by unfold Ready; decide +kernel, .inr (.inr (.inr (.inr ⟨⟨by decide +kernel, by decide +kernel, by decide +kernel, by decide +kernel,
      extent_of (x := (16, 8)) (by decide +kernel) (by decide +kernel)⟩, by decide +kernel⟩)))⟩⟩

/-! ## Witnesses: results and scheduling -/

theorem witness_results :
    let s := inLanes (fun _ t => { t with pend := [⟨.load, [(4, ⟨7, false⟩), (631, ⟨8, true⟩)], 0⟩,
      ⟨.ring true true 0 9, [(5, ⟨0, false⟩)], 0⟩] }) base
    (s.thread 3 0).status = .live ∧ ((s.thread 3 0).pend[0]?).map Pend.kind = some .load ∧
      ((s.thread 3 3).pend[1]?).map Pend.kind = some (.ring true true 0 9) ∧
      (deliveryOf (.loadResultDeliver 3 0 0)).isSome ∧ (deliveryOf (.ringSlotDeliver 3 3 1)).isSome := by decide +kernel

/-- A store at the head of the queue of warp 3, with cards in the staging registers: a copy of one row of eight bytes on
channel 13 to counter 63, one of no bytes, and one of a space that does not exist. -/
def stored (k : StoreKind) (a : Word) (bs : List Byte) : State :=
  inWarp (fun wp => { wp with storeQ := [⟨0, k, a, bs, false, 4, 0, 0, 0, 0, none⟩, ⟨1, .plain, 8, [0], false, 4, 0, 1, 0, 0, none⟩] }) base
def carded (jc0 jc2 : Dword) (written : BitVec 4) : State :=
  inLanes (fun _ t => { t with jc0 := jc0, jc1 := 64, jc2 := jc2, jc3 := 0x37F, jcw := written }) (stored .go 0xFF000020 [0, 0, 0, 0])

theorem witness_store_effects :
    (((stored .plain 4092 [1, 2, 3, 4]).warp 3).storeQ.map Store.kind = [.plain, .plain]) ∧
    (((stored .staging 0xFF000018 [1, 2, 3, 4, 5, 6, 7, 8]).warp 3).storeQ.map Store.kind = [.staging, .plain] ∧
      (0xFF000018 : Word).toNat = 0xFF000000 + 8 * 3) ∧
    (∀ s ∈ [carded 0 0x0008000100000000 15, carded 0 0x0008000000000000 15],
      (s.thread 3 0).jcw = 15 ∧ cardFault (s.chip.modWarp 3 fun wp => { wp with storeQ := wp.storeQ.drop 1 })
        ((s.chip.modWarp 3 fun wp => { wp with storeQ := wp.storeQ.drop 1 }).cardOf 3 0 4 0 0) = none ∧
      footprintFault (s.chip.modWarp 3 fun wp => { wp with storeQ := wp.storeQ.drop 1 })
        ((s.chip.modWarp 3 fun wp => { wp with storeQ := wp.storeQ.drop 1 }).cardOf 3 0 4 0 0) = none) ∧
    ((carded 0 0 7).thread 3 0).status = .live ∧ ((carded 0 0 7).thread 3 0).jcw ≠ 15 ∧
    (cardFault ((carded 0xF000000000000000 0 15).chip.modWarp 3 fun wp => { wp with storeQ := wp.storeQ.drop 1 })
      (((carded 0xF000000000000000 0 15).chip.modWarp 3 fun wp => { wp with storeQ := wp.storeQ.drop 1 }).cardOf 3 0 4 0 0)).isSome := by
  decide +kernel

/-- No run in progress: the four lanes of warp 3 stand at an address. -/
def idle (a : Word) : State := { inWarp (fun wp => { wp with runs := [] }) (inLanes (fun _ t => { t with pc := a }) base) with
  focus := none, agenda := [] }

theorem witness_parked :
    let s := inLanes (fun _ t => { t with waits := [.spin 256 0 4 4 0] }) base
    let u := inLanes (fun _ t => { t with waits := [.spin 256 1 4 4 0] }) base
    ((s.thread 3 0).status = .live ∧ (s.thread 3 0).waits = [.spin 256 0 4 4 0] ∧ (u.thread 3 0).waits = [.spin 256 1 4 4 0] ∧
      s.chip.check 3 .load true true 256 4 = none ∧ (s.chip.loadBytes 3 256 4).2 = false ∧
      (∀ v ∈ [s, u], (v.warp 3).offCore = false ∧ (v.chip.block (v.warp 3).block).status = .running ∧
        (v.warp 3).owesIn 256 4 = false) ∧ (4 : Nat) ≠ 1000 ∧
      numOfBytes (s.chip.loadBytes 3 256 4).1 = (0 : Word).toNat ∧ numOfBytes (u.chip.loadBytes 3 256 4).1 ≠ (1 : Word).toNat ∧
      latched 4 = false) ∧
    let x : Machine.Stream := ⟨119, 0, 4, 1, 2, 1⟩
    let v := inWarp (fun wp => { wp with streams := [(7, x)] }) base
    Sparse.find (v.warp 3).streams 7 = some x ∧ (v.thread 3 0).status = .live ∧ x.ctl.getLsbD 5 = false ∧
      Sparse.get 0 (v.thread 3 0).spos 7 + (Sparse.get [] (v.thread 3 0).selem 7).length < x.count ∧
      v.chip.elementFault 3 x 0 0 = none ∧ (v.thread 3 0).acquiring = false ∧ (v.warp 3).owesIn (x.addr 0 0) x.esize = false := by
  exact ⟨by decide +kernel, by decide +kernel⟩

theorem witness_collective_results :
    let x : Coll := { num := 9, pc := 4, raw := 0, word := .vote 8 1 2 0, members := 31, issued := 15, given := []
                      dest := [(0, [8, 9]), (1, [8, 9]), (2, [8, 9]), (3, [8, 9])] }
    let s := inWarp (fun wp => { wp with colls := [x] }) base
    (s.warp 3).colls.find? (fun y => y.num == 9) = some x ∧ (∀ l ∈ x.liveMembers (s.warp 3), x.issued.getLsbD l = true) ∧
      (∀ e ∈ x.dest, ∀ k ∈ e.2, latched k = false) := by decide +kernel

/-- A gang alone on its port; strays, in a run and waiting for one, and gangs that have waited long enough, at the bound. -/
theorem witness_ports :
    let r := ((idle 256).settleAt 0 0).awaitPort 0 0
    let v := r.view 0 0 r.chip.cycle
    v.chip.portBusy 0 0 = false ∧ (v.gangs 0 0 r.chip.cycle).map (fun g => (g.w, g.lanes, g.tolune)) = [(3, [0, 1, 2, 3], false)] ∧
      v.gangLanes ((v.gangs 0 0 r.chip.cycle).headD ⟨0, [], false, []⟩) = [0, 1, 2, 3] := by
  decide +kernel

def strayed (cycle : Nat) : State :=
  (inLanes (fun l t => { t with stray := l == 3, pc := if l = 3 then 256 else 512 }) (idle 512)).onChip fun c => { c with cycle := cycle }
/-- The stray lane is in a run whose next word, at 256, stands in its loop buffer. -/
def strayRunning : State :=
  inWarp (fun wp => { wp with runs := [(7, { Run.blank with
    lanes := 8, stray := true, entry := 256, pc := 256, buffer := [0, 0x01FFFFF8] })] }) (strayed 256)

theorem witness_promotions :
    (let c := (strayed 256).chip.settleOf 3; let wp := (c.warp 3).anchored c.cycle; let t := wp.thread 3;
      t.status = .live ∧ t.stray = true ∧ t.promoted ≠ some true ∧ wp.strayRun 3 = none ∧ c.warpRuns 3 = true ∧
        wp.laneReady c.cycle 3 = true ∧ max t.since t.nextAt + 256 ≤ c.cycle) ∧
    (let c := strayRunning.chip.settleOf 3; let wp := (c.warp 3).anchored c.cycle; let t := wp.thread 3;
      t.status = .live ∧ t.stray = true ∧ t.promoted ≠ some true ∧ (wp.strayRun 3).map (fun x => (x.1, x.2.since)) = some (7, 0) ∧
        (c.wordDue 3 7).isSome ∧ 0 + 256 ≤ c.cycle) ∧
    (let c := (strayed 1024).chip.settleOf 3; let wp := (c.warp 3).anchored c.cycle;
      (wp.byKey (wp.liveLanes.filter fun k => wp.laneReady c.cycle k && !(wp.thread k).stray)).find?
        (fun g => g.contains 0) = some [0, 1, 2] ∧ c.warpRuns 3 = true ∧
        ∀ k ∈ [0, 1, 2], (wp.thread k).promoted ≠ some false ∧
          max (wp.thread k).since (wp.thread k).nextAt + 1024 ≤ c.cycle) := by decide +kernel

/-- A promoted stray whose run is in its loop buffer, with a gang that could issue as soon; a stray in a run, with no gang. -/
theorem witness_strays :
    (let s := inLanes (fun l t => { t with
        stray := l == 3, promoted := if l = 3 then some true else none, pc := if l = 3 then 256 else 512, loopBuf := [(256, [0, 0x01FFFFF8])] }) (idle 512);
      let r := s.settleAt 0 0;
      (firstStray ((r.view 0 0 (r.chip.portTime 0 0)).chip.strayCands 0 0 (r.chip.portTime 0 0))).map
          (fun x => (x.w, x.run, x.lanes, x.promoted, x.at')) = some (3, none, [3], true, 0) ∧
        r.gangDue 0 0 = some 0 ∧ (Sparse.find r.chip.warps 3).isSome) ∧
    (let s := inLanes (fun l t => if l = 3 then t else { t with status := .exited }) strayRunning;
      let r := s.settleAt 0 0;
      (firstStray ((r.view 0 0 (r.chip.portTime 0 0)).chip.strayCands 0 0 (r.chip.portTime 0 0))).map
          (fun x => (x.w, x.run, x.lanes, x.tolune)) = some (3, some 7, [3], false) ∧ r.gangDue 0 0 = none) := by
  decide +kernel

def toluneAt (map : Bool) : State :=
  let s := inLanes (fun _ t => { t with tolune := true, safe := true }) (withBytes 512 [0, 1, 0, 0] (idle 256))
  if map then s.onChip fun c => { c with contexts := Sparse.put c.contexts 65535 { c.context 65535 with tolune := some (256, 4, 512) } }
  else s

/-- Lane 3, a stray in a run of Tolune code or one that waits to begin it, while the other lanes wait for the host. -/
def toluneStray (runs : Bool) : State :=
  let s := inLanes (fun l t => if l = 3 then { t with tolune := true, safe := true, stray := true } else { t with waits := [.trap 9 4] })
    (withBytes 512 [0, 1, 0, 0] (idle 256))
  if runs then inWarp (fun wp => { wp with runs := [(7, { Run.blank with
    lanes := 8, stray := true, tolune := true, entry := 256, pc := 256 })] }) s else s

theorem witness_tolune :
    (let r := (inTolune base).settleAt 0 0;
      ((r.warp 3).toluneRun 0).map (fun x => (x.1, x.2.stray)) = some (0, false) ∧ r.held 0 0 = false) ∧
    (let r := (toluneStray true).settleAt 0 0;
      ((r.warp 3).toluneRun 3).map (fun x => (x.1, x.2.stray)) = some (7, true) ∧
        (r.strayPick 0 0).map (fun y => (y.w, y.run)) = some (3, some 7)) ∧
    (let r := (toluneStray false).settleAt 0 0;
      (r.warp 3).toluneRun 3 = none ∧
        (r.strayPick 0 0).map (fun x => (x.w, x.run, x.tolune, x.lanes)) = some (3, none, true, [3]) ∧
        r.chip.mapWaits 3 (r.thread 3 3) = false ∧ r.chip.mapWord 3 (r.thread 3 3) = (0, false)) ∧
    (∀ s ∈ [toluneAt false, toluneAt true],
      let r := s.settleAt 0 0
      let q := r.awaitPort 0 0
      let v := q.view 0 0 q.chip.cycle
      (r.warp 3).toluneRun 0 = none ∧ r.strayPick 0 0 = none ∧ q.held 0 0 = false ∧
        (v.chosenGang 0 0).map (fun g => (g.w, g.tolune, g.lanes, v.gangLanes g)) = some (3, true, [0, 1, 2, 3], [0, 1, 2, 3]) ∧
        (Sparse.find q.chip.warps 3).isSome ∧ ∀ k ∈ [0, 1, 2, 3], q.chip.mapWaits 3 (q.thread 3 k) = false) ∧
    (∀ k ∈ [0, 1, 2, 3],
      let q := ((toluneAt false).settleAt 0 0).awaitPort 0 0
      q.chip.mapWord 3 (q.thread 3 k) = (0, false) ∧ (q.thread 3 k).live = true ∧ (q.thread 3 k).tolune = true) ∧
    (∀ k ∈ [0, 1, 2, 3],
      let q := ((toluneAt true).settleAt 0 0).awaitPort 0 0
      (q.chip.mapWord 3 (q.thread 3 k)).1 ≠ 0 ∧ (q.chip.mapWord 3 (q.thread 3 k)).2 = false) := by
  exact ⟨by decide +kernel, by decide +kernel, by decide +kernel, by decide +kernel, by decide +kernel, by decide +kernel⟩

/-- Two threads held with one carry count beside an exited one; and the other events of a lane. -/
theorem witness_lanes :
    (((inLanes (fun _ t => { t with waits := [.dispatch 0 true] }) (idle 256)).thread 3 0).dispatching.isSome ∧
      (idle 256).chip.choices = []) ∧
    (let s :=
      inLanes (fun l t => if l = 3 then { t with status := .exited } else { t with waits := [.hold 8] })
        { (idle 256) with chip := { (idle 256).chip with choices := [1] } };
      (s.thread 3 0).held = some 8 ∧
      let c := s.chip.modWarp 3 fun wp => wp.modThread 0 fun t => { t with waits := t.waits.filter fun x => x != .hold 8 }
      c.movable 3 0 = true ∧ (c.targets 3 0)[0]? = some (3, 1, some 8) ∧ (c.targets 3 0)[2]? = some (3, 3, none)) ∧
    (let s := { inLanes (fun l t => if l = 3 then { t with status := .exited } else { t with waits := [.hold 8] }) (idle 256) with
        agenda := [] };
      s.chip.choices = [] ∧ (s.thread 3 0).held = some 8) ∧
    ((inLanes (fun _ t => { t with waits := [.move] }) (idle 256)).thread 3 0).waits.contains .move = true := by
  decide +kernel

theorem witness_buffers :
    (let s := inLanes (fun l t => { t with stray := l == 3 }) (withBytes 256 [0, 0, 0, 0, 0xF8, 0xFF, 0xFF, 1] (idle 256));
      (s.thread 3 3).stray = true ∧ (s.thread 3 3).tolune = false ∧ (s.warp 3).inRun.getLsbD 3 = false ∧
      (s.thread 3 3).buffered (s.thread 3 3).pc = none ∧
      ∀ k < 2, s.chip.fetchAt 3 false ((s.thread 3 3).pc + BitVec.ofNat 32 (4 * k)) = .word ([0, 0x01FFFFF8].getD k 0) ∧
        (([0, 0x01FFFFF8] : List Word).getD k 0).extractLsb' 24 8 = (if k + 1 = 2 then 1 else 0)) ∧
    (let s := inRun (fun r => { r with icWait := true }) base;
      ((s.warp 3).runs.find? (fun r => r.2.icWait && r.2.lanes.getLsbD 0)).map (·.1) = some 0 ∧ s.chip.nextWord 3 0 ≠ .poisoned) := by
  decide +kernel

/-! ## Witnesses: the Crucible, jobs, links -/

def entry (i : Instr) (f : Word) (load : TileLoad) : MatrixEntry :=
  { word := i, warp := 3, lanes := 15, npc := 4, raw := 0, fmt := f, addr := 512, addr2 := 1024, frag := []
    dest := [(0, [8, 9, 10, 11, 12, 13, 14, 15]), (1, [8, 9, 10, 11, 12, 13, 14, 15]), (2, [8, 9, 10, 11, 12, 13, 14, 15]),
      (3, [8, 9, 10, 11, 12, 13, 14, 15])]
    load := load, rows := [], sample := 0, rentry := 256, retry := 0, num := 9 }
def queued (i : Instr) (load : TileLoad) : State := crucible { banked with queue := [entry i 0x10011 load] } base

theorem witness_matrix_queue :
    (∀ i ∈ [Instr.mma 7 16 4 0, .acz 6 1 0, .acl 6 16 1 3 0, .rqt 4 5 6 0],
      ((queued i .nothing).chip.crucible 0).cur = none ∧ ((queued i .nothing).chip.crucible 0).queue = [entry i 0x10011 .nothing] ∧
        ((queued i .nothing).chip.block ((queued i .nothing).warp 3).block).status = .running) ∧ isProduct (.mma 7 16 4 0) = true ∧
    (∀ load ∈ [TileLoad.bank Bank.empty, .failed],
      ((queued (.bld 7 5 0 0) load).chip.crucible 0).queue = [entry (.bld 7 5 0 0) 0x10011 load]) ∧
    (∃ xs : List Val, xs.length = 16 ∧ (queued (.cbl 1 5 0) (.table xs)).chip.crucible 0 =
      { banked with queue := [entry (.cbl 1 5 0) 0x10011 (.table xs)] }) := by
  refine ⟨by decide +kernel, by decide, by decide +kernel, List.replicate 16 ⟨1, false⟩, by decide, by decide +kernel⟩

def reading (i : Instr) (kind : PendKind) : State :=
  inLanes (fun _ t => { t with pend := [⟨kind, [8, 9, 10, 11, 12, 13, 14, 15].map fun k => (k, ⟨0, false⟩), 0⟩] })
    (queued i .nothing)

/-- `drn` and `mstat` deliver in a running block, and in one that is being stopped and whose Crucible is still owed. -/
theorem witness_readers : MatrixReaders (reading (.drn 8 7 0 3 0) .drain) (entry (.drn 8 7 0 3 0) 0x10011 .nothing) .drain ∧
    MatrixReaders (reading (.mstat 8 8 0) .mstat) (entry (.mstat 8 8 0) 0x10011 .nothing) .mstat ∧
    (let s := inBlock (fun b => { b with status := .stopping, owed := [(1, 0), (0, 3), (5, 3)] }) (reading (.drn 8 7 0 3 0) .drain);
      (s.chip.block (s.warp 3).block).status = .stopping ∧ (1, 0) ∈ (s.chip.block (s.warp 3).block).owed ∧
        (0, 3) ∈ (s.chip.block (s.warp 3).block).owed ∧
        MatrixReaders s (entry (.drn 8 7 0 3 0) 0x10011 .nothing) .drain) := by
  unfold MatrixReaders; decide +kernel

/-- A narrow product, a sliced one on its first and on its last pass, and a failed check. -/
def multiplying (i : Instr) (f : Word) (pass : Nat) : State := crucible { banked with cur := some ⟨entry i f .nothing, pass, false, []⟩ } base

theorem witness_products :
    (∀ x ∈ [(Instr.mma 7 16 4 0, (0x10011 : Word), 0), (.mmab 7 0 4 0, 0x10011, 0), (.mmas 7 16 4 0, 0x1244, 0), (.mmas 6 16 4 0, 0x1244, 1)],
      ((multiplying x.1 x.2.1 x.2.2).chip.crucible 0).cur = some ⟨entry x.1 x.2.1 .nothing, x.2.2, false, []⟩ ∧
        ((multiplying x.1 x.2.1 x.2.2).chip.block ((multiplying x.1 x.2.1 x.2.2).warp 3).block).status = .running ∧
        (multiplying x.1 x.2.1 x.2.2).chip.inject = none) ∧
    (productRows banked (entry (.mma 7 16 4 0) 0x10011 .nothing)).isSome ∧
    (productRows banked (entry (.mmab 7 0 4 0) 0x10011 .nothing)).isSome ∧ fmtS 0x1244 = 2 ∧ isNarrow (.mma 7 16 4 0) = true ∧
    ((multiplying (.mmas 7 16 4 0) 0x1144 0).onChip fun c => { c with inject := some 1 }).chip.inject = some 1 ∧
    (let s := inBlock (fun b => { b with status := .stopping, owed := [(1, 0)] })
        (inWarp (fun wp => { wp with runs := [] }) (multiplying (.mmas 7 16 4 0) 0x1244 0));
      s.chip.inject = none ∧ 0 + 1 < fmtS 0x1244 ∧ (s.chip.block (s.warp 3).block).status = .stopping ∧
        (1, 0) ∈ (s.chip.block (s.warp 3).block).owed ∧
        ∀ v ∈ s.chip.warps, v.2.block = (s.warp 3).block → v.2.core = 0 → v.2.offCore = true ∨ v.2.runs = []) := by decide +kernel

/-- A job of the lane 0 of warp 3, as the only one in flight. -/
def job (jc0 jc1 : Dword) (op cursor : Nat) (status : JobStatus) : Job :=
  { (base.chip.cardOf 3 0 4 0 0) with
    jc0 := jc0, jc1 := jc1, jc2 := 0x0008000100000000, jc3 := BitVec.ofNat 64 (0x37F + 1024 * op), cursor := cursor, status := status }
def flying (j : Job) (s : State) : State := s.onChip fun c => { c with jobs := [(9, j)], next := 10 }
def rqtJob : Job := { job 0 0 0 0 .waiting with kind := .rqt 63 512 1024 (some []) }

theorem witness_requantising :
    let s := flying rqtJob base
    let x := rqtJob
    (s.chip.jobFree 9 x = true ∧ s.chip.fencedRqt.contains x.unit = false ∧
      (∀ e ∈ s.chip.jobs, e.1 < 9 → e.2.isRqt = true → s.chip.onDie e.2 = true → e.2.unit ≠ x.unit) ∧
      (512 : Word).toNat % 16 = 0 ∧ (1024 : Word).toNat % 16 = 0 ∧ s.chip.fault x.context x.launch x.block .jobRead true true 512 16 = none ∧
      s.chip.fault x.context x.launch x.block .jobRead true true 1024 16 = none) ∧
    (∀ v ∈ s.chip.descAt x.context x.launch x.block 512 ++ s.chip.descAt x.context x.launch x.block 1024, v.p = false) ∧
    descOf (s.chip.descAt x.context x.launch x.block 512) = some ⟨0, 0, 0, 0⟩ ∧
    descOf (s.chip.descAt x.context x.launch x.block 1024) = some ⟨0, 0, 0, 0⟩ ∧
    s.chip.rqtFault x (TileDesc.ranges ⟨0, 0, 0, 0⟩ 0 (rqtSscl 63)) (TileDesc.ranges ⟨0, 0, 0, 0⟩ 0 true) = none := by
  decide +kernel

/-- Jobs that start, with a ring to fill, with a full one, and with a claim; a waiting claimant; a job at its end. -/
theorem witness_jobs :
    (let j := job 0 64 0 0 .waiting; let s := flying j base;
      s.job 9 = some j ∧ j.kind = .ladle ∧ s.chip.onDie j = true ∧ s.chip.jobFree 9 j = true ∧ s.chip.channelHeld 9 j = false ∧ s.chip.fencedLink j = none ∧
        s.chip.fencedChannels.contains (j.unit * 16 + j.chan) = false ∧ sideSpace j.jc1 ≠ 4) ∧
    (let j := job 0 0x4000000000000000 0 0 .waiting; let s := flying j base;
      s.chip.jobFree 9 j = true ∧ s.chip.channelHeld 9 j = false ∧ sideSpace j.jc1 = 4 ∧ j.claim = none ∧
        (Sparse.get Ring.blank (s.chip.block j.block).rings (sideRing j.jc1)).waiters = [] ∧
        (Sparse.get Ring.blank (s.chip.block j.block).rings (sideRing j.jc1)).free ≠ 0) ∧
    (let j := job 0 0x4000000000000000 0 0 .claiming;
      let s := inBlock (fun b => { b with rings := [(0, { lastClaimed with waiters := [.job 9 5] })] }) (flying j base);
      (Sparse.find (s.chip.block j.block).rings (sideRing j.jc1)).map (fun r => (r.free, r.waiters)) = some (3, [.job 9 5])) ∧
    (let j := job 0 64 0 8 .running; j.size ≤ j.cursor ∧ (flying j base).job 9 = some j ∧
      (Sparse.find (flying j base).chip.blocks j.block).isSome) := by decide +kernel

/-- A page table at 4096 whose first leaf maps the lowest addresses to themselves. -/
def paged (s : State) : State :=
  { s with
    main := ((s.main.store 4096 [0x0D, 0x20] false).store 8192 [0x0D, 0x30] false).store 12288 [0x0F] false
    chip := { s.chip with
      contexts := Sparse.put s.chip.contexts 65535 { s.chip.context 65535 with root := 4096, rooted := true }
      towlines := [(1, { Towline.untrained with trained := true, bound := [(65535, 7)] })] } }
def cachedPage (s : State) : State := { s with tlb := [⟨0, 65535, 0, 0, true, true⟩] }
def toMain : Job := job 0 0x1000000000000008 0 0 .running
def toHost : Job := job 0 0x2000000000000008 0 0 .running
def toPeer : Job := job 0 0x3200000000000008 0 0 .running
def spoiled (s : State) : State := s.onChip fun c => { c with scratch := { c.scratch with marks := [0] } }

theorem witness_chunks :
    (∀ j ∈ [job 0 64 0 0 .running, toMain, toHost, toPeer],
      let s := cachedPage (paged (flying j base))
      let u := s.fillTlb j (s.movable j)
      s.job 9 = some j ∧ j.kind = .ladle ∧ j.status = .running ∧ s.chip.onDie j = true ∧ j.chunk = [] ∧ s.movable j ≠ 0 ∧ s.unmapped j (s.movable j) = none ∧
        s.linksUp j = true ∧ s.chip.linkHeld 9 j = false ∧ u.poisonBound j (u.sourceBytes j (s.movable j)) = false ∧
        u.unshadowed j (s.movable j) = []) ∧
    (let s := cachedPage (paged (flying toMain base));
      ((List.range 8).map fun k => s.physical toMain (toMain.dstAddr (toMain.cursor + k)) (toMain.op == 2) true).Nodup) ∧
    (let s := spoiled (cachedPage (paged (flying toMain base)));
      s.poisonBound toMain (s.sourceBytes toMain 8) = true ∧ s.chip.threadOf toMain.block toMain.wid = some (3, 0)) ∧
    (let s := inLaunch (fun x => { x with replayable := true }) (cachedPage (paged (flying toMain base)));
      s.unshadowed toMain 8 = [(0, 8)] ∧ s.freePages toMain.context = [] ∧ s.poisonBound toMain (s.sourceBytes toMain 8) = false) ∧
    (let j := { toPeer with chunk := [1] }; let s := paged (flying j base);
      s.movable j = 1 ∧ s.unmapped j 1 = none ∧ s.linksUp j = true ∧ s.chip.linkHeld 9 j = false ∧ j.chunk ≠ [] ∧
        s.poisonBound j j.sent = false) ∧
    (let j := { toPeer with status := .peer, chunk := [1] };
      (flying j (paged base)).linksUp j = true ∧ ((flying j (paged base)).peerKey j.context (sideLink j.jc1)).isSome ∧
        (((List.range j.chunk.length).map fun k => j.dstAddr (j.cursor + k))).Nodup) := by
  decide +kernel

theorem witness_job_faults :
    (let s := paged (flying toMain base);
      s.unmapped toMain (s.movable toMain) = some (0, 8, false, true) ∧
        s.walk toMain.context 8 false true = .page 0 true true) ∧
    (let s := flying toMain base; s.unmapped toMain (s.movable toMain) = some (0, 8, false, true) ∧ s.walk toMain.context 8 false true = .fault) ∧
    (let s := paged { flying toMain base with main := base.main.store 12289 [0, 0, 0, 0, 0, 1] false };
      s.walk toMain.context 8 false true = .malformed false) ∧
    (let s := paged (flying toPeer base);
      sideSpace toPeer.jc1 = 3 ∧ toPeer.status = .running ∧ s.movable toPeer ≠ 0 ∧ s.linkBound toPeer (sideLink toPeer.jc1) = true ∧
        s.chip.onDie toMain = true) := by
  exact ⟨by decide +kernel, by decide +kernel, by decide +kernel, by decide +kernel⟩

theorem witness_cluster_errors :
    base.chip.fencedChannels.contains (23 * 16 + 15) = false ∧ base.chip.fencedRqt.contains 23 = false ∧
      ((base.chip.block 2).status = .running ∧ (base.chip.block 2).fenced = false ∧ (base.chip.block 2).rings ≠ [] ∧
        (Sparse.find base.chip.launches (base.chip.block 2).launch).isSome ∧
        (base.chip.launch (base.chip.block 2).launch).replayable = false) ∧
      2 ^ 30 - 1 < 2 ^ 30 ∧ base.slipwayFenced = false ∧
      (Sparse.get Towline.untrained (paged base).chip.towlines 1).trained = true ∧
      (Sparse.get Towline.untrained (paged base).chip.towlines 1).fenced = false ∧
      (Sparse.get Towline.untrained base.chip.towlines 7).trained = false := by decide +kernel

theorem witness_peer_access :
    ((paged base).towline 1).trained = true ∧ ((paged base).towline 1).fenced = false ∧ ((paged base).towline 1).bound = [(65535, 7)] ∧
      (paged base).chip.choices = [] ∧ (paged base).peerPlaces 65535 8 4 (6 % 4 != 1) (6 % 4 != 0) = some [8, 9, 10, 11] ∧
      (paged base).peerPlaces 65535 8 4 (17 % 4 != 1) (17 % 4 != 0) = some [8, 9, 10, 11] ∧ [8, 9, 10, 11].Nodup ∧
      (paged base).peerPlaces 65535 (2 ^ 56) 4 (17 % 4 != 1) (17 % 4 != 0) = none := by decide +kernel

/-! ## Witnesses: records, binding, blocks -/

/-- One field of 4 threads, one role of one warp of 4 lanes and 8 registers, cluster 0 for the one block of die 0. -/
def headerBytes (version : Nat) : List Byte :=
  bytesOfNum 4 (256 * version) ++ bytesOfNum 12 0 ++ [1, 0, 1, 1] ++ bytesOfNum 12 0 ++ bytesOfNum 8 (2 + 3 * 2 ^ 32) ++
    bytesOfNum 40 0 ++ bytesOfNum 8 (0x00010101 * 2 ^ 32) ++ bytesOfNum 120 0 ++ bytesOfNum 8 1 ++ bytesOfNum 8 0 ++
    bytesOfNum 8 1 ++ bytesOfNum 8 1 ++ bytesOfNum 8 1 ++ bytesOfNum 8 0

/-- Bytes of the host at an address of address space 0. -/
def hosting (a : Nat) (bs : List Byte) (s : State) : State := s.hostWrite 0 a bs
/-- Queue 0 holds one record of a kind for a context, its header at 0x5000 of main memory. -/
def posted (kind ctx version : Nat) : State :=
  let s := paged (hosting 0 (bytesOfNum 8 0x5000 ++ bytesOfNum 4 (65536 * kind) ++ bytesOfNum 4 ctx) base)
  { s with
    main := s.main.store 0x5000 (headerBytes version) false
    queues := [(0, { LaunchQueue.blank with defined := true, owner := 65535, size := 2, tail := 1, index := 4096 })]
    regBlock := { s.regBlock with ready := true } }
def headOf (s : State) : LaunchRecord := (s.headRecord 0).getD (recordOf [])

theorem witness_records :
    (∀ x ∈ [(posted 0 65535 1, none), (posted 0 65535 2, some 2)],
      (x.1.headRecord 0).isSome ∧ x.1.queueFree 0 = true ∧ (headOf x.1).kind = 0 ∧ x.1.badRecord 0 (headOf x.1) = false ∧
        (headOf x.1).waits = [] ∧ x.1.waitsMet 0 (headOf x.1) = true ∧
        ∃ bs, x.1.mainRead 65535 0x5000 4 = some bs ∧ x.1.launchWhy 0 0 (headOf x.1) bs (headerOf bs) = x.2 ∧
          ∀ n ∈ (headerOf bs).windows, ((x.1.chip.context 65535).window n).state = .opened) ∧
    (∀ s ∈ [posted 0 7 1, posted 3 65535 1], (s.headRecord 0).isSome ∧ s.queueFree 0 = true ∧ (headOf s).kind ≠ 1 ∧ (headOf s).kind ≠ 2 ∧
      (s.badRecord 0 (headOf s) = true ∨ (headOf s).kind ≠ 0)) ∧
    (let s := posted 2 65535 1;
      (s.headRecord 0).isSome ∧ s.queueFree 0 = true ∧ (headOf s).kind = 2 ∧ s.badRecord 0 (headOf s) = false ∧ (headOf s).waits = [] ∧
        s.waitsMet 0 (headOf s) = true ∧ (s.queue 0).head ≤ (s.queue 0).completedBelow) := by
  refine ⟨fun x hx => ?_, by decide +kernel, by decide +kernel⟩
  simp only [List.mem_cons, List.not_mem_nil, or_false] at hx
  rcases hx with rfl | rfl
  · exact ⟨by decide +kernel, by decide +kernel, by decide +kernel, by decide +kernel, by decide +kernel, by decide +kernel,
      headerBytes 1, by decide +kernel, by decide +kernel, by decide +kernel⟩
  · exact ⟨by decide +kernel, by decide +kernel, by decide +kernel, by decide +kernel, by decide +kernel, by decide +kernel,
      headerBytes 2, by decide +kernel, by decide +kernel, by decide +kernel⟩

/-- An accepted launch of the header, and the placed block as an image. -/
def accepted : State :=
  let s := posted 0 65535 1
  s.onChip fun c => { c with launches := Sparse.put c.launches 9 { Launch.blank with
    context := 65535, header := headerOf (headerBytes 1), status := .accepted, blocks := 1 } }
def imaged : State :=
  inWarp (fun wp => { wp with runs := [], offCore := true }) (inBlock (fun b => { b with status := .preempted }) (posted 0 65535 1))

theorem witness_binding :
    (accepted.regBlock.ready = true ∧ accepted.bindOrder 0 = [(0, .next 9)] ∧ (Sparse.find accepted.chip.launches 9).isSome ∧
      (accepted.fit 9 0 (accepted.chip.launch 9).header (accepted.chip.launch 9).header.placings).isSome) ∧
    (imaged.regBlock.ready = true ∧ imaged.bindOrder 0 = [(0, .restore 2)] ∧ (Sparse.find imaged.chip.blocks 2).isSome ∧ imaged.replies = [] ∧
      (imaged.fit 2 0 (imaged.chip.launch (imaged.chip.block 2).launch).header (imaged.chip.imageGroups 2)).isSome) := by
  decide +kernel

/-- A bind record for slot 0 of a core, for a warp of the placed launch. -/
def recordFor (core : Nat) : BindRecord := ⟨core, 0, 65535, 1, 2, 0, 4, 0, 0, 8, 0, 5⟩
def recorded (core : Nat) (fenced : List Nat) : State :=
  { base with
    binds := [recordFor core]
    chip := { base.chip with cores := [(core, { Core.fresh with fencedSlots := fenced })] } }
def emptied : State := inWarp (fun wp => { wp with runs := [] }) (inLanes (fun _ t => { t with status := .exited }) base)

theorem witness_warps :
    (∀ s ∈ [recorded 1 [], recorded 1 [1]], s.binds.find? (fun r => r.core == 1) = some (recordFor 1) ∧
      s.chip.bindClash (recordFor 1) = none ∧ (s.chip.core 1).fencedSlots.contains 0 = false) ∧
    (recorded 0 []).binds.find? (fun r => r.core == 0) = some (recordFor 0) ∧ ((recorded 0 []).chip.bindClash (recordFor 0)).isSome ∧
    ((recorded 1 [0]).chip.core 1).fencedSlots.contains 0 = true ∧ (Sparse.find (recorded 1 [0]).chip.blocks 2).isSome ∧
    ((Sparse.find emptied.chip.warps 3).isSome ∧ (emptied.warp 3).liveLanes = [] ∧ (emptied.warp 3).storeQ = [] ∧
      (emptied.chip.block (emptied.warp 3).block).status = .running ∧ emptied.chip.matrixHolds 3 = false ∧ emptied.chip.jobs = []) := by
  decide +kernel

/-- A package time in nanoseconds. -/
def atTime (ns : Nat) (s : State) : State := s.onChip fun c => { c with ps := 1000 * ns }
/-- The placed block with no warp left, its launch of some blocks. -/
def drained (blocks : Nat) : State := inLaunch (fun x => { x with blocks := blocks }) (base.onChip fun c => { c with warps := [] })

theorem witness_block_events :
    (∀ s ∈ [drained 1, drained 2], (s.chip.block 2).status = .running ∧ s.chip.warpsOf 2 = [] ∧ s.chip.jobs = [] ∧
      (Sparse.find s.chip.launches (s.chip.block 2).launch).isSome) ∧
    ((drained 2).chip.launch 1).done + 1 ≠ ((drained 2).chip.launch 1).blocks ∧
    ((drained 1).chip.launch 1).done + 1 = ((drained 1).chip.launch 1).blocks ∧
    (((inContext (fun x => x.modWindow 0 fun v => { v with state := .opening }) base).chip.context 65535).window 0).state = .opening ∧
    (let s := atTime 1000000 { base with queues := [(0, { LaunchQueue.blank with readyAt := some 0 })] };
      (s.queue 0).readyAt = some 0 ∧ (s.queue 0).aged = false ∧ 0 + 1000000 ≤ s.chip.ps / 1000) ∧
    (let s := atTime 200000 (inBlock (fun b => { b with restoredAt := some 0 }) base);
      (s.chip.block 2).restoredAt = some 0 ∧ 0 + 200000 ≤ s.chip.ps / 1000) := by decide +kernel

/-- The placed block asked to stop at time 0, with the acknowledgements of the threads of its warp and its core's
Crucible owed. -/
def stopping (owed : List (Nat × Nat)) (s : State) : State := inBlock (fun b => { b with status := .stopping, owed := owed }) s
/-- Warp 3 is on a service call, off its core, and the reply has come. -/
def calling (seq : Option Nat) (replied : Bool) (s : State) : State :=
  (inLanes (fun _ t => { t with waits := [.service 7] }) (inWarp (fun wp => { wp with runs := [], offCore := replied }) s)).onChip fun c =>
    { c with services := [{ num := 7, context := 65535, warp := 3, core := 0, wslot := 0, code := 0, npc := 4, launch := 1, lanes := 15, seq := seq
                            unbound := replied, replied := replied, writes := [], at' := 0 }] }

theorem witness_preemption :
    (∀ x ∈ [((stopping [(5, 3), (1, 0)] base), [((1 : Nat), 0)]), (stopping [(5, 3)] base, [])],
      (x.1.chip.block 2).status = .stopping ∧ (5, 3) ∈ (x.1.chip.block 2).owed ∧ (x.1.chip.stopEngine 2 5 3).isSome ∧
        (Sparse.find x.1.chip.blocks 2).isSome ∧ ((x.1.chip.block 2).owed.filter fun o => o ≠ (5, 3)) = x.2 ∧
        (x.1.chip.block 2).aborting = false) ∧
    (let s := atTime 20000 (stopping [(0, 3)] (inRun (fun r => { r with icWait := true }) (withBytes 4 [0, 0, 0, 0] base)));
      ((s.warp 3).runs.find? (fun r => r.2.lanes.getLsbD 0)).map (·.1) = some 0 ∧ s.stopSince 3 0 = some 0 ∧
        0 + 20000 ≤ s.chip.ps / 1000 ∧ ((s.warp 3).run 0).emul = none ∧ s.chip.stalled 3 0 = true) := by
  decide +kernel

/-! ## Witnesses: records of traps, replies, services -/

/-- Lanes 0 to 3 of warp 3 are parked on record 7 and resume at 256; ring 0 has room for two units. -/
def trapRec (event : Nat) (seq : Option Nat) : TrapRec :=
  { num := 7, event := event, reason := 0, context := 65535, launch := 1, warp := 3, die := 0, core := 0, wslot := 0, npc := 4
    word := 0, rentry := 0, entries := 0, lmask := 15, wids := [0, 1, 2, 3], info0 := 0, info1 := 0, info2 := 0, job := none, seq := seq }
def parked (event : Nat) (seq : Option Nat) (ring : Nat) (g : HostRing) : State :=
  (inContext (fun x => { x with rings := [(ring, g)] }) (inLanes (fun _ t => { t with waits := [.trap 7 256] })
    (inWarp (fun wp => { wp with runs := [] }) base))).onChip fun c => { c with recs := [trapRec event seq] }

theorem witness_trap_records :
    let s := parked 255 none 0 ⟨64, 1, 0, 2 ^ 32 - 1, 2 ^ 32 - 1⟩
    (let rs := s.chip.recs.filter fun x => x.seq.isNone && x.context == 65535
     (rs.filter fun x => decide (((rs.find? fun y => y.die == x.die).map TrapRec.num) = some x.num)).find? s.chip.postable) =
      some (trapRec 255 none) ∧
      s.ring 65535 0 = some ⟨64, 1, 0, 2 ^ 32 - 1, 2 ^ 32 - 1⟩ ∧ s.slipwayFenced = false ∧
      ((2 ^ 32 - 1) + 2 ^ 32 - (2 ^ 32 - 1)) % 2 ^ 32 + (64 + 8 * 4 + 63) / 64 ≤ 2 ^ 1 ∧
      64 + 2 ^ 1 * 64 ≤ 2 ^ 64 ∧ 0 + 4 ≤ 64 := by decide +kernel

/-- A reply of an action to record 0 of the ring of replies, for all four lanes, and for a job none. -/
def replied (event action mask pc : Nat) : State :=
  hosting 4192 (bytesOfNum 4 0 ++ bytesOfNum 4 (action + 0x600) ++ bytesOfNum 8 mask ++ bytesOfNum 4 pc ++ bytesOfNum 4 64)
    (withBytes 512 [0, 0, 0, 0x0E] (parked event (some 0) 1 ⟨4096, 2, 0, 0, 2 ^ 32 - 1⟩))
def reply (s : State) : Reply := (replyOf (s.hostRead 0 (4096 + 3 * 32) 32) 65535 (2 ^ 32 - 1)).1
def faulted (action : Nat) : State := flying { toMain with fault := some 7, status := .parked } (replied 9 action 0 0)

theorem witness_trap_replies :
    (∀ s ∈ [replied 0 0 15 0, replied 0 1 15 512, replied 0 2 15 0, faulted 3, faulted 4],
      s.ring 65535 1 = some ⟨4096, 2, 0, 0, 2 ^ 32 - 1⟩ ∧ s.slipwayFenced = false ∧ (0 + 2 ^ 32 - (2 ^ 32 - 1)) % 2 ^ 32 ≠ 0 ∧
        (replyOf (s.hostRead (s.asid 65535) (4096 + (2 ^ 32 - 1) % 2 ^ 2 * 32) 32) 65535 (2 ^ 32 - 1)).2 = (0, false) ∧
        (∀ r ∈ s.chip.recs, s.chip.recordAt 65535 0 = some r ∧ (reply s).mask &&& ~~~r.lmask = 0 ∧
          (s.chip.block (s.recordBlock r)).status = .running) ∧ s.chip.recs ≠ []) ∧
    (∀ s ∈ [replied 0 0 15 0, replied 0 1 15 512], (reply s).action ≤ 1 ∧ (reply s).sgpc = true ∧ (reply s).nochk = true ∧
      (reply s).mask.lanes = [0, 1, 2, 3] ∧
      ∀ l ∈ [0, 1, 2, 3], (s.thread 3 l).live = true ∧ (s.thread 3 l).parkedOn 7 = true ∧
        ((reply s).action = 1 → s.chip.landAt 3 (s.thread 3 l).tolune (reply s).pc = true)) ∧
    ((reply (replied 0 2 15 0)).action = 2 ∧ (replied 0 2 15 0).faultJob (trapRec 0 (some 0)) = none ∧
      (Sparse.find (replied 0 2 15 0).chip.launches ((replied 0 2 15 0).warp 3).launch).isSome) ∧
    (∀ a ∈ [3, 4], (reply (faulted a)).action = a ∧ ((faulted a).faultJob (trapRec 9 (some 0))).map (·.1) = some 9 ∧
      ((faulted a).job 9).isSome) := by decide +kernel

/-- A request not yet written, and a reply to one: new registers for lane 0. -/
def requesting : State := inContext (fun x => { x with rings := [(3, ⟨64, 3, 0, 5, 1⟩)] }) (calling none false base)
def answered (action : Nat) : State :=
  hosting 4096 (bytesOfNum 4 0 ++ bytesOfNum 4 action ++ bytesOfNum 8 1 ++ bytesOfNum 16 0 ++ bytesOfNum 32 (2 ^ 256 - 1))
    (inContext (fun x => { x with rings := [(4, ⟨4096, 1, 0, 2, 0⟩)] }) (calling (some 0) false base))

theorem witness_services :
    (let s := requesting;
      (s.chip.services.find? (fun x => x.seq.isNone && x.context == 65535 &&
        ((s.warp x.warp).offCore || (s.warp x.warp).quiet false) && !((s.warp x.warp).liveMask &&& x.lanes == 0))).map Service.num = some 7 ∧
        s.ring 65535 3 = some ⟨64, 3, 0, 5, 1⟩ ∧ s.slipwayFenced = false ∧
        (5 + 2 ^ 32 - 1) % 2 ^ 32 + (64 + 40 * (((15 : Mask) &&& (s.warp 3).liveMask).lanes).length + 63) / 64 ≤ 2 ^ 3) ∧
    (∀ a ∈ [0, 2], let s := answered a;
      let bs := (List.range ((1 : Mask).lanes.length + 1)).flatMap fun i => s.hostRead (s.asid 65535) (4096 + (0 + i) % 2 ^ 1 * 32) 32;
      s.ring 65535 4 = some ⟨4096, 1, 0, 2, 0⟩ ∧ s.slipwayFenced = false ∧ (1 : Mask).lanes.length + 1 ≤ (2 + 2 ^ 32 - 0) % 2 ^ 32 ∧
        (1 : Mask) = BitVec.ofNat 64 (field bs 8 8) ∧ field bs 5 3 = 0 ∧ field bs 16 16 = 0 ∧ field bs 4 1 = a ∧
        (s.chip.services.find? fun x => x.seq == some (field bs 0 4) && !x.replied && x.context == 65535).map Service.lanes = some 15 ∧
        (1 : Mask) &&& ~~~15 = 0 ∧ (Sparse.find s.chip.warps 3).isSome ∧ (Sparse.find s.chip.launches (s.warp 3).launch).isSome) ∧
    ∀ kind < 5, ∃ v, v = 65535 * 2 ^ 48 + kind * 2 ^ 32 + (2 ^ 32 - 1) ∧
      (inContext (fun x => { x with rings := [(kind, ⟨64, 3, 0, 5, 1⟩)] }) base).ring 65535 kind = some ⟨64, 3, 0, 5, 1⟩ := by
  refine ⟨by decide +kernel, by decide +kernel, fun kind _ => ⟨_, rfl, ?_⟩⟩
  revert kind; decide +kernel

/-! ## Witnesses: commands -/

theorem commanded_of {s : State} {code ctx : Nat} {bs : List Byte}
    (k : (s.commandEntry == some bs && field bs 0 1 == code && field bs 2 2 == ctx && !badArgs bs (argumentsOf code) &&
      (!deviceCommand code || ctx == 0) && (code == 21 || (s.chip.context ctx).defined)) = true) : Commanded s code ctx bs := by
  simp only [Bool.and_eq_true, Bool.or_eq_true, beq_iff_eq, Bool.not_eq_true'] at k
  obtain ⟨⟨⟨⟨⟨h1, h2⟩, h3⟩, h4⟩, h5⟩, h6⟩ := k
  refine ⟨h1, h2, h3, h4, fun h => ?_, h6⟩
  rcases h5 with h | h
  · simp_all
  · exact h

/-- Command 0 of the ring, with its arguments as one number. -/
def commanding (code ctx args : Nat) (s : State) : State :=
  let s := hosting 4096 (bytesOfNum 1 code ++ [0] ++ bytesOfNum 2 ctx ++ bytesOfNum 4 0 ++ bytesOfNum 40 args) s
  { s with regBlock := { s.regBlock with ready := true, cbase := 4096, csize := 1, ctail := 1 } }
def arg (o v : Nat) : Nat := v * 256 ^ (o - 8)
def entryOf (s : State) : List Byte := (s.commandEntry).getD []
/-- Two contexts with tables: 0, and 65535 with a quota of two pages. -/
def rooted : State :=
  (inContext (fun x => { x with quota := 2 }) (paged base)).onChip fun c => c.modContext 0 fun x => { x with root := 4096, rooted := true }

theorem witness_commands :
    (∀ x ∈ [(1, 65535, arg 8 1 + arg 16 4096 + arg 24 (4096 + 31 * 2 ^ 32)), (2, 65535, 0), (3, 65535, arg 16 8192), (6, 65535, arg 8 8192 + arg 16 5),
        (4, 65535, arg 8 256 + arg 16 64 + arg 24 16 + arg 32 8), (4, 65535, arg 8 5),
        (5, 0, arg 8 (63 + 3 * 256 + 65536) + arg 12 65535 + arg 16 64 + arg 24 16 + arg 32 8), (7, 65535, arg 8 65536 + arg 16 65536),
        (8, 65535, arg 8 65536 + arg 16 65536), (9, 65535, 0), (10, 65535, 0), (21, 5, arg 16 1), (22, 5, 0), (23, 65535, arg 8 3)],
      let s := if x.1 = 22 then rooted.setContext 5 fun _ => { Context.blank with defined := true } else rooted
      Commanded (commanding x.1 x.2.1 x.2.2 s) x.1 x.2.1 (entryOf (commanding x.1 x.2.1 x.2.2 s))) ∧
    (∀ x ∈ [(Instr.contextResume, 10, 65535, arg 8 1), (.contextResume, 10, 7, 0), (.slotReset, 11, 65535, 0)],
      let s := commanding x.2.1 x.2.2.1 x.2.2.2 rooted
      let bs := entryOf s
      commandOf x.1 = some x.2.1 ∧ s.commandEntry = some bs ∧ field bs 0 1 = x.2.1 ∧
        (badArgs bs (argumentsOf x.2.1) = true ∨ (deviceCommand x.2.1 = true ∧ field bs 2 2 ≠ 0) ∨
          (x.2.1 ≠ 21 ∧ (s.chip.context (field bs 2 2)).defined = false))) ∧
    (let s := commanding 10 65535 0 rooted; s.commandAddr + 0x40 ≤ 2 ^ 64 ∧ s.regBlock.cidx + 4 ≤ 2 ^ 64 ∧
      s.regBlock.cidx + 4 ≤ s.commandAddr + 0x38) := by
  refine ⟨fun x hx => commanded_of ?_, by decide +kernel, by decide +kernel⟩
  revert x; decide +kernel

theorem witness_windows_and_rings :
    (let s := commanding 1 65535 (arg 8 1 + arg 16 4096 + arg 24 (4096 + 31 * 2 ^ 32)) rooted; let bs := entryOf s;
      let x := s.chip.context 65535; let hi := field bs 24 8; let base := field bs 16 8; let size := hi % 2 ^ 32;
      field bs 8 1 ≤ 13 ∧ (x.window (field bs 8 1)).state = .closed ∧ base % 4096 = 0 ∧ base < 2 ^ 30 ∧ hi / 2 ^ 44 = 0 ∧
        hi / 2 ^ 37 % 4 = 0 ∧ size % 4096 = 0 ∧ size ≠ 0 ∧ size ≤ 2 ^ 28 ∧ base / 2 ^ 28 = (base + size - 1) / 2 ^ 28 ∧
        x.held + (if hi.testBit 41 then 2 * size else size) ≤ 4096 * x.quota ∧
        (s.chip.contexts.any fun e => e.1 != 65535 && e.2.windows.any fun w => w.2.state != .closed &&
          overlap base size w.2.base w.2.size) = false) ∧
    (let s := commanding 2 65535 0 rooted; let bs := entryOf s;
      field bs 8 1 ≤ 13 ∧ ((s.chip.context 65535).window (field bs 8 1)).state = .opened) ∧
    (let bs := entryOf (commanding 3 65535 (arg 16 8192) rooted); field bs 8 1 ≤ 13 ∧ field bs 16 8 % 16 = 0) ∧
    (let s := commanding 4 65535 (arg 8 256 + arg 16 64 + arg 24 16 + arg 32 8) rooted; let bs := entryOf s;
      field bs 8 1 ≤ 5 ∧ (s.chip.context 65535).rooted = true ∧ field bs 9 1 = 1 ∧ s.outbox = [] ∧ field bs 16 8 % 64 = 0 ∧
        field bs 24 1 ≤ 16 ∧ field bs 32 8 % 8 = 0) ∧
    (let bs := entryOf (commanding 4 65535 (arg 8 5) rooted); field bs 8 1 ≤ 5 ∧ field bs 9 1 = 0) ∧
    (let s := commanding 5 0 (arg 8 (63 + 3 * 256 + 65536) + arg 12 65535 + arg 16 64 + arg 24 16 + arg 32 8) rooted; let bs := entryOf s;
      (s.chip.context 0).rooted = true ∧ field bs 10 1 = 1 ∧ (s.chip.context (field bs 12 2)).defined = true ∧ field bs 16 8 % 64 = 0 ∧
        field bs 24 1 ≤ 16 ∧ field bs 32 8 % 8 = 0) := by decide +kernel

/-- No window meets the system area, wherever an implementation puts it, unless their bytes meet. -/
theorem witness_window_free (h : overlap 4096 4096 Config.systemArea.1 Config.systemArea.2 = false) :
    rooted.chip.occupied 65535 (windowFrom 4096 (4096 + 31 * 2 ^ 32)) = false := by
  unfold Chip.occupied
  rw [Bool.or_eq_false_iff]
  exact ⟨h, by decide +kernel⟩

theorem witness_contexts :
    (let bs := entryOf (commanding 6 65535 (arg 8 8192 + arg 16 5) rooted); field bs 8 6 % 4096 = 0) ∧
    (let s := commanding 7 65535 (arg 8 65536 + arg 16 65536) rooted; let bs := entryOf s;
      field bs 8 8 % 65536 = 0 ∧ field bs 16 8 % 65536 = 0 ∧ s.chip.jobs = []) ∧
    (let bs := entryOf (commanding 8 65535 (arg 8 65536 + arg 16 65536) rooted);
      field bs 8 6 % 65536 = 0 ∧ field bs 16 8 % 65536 = 0 ∧ field bs 8 6 + field bs 16 8 ≤ 0x3000000000) ∧
    (let s := inBlock (fun b => { b with status := .preempted }) (inContext (fun x => { x with suspended := true }) rooted);
      (s.chip.context 65535).suspended = true ∧ (∀ e ∈ s.chip.blocks, e.2.context = 65535 → e.2.status = .preempted) ∧
        (s.chip.blocks.map (·.1)).Nodup) ∧
    (let s := rooted.onChip fun c => { c with blocks := [] };
      (s.chip.context 65535).suspended = false ∧ ∀ e ∈ s.chip.blocks, e.2.context ≠ 65535) ∧
    (let s := commanding 21 5 (arg 16 1) rooted; let bs := entryOf s;
      (s.chip.context 5).held ≤ 4096 * field bs 8 4 ∧ 4096 * field bs 8 4 = 0 ∧
        (((s.chip.contexts.filter fun e => decide (e.1 ≠ 0 ∧ e.1 ≠ 5 ∧ e.2.defined = true)).map fun e => 4096 * e.2.quota).sum = 8192)) ∧
    (∀ e ∈ rooted.chip.launches, e.2.context ≠ 5) := by decide +kernel

/-- A patch image with nothing but its header, and any signature, at main-memory address 0x8000. -/
def imageState : State :=
  let s := posted 1 0 1
  let s := s.onChip fun c => c.modContext 0 fun x => { x with root := 4096, rooted := true }
  { hosting 0 (bytesOfNum 8 0x8000) s with main := s.main.store 0x8000 ([0, 1, 0, 0, 0, 0, 0, 0, 1]) false }

theorem imageCheck_ok {s : State} {r : LaunchRecord} {hd bs : List Byte} (h0 : r.ctx = 0) (h1 : s.systemBytes r.hdr 0x240 = some hd)
    (h2 : (imageOf hd).badLength = false) (h3 : s.systemBytes r.hdr ((imageOf hd).signed + signatureBytes) = some bs)
    (h4 : s.imageKeys.contains (imageOf hd).key = true)
    (h5 : imageSigned (imageOf hd).key (bs.take (imageOf hd).signed) (bs.drop (imageOf hd).signed) = true)
    (h6 : ¬ (imageOf hd).serial ≤ (s.chip.bankOf s.chip.bank).serial)
    (h7 : ((imageOf hd).bad || (imageOf hd).slots.any slotReserved || (imageOf hd).slots.any (badSlot (imageOf hd).clen)) = false) :
    s.imageCheck r = .ok (imageOf hd, bs.take (imageOf hd).signed) := by
  simpa [State.imageCheck, h0, h1, h2, h3, h5, h6, h7] using h4

theorem witness_activations :
    (let s := imageState; (s.headRecord 0).isSome ∧ s.queueFree 0 = true ∧ (headOf s).kind = 1 ∧ s.activation = none ∧
      s.badRecord 0 (headOf s) = false ∧ (headOf s).waits = [] ∧ s.waitsMet 0 (headOf s) = true ∧
      (headOf s).ctx = 0 ∧ (headOf s).hdr = 0x8000) ∧
    ((∀ live ∈ [true, false], let s := inWarp (fun wp => { wp with runs := [] }) { base with activation := some ⟨0, 0, live, 1, 0, false⟩ };
      s.activation = some ⟨0, 0, live, 1, 0, false⟩ ∧ s.outbox = [] ∧ ∀ e ∈ s.chip.warps, ∀ r ∈ e.2.runs, r.2.bank = 1)) := by decide +kernel

theorem witness_ring_room : ¬ base.ringRoom 0 ∧
    (base.onChip fun c => c.modContext 0 fun x => { x with rings := [(2, ⟨64, 0, 0, 7, 7⟩)] }).ringRoom 0 :=
  ⟨fun ⟨_, _, hg, _⟩ => absurd hg (by rw [show base.ring 0 2 = none by decide +kernel]; nofun),
    by decide +kernel, ⟨64, 0, 0, 7, 7⟩, by decide +kernel, by decide +kernel⟩

/-- The image passes when its signature is good, which no one can say of a signature the model leaves open. -/
theorem witness_image :
    let s := imageState
    let hd := (s.systemBytes 0x8000 0x240).getD []
    let bs := (s.systemBytes 0x8000 (0x240 + 2820)).getD []
    s.chip.bankFree (1 - s.chip.bank) = true ∧
    (imageSigned 0 (bs.take 0x240) (bs.drop 0x240) = true →
      s.imageCheck (headOf s) = .ok (imageOf hd, bs.take 0x240)) := by
  intro s hd bs
  have e : s.systemBytes 0x8000 0x240 = some hd ∧ s.systemBytes 0x8000 (0x240 + 2820) = some bs := by
    have some_getD {x : Option (List Byte)} (h : x.isSome = true) : x = some (x.getD []) := by cases x <;> simp_all
    exact ⟨some_getD (by decide +kernel), some_getD (by decide +kernel)⟩
  have k : (headOf s).ctx = 0 ∧ (headOf s).hdr = 0x8000 := by decide +kernel
  have f : ((imageOf hd).badLength = false ∧ (imageOf hd).signed = 0x240 ∧ (imageOf hd).key = 0 ∧
      ¬ (imageOf hd).serial ≤ (s.chip.bankOf s.chip.bank).serial) ∧ s.imageKeys.contains 0 = true ∧
      ((imageOf hd).bad || (imageOf hd).slots.any slotReserved || (imageOf hd).slots.any (badSlot (imageOf hd).clen)) = false := by
    decide +kernel
  refine ⟨by decide +kernel, fun h => ?_⟩
  have := imageCheck_ok (s := s) (r := headOf s) (hd := hd) (bs := bs) k.1 (k.2 ▸ e.1) f.1.1 (by rw [k.2, f.1.2.1]; exact e.2)
    (by rw [f.1.2.2.1]; exact f.2.1) (by rw [f.1.2.1, f.1.2.2.1]; exact h) f.1.2.2.2 f.2.2
  rwa [f.1.2.1] at this

def traced (args : Nat) : State := commanding 17 65535 args rooted
def warpStopped : Nat := arg 8 1
def running (runs : Bool) : State := commanding 19 65535 warpStopped (if runs then rooted else inWarp (fun wp => { wp with runs := [] }) rooted)

theorem witness_device :
    (∀ x ∈ [(11, 0, arg 8 (191 + 256 * 15), base), (12, 65535, arg 8 64, base), (13, 0, arg 8 8192 + arg 16 2820, base), (14, 0, arg 16 8192, base),
        (15, 65535, arg 8 256 + arg 12 4 + arg 16 512, base), (16, 65535, arg 8 4088 + arg 12 2 + arg 16 8192, base),
        (17, 65535, arg 8 7 + arg 12 7 + arg 24 3, base),
        (17, 65535, arg 8 7 + arg 12 23 + arg 16 4088 + arg 20 8 + arg 24 3, base),
        (18, 65535, arg 8 (191 + 256 * 2 + 1024 * 3 + 0xE000) + arg 24 15, base), (19, 65535, warpStopped, base),
        (20, 65535, arg 8 1 + arg 12 9, rooted), (20, 65535, arg 8 257 + arg 12 9, rooted)],
      Commanded (commanding x.1 x.2.1 x.2.2.1 x.2.2.2) x.1 x.2.1 (entryOf (commanding x.1 x.2.1 x.2.2.1 x.2.2.2))) ∧
    (let bs := entryOf (commanding 11 0 (arg 8 (191 + 256 * 15)) base); field bs 8 1 ≤ 191 ∧ field bs 9 1 < 16) ∧
    (let bs := entryOf (commanding 12 65535 (arg 8 64) base); field bs 8 8 % 64 = 0) ∧
    (let s := commanding 13 0 (arg 8 8192 + arg 16 2820) base; let bs := entryOf s; 2820 ≤ field bs 16 8 ∧ ∀ k ∈ [0, 1], k ∉ s.revoked) ∧
    (base.leaf < 1024 ∧ 0 < base.leafBlocks) ∧
    (let s := commanding 16 65535 (arg 8 4088 + arg 12 2 + arg 16 8192) base; let bs := entryOf s;
      let a : Word := BitVec.ofNat 32 (field bs 8 4); let v := (s.chip.context 65535).window (windowOf a);
      a.toNat % 4 = 0 ∧ windowOf a < 14 ∧ v.state ≠ .closed ∧ offsetOf a + 4 * field bs 12 4 ≤ v.size) ∧
    (let bs := entryOf (traced (arg 8 7 + arg 12 7 + arg 24 3)); field bs 12 1 < 8) ∧
    (let s := traced (arg 8 7 + arg 12 23 + arg 16 4088 + arg 20 8 + arg 24 3); let bs := entryOf s;
      16 ≤ field bs 12 1 ∧ field bs 12 1 < 24 ∧ field bs 16 4 % 8 = 0 ∧ field bs 20 4 % 8 = 0 ∧ field bs 20 4 ≠ 0 ∧
        field bs 16 4 / 2 ^ 28 < 14 ∧ field bs 16 4 % 2 ^ 28 + field bs 20 4 ≤ ((s.chip.context 65535).window (field bs 16 4 / 2 ^ 28)).size) ∧
    (let bs := entryOf (commanding 18 65535 (arg 8 (191 + 256 * 2 + 1024 * 3 + 0xE000) + arg 24 15) base); let f := field bs 8 2;
      f % 256 ≤ 191 ∧ f / 256 % 4 ≤ 2 ∧ (f / 256 % 4 ≠ 0 → f / 1024 % 8 < 4)) ∧
    (∀ runs ∈ [true, false], let s := running runs; let bs := entryOf s;
      (s.chip.warps.find? (fun e => e.2.context == 65535 && !e.2.offCore &&
        (s.chip.launch e.2.launch).ident.toNat == field bs 8 4 && e.2.threads.any fun t =>
          t.2.status != .vacant && t.2.wid == BitVec.ofNat 64 (field bs 16 8))).map (fun e => (e.1, e.2.runs.isEmpty, e.2.stopAll)) =
        some (3, !runs, false)) ∧
    (let s := commanding 20 65535 (arg 8 1 + arg 12 9) rooted; let bs := entryOf s;
      (s.towline (field bs 8 1)).trained = true ∧ (s.towline (field bs 8 1)).fenced = false ∧ s.chip.choices = []) := by
  refine ⟨fun x hx => commanded_of ?_, by decide +kernel⟩
  revert x; decide +kernel

theorem witness_package :
    (base.slipwayFenced = false ∧ ((posted 0 65535 1).queue 0).defined = true ∧ (63 : Nat) < 64 ∧ 2 ^ 64 - 64 < 2 ^ 64 ∧ (2 ^ 64 - 64) % 64 = 0 ∧
      base.regBlock.written.getLsbD 3 = false ∧ (0x238 ≤ 0x238 ∨ (0x238 : Nat) = 0x210)) ∧
    (4000 ≤ 4000 ∧ 4000 % 100 = 0 ∧ State.reset.regBlock.ready = false ∧ State.reset.powered = true ∧
      ({ State.reset with powered := false } : State).powered = false ∧ State.reset.leafBlocks < 1024) := by decide +kernel

/-! ## Witnesses: clauses of several events -/

/-- An element of a store stream at the head of the queue; a card whose destination lies in the closed window 2. -/
theorem witness_other_stores :
    ((stored .element 4092 [1, 2, 3, 4]).warp 3).storeQ.map Store.kind = [.element, .plain] ∧
    (let s := inLanes (fun _ t => { t with jc1 := 0x20000000 }) (carded 0 0x0008000100000000 15);
      let c := s.chip.modWarp 3 fun wp => { wp with storeQ := wp.storeQ.drop 1 };
      (s.thread 3 0).status = .live ∧ (s.thread 3 0).jcw = 15 ∧ cardFault c (c.cardOf 3 0 4 0 0) = none ∧
        (footprintFault c (c.cardOf 3 0 4 0 0)).isSome ∧ (Sparse.find s.chip.blocks (s.warp 3).block).isSome) := by decide +kernel

/-- A complete collective whose lanes stand in no run, and one with lanes still in the run. -/
theorem witness_delivered :
    (((idle 256).warp 3).inRun &&& 15 = 0 ∧ ((base.warp 3).inRun &&& 15) = 15) ∧
      ((idle 256).thread 3 0).status = .live := by decide +kernel

/-- The job of the `rqt` at the head of the queue; a failed check of a narrow product. -/
theorem witness_matrix_jobs :
    (let s := flying { rqtJob with kind := .rqt 63 512 1024 none } (queued (.rqt 4 5 6 0) .nothing);
      ((s.chip.crucible 0).queue.map MatrixEntry.num = [9]) ∧
        (Sparse.find s.chip.jobs 9).map Job.kind = some (.rqt 63 512 1024 none)) ∧
    (((multiplying (.mma 7 16 4 0) 0x10011 0).onChip fun c => { c with inject := some 1 }).chip.inject = some 1 ∧
      (15 : Mask) &&& (base.warp 3).liveMask = 15) := by decide +kernel

/-- A job held back by nothing but its fenced channel; one at a peer whose source or destination faults. -/
theorem witness_stopped_jobs :
    (let j := job 0 64 0 0 .waiting; let s := (flying j base).onChip fun c => { c with fencedChannels := [j.unit * 16 + j.chan] };
      s.chip.onDie j = true ∧ s.chip.jobFree 9 j = true ∧ s.chip.channelHeld 9 j = false ∧
        s.chip.fencedChannels.contains (j.unit * 16 + j.chan) = true ∧
        s.outbox = [] ∧ (Sparse.find s.chip.blocks j.block).isSome) ∧
    ((sideSpace toPeer.jc0 = 3 ∨ sideSpace toPeer.jc1 = 3) ∧ toPeer.status = .running ∧ toPeer.cursor < toPeer.size) ∧
    (let s := cachedPage (paged (flying toMain base));
      (s.tlb.filter fun x => decide (x.cache = toMain.unit)).length < 4096 ∧
        (s.tlb.filter fun x => decide (x.cache = 24 + toMain.die)).length < 65536) := by decide +kernel

theorem witness_job_rings : ¬ base.ringRoom toMain.context ∧
    (inContext (fun x => { x with rings := [(2, ⟨64, 0, 0, 7, 7⟩)] }) base).ringRoom toMain.context :=
  ⟨fun ⟨_, _, hg, _⟩ => absurd hg (by rw [show base.ring toMain.context 2 = none by decide +kernel]; nofun),
    by decide +kernel, ⟨64, 0, 0, 7, 7⟩, by decide +kernel, by decide +kernel⟩

/-- A reduce-add of two elements into main memory. -/
theorem witness_reduce_add :
    let j := job 0 0x1000000000000008 2 0 .running
    let s := cachedPage (paged (flying j base))
    j.op = 2 ∧ s.movable j ≠ 0 ∧ s.unmapped j (s.movable j) = none ∧ (s.sourceBytes j (s.movable j)).length % 4 = 0 ∧
      s.poisonBound j (s.sourceBytes j (s.movable j)) = false ∧ s.unshadowed j (s.movable j) = [] ∧
      ((List.range 8).map fun k => s.physical j (j.dstAddr (j.cursor + k)) (j.op == 2) true).Nodup := by decide +kernel

/-- A ring's error in a launch that still replays. -/
theorem witness_ring_replay :
    let s := inLaunch (fun x => { x with replayable := true }) base
    (s.chip.block 2).status = .running ∧ (s.chip.block 2).fenced = false ∧ (s.chip.block 2).rings ≠ [] ∧
      (Sparse.find s.chip.launches (s.chip.block 2).launch).isSome ∧ (s.chip.launch (s.chip.block 2).launch).replayable = true ∧
      (s.chip.launch (s.chip.block 2).launch).status = .running ∧ (s.chip.launch (s.chip.block 2).launch).replays < 3 := by decide +kernel

/-- The new launch stands in a queue of higher priority, and wants the counters that the placed block holds; then the cores
of its only cluster are fenced. -/
def crowded : State :=
  let s := accepted
  { (s.onChip fun c => c.modLaunch 9 fun x => { x with queue := 1, header := { x.header with ndc := 64 } }) with
    queues := s.queues ++ [(1, { LaunchQueue.blank with defined := true, owner := 65535, prio := 1 })] }
def deadDie : State := crowded.onChip fun c => { c with cores := (List.range 8).map fun k => (k, { Core.fresh with fenced := true }) }

theorem witness_no_room :
    (∀ s ∈ [crowded, deadDie], s.regBlock.ready = true ∧ s.bindOrder 0 = [(1, .next 9)] ∧ Sparse.find s.chip.blocks 9 = none ∧
      s.fit 9 0 (s.chip.launch 9).header (s.chip.launch 9).header.placings = none ∧ (s.chip.launch 9).stuck = false ∧
      (Sparse.find s.chip.launches 9).isSome) ∧
    (crowded.dieDead 0 (crowded.chip.launch 9).header = false ∧ (∀ e ∈ crowded.chip.blocks, e.2.die = 0 → e.2.status ≠ .stopping) ∧
      (crowded.chip.blocks.map (·.1)).Nodup ∧
      crowded.eviction 9 0 (crowded.queue 1).prio (crowded.chip.launch 9).header (crowded.chip.launch 9).header.placings = some [2]) ∧
    deadDie.dieDead 0 (deadDie.chip.launch 9).header = true := by decide +kernel

/-- A replayable launch's block; a Crucible's acknowledgement with a requantising job it has begun, and the last
acknowledgement of a block that is aborted. -/
theorem witness_stop_acks :
    (((inLaunch (fun x => { x with header := { x.header with replay := true } }) (drained 2)).chip.launch 1).header.replay = true) ∧
    (let s := stopping [(1, 0)] (flying rqtJob (inWarp (fun wp => { wp with runs := [] }) base));
      (s.chip.block 2).status = .stopping ∧ (1, 0) ∈ (s.chip.block 2).owed ∧ (s.chip.stopEngine 2 1 0).isSome ∧
        (s.chip.rqtAt 2).map (·.1) = [9]) ∧
    (let s := inBlock (fun b => { b with aborting := true }) (stopping [(5, 3)] base);
      (s.chip.block 2).aborting = true ∧ (s.chip.stopEngine 2 5 3).isSome ∧
        ((s.chip.block 2).owed.filter fun o => o ≠ (5, 3)) = []) := by decide +kernel

/-- A replied call of a warp that is off its core, and of one that has not left it. -/
theorem witness_rebinds : ∀ off ∈ [true, false],
    let s := inWarp (fun wp => { wp with offCore := off }) (calling (some 0) true base)
    ((s.chip.services.filter fun x => s.chip.serviceOver x && x.context == 65535 && !(s.chip.services.any (s.chip.unposted x.warp)) &&
      (s.chip.block (s.warp x.warp).block).status == .running).map Service.num) = [7] ∧ (Sparse.find s.chip.warps 3).isSome ∧
      (s.warp 3).offCore = off ∧
      (off = true → ((if 32 ≤ (s.warp 3).draw then [(s.warp 3).core]
        else (List.range 8).map fun i => 8 * (6 * (s.chip.block (s.warp 3).block).die + (s.chip.block (s.warp 3).block).cluster) + i).findSome?
          fun core => s.seatOn [] (s.warp 3).block [] ⟨3, (s.warp 3).lanes, (s.warp 3).alloc, (s.warp 3).draw⟩ core).isSome = true) := by
  decide +kernel

/-- A reply for a block that is off its die; a reply to a service whose warp has gone. -/
theorem witness_held_replies :
    (∀ s ∈ [replied 0 0 15 0, replied 0 1 15 512], let t := inBlock (fun b => { b with status := .preempted }) s;
      t.ring 65535 1 = some ⟨4096, 2, 0, 0, 2 ^ 32 - 1⟩ ∧
        ∀ r ∈ t.chip.recs, t.chip.recordAt 65535 0 = some r ∧ r.event ≠ 9 ∧ (t.chip.block (t.recordBlock r)).status = .preempted) ∧
    (let s := (answered 0).onChip fun c => { c with warps := [] };
      let bs := (List.range 2).flatMap fun i => s.hostRead (s.asid 65535) (4096 + (0 + i) % 2 ^ 1 * 32) 32;
      s.ring 65535 4 = some ⟨4096, 1, 0, 2, 0⟩ ∧ field bs 4 1 = 0 ∧ Sparse.find s.chip.warps 3 = none ∧
        (s.chip.services.find? fun x => x.seq == some (field bs 0 4) && !x.replied && x.context == 65535).map Service.warp = some 3) := by
  decide +kernel

/-- A context with a running block; a quote that begins a new block of leaves; a link that no chunk of the context uses. -/
theorem witness_more_commands :
    (let s := commanding 9 65535 0 rooted; (s.chip.context 65535).suspended = false ∧ (s.chip.blocks.map (·.1)).Nodup ∧
      (s.chip.blocks.map fun e => (e.2.context, e.2.status)) = [(65535, .running)]) ∧
    (let s := { base with leaf := 1024 }; 1024 ≤ s.leaf ∧ s.leafBlocks < 1024) ∧
    (∀ e ∈ rooted.chip.jobs, e.2.context = 65535 → e.2.status = .peer → 1 ∉ e.2.links) ∧
    (let s := running false; (s.warp 3).runs = [] ∧ (s.chip.haltGroups (s.warp 3)).length = 1) := by decide +kernel

/-! ## Witnesses: more clauses -/

theorem issues_append {s : State} {as bs : List Instr} (h : Issues s as) (k : Issues s bs) : Issues s (as ++ bs) := by
  intro i hi
  exact (List.mem_append.mp hi).elim (h i) (k i)

/-- Lane 3 holds poison in `g4` and `g5`: words whose poisoned base or count kills, and words that perform the stores first. -/
def taintedPair : State := inLanes (fun l t => (t.setCell 4 ⟨256, l == 3⟩).setCell 5 ⟨256, l == 3⟩) landing

theorem witness_more_poison :
    let is : List Instr := [.aadd 8 4 0 0 1 0, .afxa 8 4 0 0 1 0, .afxz 8 4 10 3 0, .tinit 4 8 0, .tgrab 8 4 0, .ldo 8 4 10 3 1 0,
      .bara 4 0 0, .dwait 63 4 0]
    (∀ i ∈ is, Ready taintedPair 3 0 i ∧ Plain taintedPair 3 i) ∧ Unclaimed taintedPair 3 0 ∧
      is.map poisonKills =
        [5, 5, 5, 5, 5, 5, 6, 6].map (fun cause => some ([(4 : Reg)], cause)) ∧
      (63 : Reg).toNat < (taintedPair.chip.block (taintedPair.warp 3).block).ndc ∧
      (taintedPair.chip.drain 3).lanesOf 3 0 = [0, 1, 2, 3] := by
  unfold Ready Plain Unclaimed
  exact ⟨by decide +kernel, by decide +kernel, by decide +kernel, by decide +kernel, by decide +kernel⟩

/-- A link, an argument of a service, a value for a staging register, and a voted register that lane 3 holds as poison. -/
def taintedLink : State := inLanes (fun l t => (t.setCell 8 ⟨256, l == 3⟩).setCell 9 ⟨1, false⟩) called
def taintedCard : State := inLanes (fun l t => (t.setCell 4 ⟨0xFF000000, false⟩).setCell 8 ⟨0, l == 3⟩) base
def taintedVote : State := inLanes (fun l t => t.setCell 5 ⟨512, l == 3⟩) (matrix 0x10011)

theorem witness_poisoned_uses :
    (Issues taintedLink [.ret 0, .svc 0 0] ∧ Unclaimed taintedLink 3 0 ∧ UsesAllowed taintedLink 3 0 (.ret 0) ∧
      UsesAllowed taintedLink 3 0 (.svc 0 0) ∧ ((taintedLink.warp 3).read (taintedLink.run 3 0) (taintedLink.thread 3 3) 0).p = true) ∧
    (Issues taintedCard [.std 8 4 0 0] ∧ Unclaimed taintedCard 3 0 ∧ Clean taintedCard 3 0 [4] ∧ (storeForm (.std 8 4 0 0)).isSome ∧
      (laneAccess (taintedCard.warp 3) (taintedCard.run 3 0) (taintedCard.thread 3 3) (.std 8 4 0 0)).any (fun x =>
        stagingStore x.1 8 && (taintedCard.chip.check 3 .store false true x.1 8).isNone) = true ∧
      (dataOf (taintedCard.warp 3) (taintedCard.run 3 0) (taintedCard.thread 3 3) 8 8).2 = true) ∧
    (Issues taintedVote [.bld 7 5 4 0] ∧ Unclaimed taintedVote 3 0 ∧ votedKills (.bld 7 5 4 0) = [(5, 5), (4, 8)] ∧
      (votedKills (.bld 7 5 4 0)).find? (fun x => ((taintedVote.warp 3).read (taintedVote.run 3 0) (taintedVote.thread 3 3) x.1).p) =
        some (5, 5)) := by
  refine ⟨⟨by unfold Issues Ready Plain; decide +kernel, by unfold Unclaimed; decide +kernel, ?_, fun _ _ => trivial, by decide +kernel⟩,
    ⟨by unfold Issues Ready Plain; decide +kernel, by unfold Unclaimed; decide +kernel, by unfold Clean; decide +kernel, by decide,
      by decide +kernel, by decide +kernel⟩,
    by unfold Issues Ready Plain; decide +kernel, by unfold Unclaimed; decide +kernel, by decide, by decide +kernel⟩
  simp only [UsesAllowed]; decide +kernel

/-- A return to a target with a low bit set; `wbase` with a unit to spill, and with more than the store has; one that fills; and a
`wspl` of a unit beyond the last. -/
theorem witness_window_limits :
    (let s := withRegs [(8, 258)] called;
      Issues s [.ret 0] ∧ Unclaimed s 3 0 ∧ UsesAllowed s 3 0 (.ret 0) ∧
        ∀ l ∈ s.lanes 3 0, (s.value 3 0 l 0).toNat % 4 ≠ 0) ∧
    (∀ x ∈ [(24, 0), (280, 256)], let s := deep x.1 x.2;
      Ready s 3 0 (.wbase 0 15 0) ∧ ∀ l ∈ s.lanes 3 0, callSpills (s.warp 3) (s.thread 3 l) 15 = 1) ∧
    (let s := deep 8 8; Ready s 3 0 (.wbase 1 1 0) ∧ ∀ l ∈ s.lanes 3 0, 8 * 1 ≤ (s.thread 3 l).base) ∧
    (let s := deep 280 256; Ready s 3 0 (.wspl 1 0) ∧ ∀ l ∈ s.lanes 3 0, (s.thread 3 l).floor + 8 * 1 ≤ (s.thread 3 l).base ∧
      32 < (s.thread 3 l).floor / 8 + 1) := by
  refine ⟨⟨by unfold Issues Ready Plain; decide +kernel, by unfold Unclaimed; decide +kernel, ?_, by decide +kernel⟩,
    by unfold Ready; decide +kernel, by unfold Ready; decide +kernel, by unfold Ready; decide +kernel⟩
  simp only [UsesAllowed]; decide +kernel

/-- A poisoned word that a `spinw` reads. -/
theorem witness_spin_poison :
    let s := withRegs [(4, 256)] (base.onChip fun c => { c with scratch := { c.scratch with marks := [32] } })
    Issues s [.spinw 1 4 2 0] ∧ Unclaimed s 3 0 ∧ ∀ l ∈ s.lanes 3 0, (s.value 3 0 l 4).toNat % 4 = 0 ∧
      s.chip.check 3 .load true true (s.value 3 0 l 4) 4 = none ∧ (s.chip.loadBytes 3 (s.value 3 0 l 4) 4).2 = true := by
  unfold Issues Ready Plain Unclaimed
  exact ⟨by decide +kernel, by decide +kernel, by decide +kernel⟩

/-- A `bld` whose descriptor is poisoned, and one whose descriptor lies in the closed window 2. -/
theorem witness_failed_tiles :
    (let s := (matrix 0).onChip fun c => { c with scratch := { c.scratch with marks := [64, 65] } };
      Ready s 3 0 (.bld 7 5 0 0) ∧ Unclaimed s 3 0 ∧ vote s.chip 3 0 (.bld 7 5 0 0) = .ok ∧ tileLoadOf s.chip 3 0 5 0 = none ∧
        s.chip.readTile 3 512 0 0 false = .poisoned) ∧
    (let s := withRegs [(5, 0x20000000)] (matrix 0);
      Ready s 3 0 (.bld 7 5 0 0) ∧ Unclaimed s 3 0 ∧ vote s.chip 3 0 (.bld 7 5 0 0) = .ok ∧ tileLoadOf s.chip 3 0 5 0 = none ∧
        (match s.chip.readTile 3 0x20000000 0 0 false with | .violation _ => true | _ => false) = true) := by
  unfold Ready Unclaimed
  exact ⟨by decide +kernel, by decide +kernel⟩

/-- A call of a full ring of requests, and one whose lanes all stopped before it was posted. -/
theorem witness_service_corners :
    (let s := inContext (fun x => { x with rings := [(3, ⟨64, 3, 0, 9, 1⟩)] }) (calling none false base);
      s.ring 65535 3 = some ⟨64, 3, 0, 9, 1⟩ ∧ (9 + 2 ^ 32 - 1) % 2 ^ 32 = 2 ^ 3 ∧
        (s.chip.services.find? (fun x => x.seq.isNone && x.context == 65535 && !(s.warp x.warp).offCore &&
          (s.warp x.warp).quiet false && !((s.warp x.warp).liveMask &&& x.lanes == 0))).map Service.num = some 7) ∧
    (let s := inLanes (fun _ t => { t with status := .exited }) (calling none false base);
      (s.chip.services.map fun x => (x.replied, s.chip.serviceOver x)) = [(false, true)]) := by decide +kernel

/-- Commands that break a rule of their own: windows 1 and 2 are closed, window 0 is open, the quota is two pages. -/
theorem witness_refused_commands :
    (∀ x ∈ [(1, 65535, arg 8 14), (1, 65535, arg 8 0 + arg 16 4096 + arg 24 4096), (1, 65535, arg 8 1 + arg 16 4096 + arg 24 (3 * 4096)),
        (1, 65535, arg 8 1 + arg 16 4097 + arg 24 4096), (2, 65535, arg 8 1), (2, 65535, arg 8 15), (3, 65535, arg 16 8),
        (4, 65535, arg 8 7), (4, 65535, arg 8 256 + arg 16 1), (5, 0, arg 8 65536 + arg 12 9), (5, 0, arg 8 63), (6, 65535, arg 8 1),
        (7, 65535, arg 16 1), (8, 65535, arg 16 65537), (21, 0, 0), (21, 5, arg 8 (2 ^ 32 - 1)), (22, 0, 0), (11, 0, arg 8 192),
        (12, 65535, arg 8 8), (13, 0, arg 16 2819), (16, 65535, arg 8 2), (20, 65535, arg 8 7)],
      let s := commanding x.1 x.2.1 x.2.2 rooted
      Commanded s x.1 x.2.1 (entryOf s)) ∧
    (let s := commanding 1 65535 (arg 8 0 + arg 16 4096 + arg 24 4096) rooted; let bs := entryOf s;
      field bs 8 1 ≤ 13 ∧ DescriptorHolds (field bs 16 8) (field bs 24 8) ∧ ((s.chip.context 65535).window (field bs 8 1)).state ≠ .closed) ∧
    (let s := commanding 1 65535 (arg 8 1 + arg 16 4096 + arg 24 (3 * 4096)) rooted; let bs := entryOf s; let x := s.chip.context 65535;
      field bs 8 1 ≤ 13 ∧ DescriptorHolds (field bs 16 8) (field bs 24 8) ∧ (x.window (field bs 8 1)).state = .closed ∧
        4096 * x.quota < x.held + (if (field bs 24 8).testBit 41 then 2 * (field bs 24 8 % 2 ^ 32) else field bs 24 8 % 2 ^ 32)) ∧
    (let bs := entryOf (commanding 1 65535 (arg 8 1 + arg 16 4097 + arg 24 4096) rooted);
      ¬ DescriptorHolds (field bs 16 8) (field bs 24 8)) ∧
    (let s := commanding 2 65535 (arg 8 1) rooted; ((s.chip.context 65535).window (field (entryOf s) 8 1)).state ≠ .opened) ∧
    (let s := commanding 5 0 (arg 8 63) rooted; let bs := entryOf s; (s.chip.context 0).rooted = true ∧ field bs 10 1 = 0) ∧
    (let s := commanding 5 0 (arg 8 65536 + arg 12 9) rooted; let bs := entryOf s;
      field bs 10 1 = 1 ∧ (s.chip.context (field bs 12 2)).defined = false) ∧
    (let bs := entryOf (commanding 21 5 (arg 8 (2 ^ 32 - 1)) rooted); supply < 4096 * field bs 8 4) ∧
    ((commanding 20 65535 (arg 8 7) rooted).towline (field (entryOf (commanding 20 65535 (arg 8 7) rooted)) 8 1)).trained = false := by
  refine ⟨fun x hx => commanded_of ?_, by decide +kernel, by decide +kernel, by decide +kernel, by decide +kernel, by decide +kernel,
    by decide +kernel, ?_, by decide +kernel⟩
  · revert x; decide +kernel
  · have : field (entryOf (commanding 21 5 (arg 8 (2 ^ 32 - 1)) rooted)) 8 4 = 2 ^ 32 - 1 := by decide +kernel
    show supply < _
    rw [this]
    unfold supply
    omega

/-! ## Decoding: a word of every native instruction, its fields written out from the opcode table, each field with a value of
its own and immediates with their top bit set -/

theorem test_words_nop_to_csel : ∀ x ∈ ([
    (0x00#8 ++ 0#21 ++ 5#3, .nop 5),
    (0x01#8 ++ 88#7 ++ 40#7 ++ 100#7 ++ 0#1 ++ 3#2, .runt 88 40 100 3),
    (0x02#8 ++ 1727292#21 ++ 0#3, .ext 1727292),
    (0x03#8 ++ 1727292#21 ++ 5#3, .bra (-369860) 5),
    (0x04#8 ++ 88#7 ++ 10843#14 ++ 5#3, .bnz 88 (-5541) 5),
    (0x05#8 ++ 88#7 ++ 10843#14 ++ 5#3, .bz 88 (-5541) 5),
    (0x06#8 ++ 88#7 ++ 10843#14 ++ 5#3, .bltz 88 (-5541) 5),
    (0x07#8 ++ 88#7 ++ 10843#14 ++ 5#3, .bgez 88 (-5541) 5),
    (0x08#8 ++ 1727292#21 ++ 5#3, .jpt (-369860) 5),
    (0x09#8 ++ 0#21 ++ 5#3, .rejoin 5),
    (0x0A#8 ++ 13#7 ++ 10843#14 ++ 5#3, .call 13 (-5541) 5),
    (0x0B#8 ++ 13#7 ++ 40#7 ++ 0#7 ++ 5#3, .callr 13 40 5),
    (0x0C#8 ++ 0#21 ++ 5#3, .ret 5),
    (0x0D#8 ++ 0#7 ++ 40#7 ++ 0#7 ++ 5#3, .jmpr 40 5),
    (0x0E#8 ++ 0#21 ++ 5#3, .land 5),
    (0x0F#8 ++ 0#21 ++ 5#3, .exit 5),
    (0x10#8 ++ 0#7 ++ 10843#14 ++ 5#3, .svc 10843 5),
    (0x11#8 ++ 0#7 ++ 10843#14 ++ 5#3, .trap 10843 5),
    (0x12#8 ++ 0#7 ++ 10843#14 ++ 5#3, .brk 10843 5),
    (0x13#8 ++ 88#7 ++ 40#7 ++ 100#7 ++ 5#3, .spinw 88 40 100 5),
    (0x14#8 ++ 1#7 ++ 0#7 ++ 77#7 ++ 5#3, .wbase 1 77 5),
    (0x15#8 ++ 88#7 ++ 40#7 ++ 0#7 ++ 5#3, .rget 88 40 5),
    (0x16#8 ++ 88#7 ++ 40#7 ++ 0#7 ++ 5#3, .rput 88 40 5),
    (0x18#8 ++ 88#7 ++ 40#7 ++ 100#7 ++ 5#3, .add 88 40 100 5),
    (0x19#8 ++ 88#7 ++ 40#7 ++ 100#7 ++ 5#3, .sub 88 40 100 5),
    (0x1A#8 ++ 88#7 ++ 40#7 ++ 100#7 ++ 5#3, .mul 88 40 100 5),
    (0x1B#8 ++ 88#7 ++ 40#7 ++ 100#7 ++ 5#3, .mulhs 88 40 100 5),
    (0x1C#8 ++ 88#7 ++ 40#7 ++ 100#7 ++ 5#3, .mulhu 88 40 100 5),
    (0x1D#8 ++ 88#7 ++ 40#7 ++ 100#7 ++ 5#3, .mad 88 40 100 5),
    (0x1E#8 ++ 88#7 ++ 40#7 ++ 100#7 ++ 5#3, .divs 88 40 100 5),
    (0x1F#8 ++ 88#7 ++ 40#7 ++ 100#7 ++ 5#3, .divu 88 40 100 5),
    (0x20#8 ++ 88#7 ++ 40#7 ++ 100#7 ++ 5#3, .rems 88 40 100 5),
    (0x21#8 ++ 88#7 ++ 40#7 ++ 100#7 ++ 5#3, .remu 88 40 100 5),
    (0x22#8 ++ 88#7 ++ 40#7 ++ 100#7 ++ 5#3, .and 88 40 100 5),
    (0x23#8 ++ 88#7 ++ 40#7 ++ 100#7 ++ 5#3, .or 88 40 100 5),
    (0x24#8 ++ 88#7 ++ 40#7 ++ 100#7 ++ 5#3, .xor 88 40 100 5),
    (0x25#8 ++ 88#7 ++ 40#7 ++ 100#7 ++ 5#3, .andn 88 40 100 5),
    (0x26#8 ++ 88#7 ++ 40#7 ++ 100#7 ++ 5#3, .shl 88 40 100 5),
    (0x27#8 ++ 88#7 ++ 40#7 ++ 100#7 ++ 5#3, .shr 88 40 100 5),
    (0x28#8 ++ 88#7 ++ 40#7 ++ 100#7 ++ 5#3, .sar 88 40 100 5),
    (0x29#8 ++ 88#7 ++ 40#7 ++ 100#7 ++ 5#3, .rol 88 40 100 5),
    (0x2A#8 ++ 88#7 ++ 40#7 ++ 100#7 ++ 5#3, .mins 88 40 100 5),
    (0x2B#8 ++ 88#7 ++ 40#7 ++ 100#7 ++ 5#3, .minu 88 40 100 5),
    (0x2C#8 ++ 88#7 ++ 40#7 ++ 100#7 ++ 5#3, .maxs 88 40 100 5),
    (0x2D#8 ++ 88#7 ++ 40#7 ++ 100#7 ++ 5#3, .maxu 88 40 100 5),
    (0x2E#8 ++ 88#7 ++ 40#7 ++ 100#7 ++ 5#3, .seq 88 40 100 5),
    (0x2F#8 ++ 88#7 ++ 40#7 ++ 100#7 ++ 5#3, .sne 88 40 100 5),
    (0x30#8 ++ 88#7 ++ 40#7 ++ 100#7 ++ 5#3, .slt 88 40 100 5),
    (0x31#8 ++ 88#7 ++ 40#7 ++ 100#7 ++ 5#3, .sltu 88 40 100 5),
    (0x32#8 ++ 88#7 ++ 40#7 ++ 100#7 ++ 5#3, .sle 88 40 100 5),
    (0x33#8 ++ 88#7 ++ 40#7 ++ 100#7 ++ 5#3, .sleu 88 40 100 5),
    (0x34#8 ++ 88#7 ++ 40#7 ++ 100#7 ++ 5#3, .csel 88 40 100 5)] : List (BitVec 32 × Instr)),
    (decodeNative x.1).toOption = some x.2 := by decide +kernel

theorem test_words_mov_to_dmin : ∀ x ∈ ([
    (0x35#8 ++ 88#7 ++ 40#7 ++ 0#7 ++ 5#3, .mov 88 40 5),
    (0x36#8 ++ 88#7 ++ 40#7 ++ 0#7 ++ 5#3, .clz 88 40 5),
    (0x37#8 ++ 88#7 ++ 40#7 ++ 0#7 ++ 5#3, .ctz 88 40 5),
    (0x38#8 ++ 88#7 ++ 40#7 ++ 0#7 ++ 5#3, .popc 88 40 5),
    (0x39#8 ++ 88#7 ++ 40#7 ++ 0#7 ++ 5#3, .brev 88 40 5),
    (0x3A#8 ++ 88#7 ++ 40#7 ++ 0#7 ++ 5#3, .abs 88 40 5),
    (0x3B#8 ++ 88#7 ++ 40#7 ++ 100#7 ++ 5#3, .bfxu 88 40 100 5),
    (0x3C#8 ++ 88#7 ++ 40#7 ++ 100#7 ++ 5#3, .bfxs 88 40 100 5),
    (0x3D#8 ++ 88#7 ++ 40#7 ++ 100#7 ++ 5#3, .bfi 88 40 100 5),
    (0x3E#8 ++ 88#7 ++ 40#7 ++ 83#7 ++ 5#3, .addi 88 40 (-45) 5),
    (0x3F#8 ++ 88#7 ++ 40#7 ++ 83#7 ++ 5#3, .andi 88 40 (-45) 5),
    (0x40#8 ++ 88#7 ++ 40#7 ++ 83#7 ++ 5#3, .ori 88 40 (-45) 5),
    (0x41#8 ++ 88#7 ++ 40#7 ++ 83#7 ++ 5#3, .xori 88 40 (-45) 5),
    (0x42#8 ++ 88#7 ++ 40#7 ++ 83#7 ++ 5#3, .shli 88 40 (-45) 5),
    (0x43#8 ++ 88#7 ++ 40#7 ++ 83#7 ++ 5#3, .shri 88 40 (-45) 5),
    (0x44#8 ++ 88#7 ++ 40#7 ++ 83#7 ++ 5#3, .sari 88 40 (-45) 5),
    (0x45#8 ++ 88#7 ++ 10843#14 ++ 5#3, .movi 88 (-5541) 5),
    (0x46#8 ++ 88#7 ++ 40#7 ++ 83#7 ++ 5#3, .slti 88 40 (-45) 5),
    (0x47#8 ++ 88#7 ++ 40#7 ++ 83#7 ++ 5#3, .seqi 88 40 (-45) 5),
    (0x48#8 ++ 88#7 ++ 40#7 ++ 100#7 ++ 5#3, .lea1 88 40 100 5),
    (0x49#8 ++ 88#7 ++ 40#7 ++ 100#7 ++ 5#3, .lea2 88 40 100 5),
    (0x4A#8 ++ 88#7 ++ 40#7 ++ 100#7 ++ 5#3, .lea4 88 40 100 5),
    (0x4B#8 ++ 88#7 ++ 40#7 ++ 100#7 ++ 5#3, .lea8 88 40 100 5),
    (0x4C#8 ++ 88#7 ++ 40#7 ++ 100#7 ++ 5#3, .add64 88 40 100 5),
    (0x4D#8 ++ 88#7 ++ 40#7 ++ 100#7 ++ 5#3, .sub64 88 40 100 5),
    (0x4E#8 ++ 88#7 ++ 40#7 ++ 100#7 ++ 5#3, .mulw 88 40 100 5),
    (0x4F#8 ++ 88#7 ++ 40#7 ++ 100#7 ++ 5#3, .sltu64 88 40 100 5),
    (0x50#8 ++ 88#7 ++ 40#7 ++ 100#7 ++ 5#3, .fadd 88 40 100 5),
    (0x51#8 ++ 88#7 ++ 40#7 ++ 100#7 ++ 5#3, .fsub 88 40 100 5),
    (0x52#8 ++ 88#7 ++ 40#7 ++ 100#7 ++ 5#3, .fmul 88 40 100 5),
    (0x53#8 ++ 88#7 ++ 40#7 ++ 100#7 ++ 5#3, .ffma 88 40 100 5),
    (0x54#8 ++ 88#7 ++ 40#7 ++ 100#7 ++ 5#3, .ffms 88 40 100 5),
    (0x55#8 ++ 88#7 ++ 40#7 ++ 100#7 ++ 5#3, .fmin 88 40 100 5),
    (0x56#8 ++ 88#7 ++ 40#7 ++ 100#7 ++ 5#3, .fmax 88 40 100 5),
    (0x57#8 ++ 88#7 ++ 40#7 ++ 100#7 ++ 5#3, .fcps 88 40 100 5),
    (0x58#8 ++ 88#7 ++ 40#7 ++ 100#7 ++ 5#3, .feq 88 40 100 5),
    (0x59#8 ++ 88#7 ++ 40#7 ++ 100#7 ++ 5#3, .flt 88 40 100 5),
    (0x5A#8 ++ 88#7 ++ 40#7 ++ 100#7 ++ 5#3, .fle 88 40 100 5),
    (0x5B#8 ++ 88#7 ++ 40#7 ++ 100#7 ++ 5#3, .funo 88 40 100 5),
    (0x5C#8 ++ 88#7 ++ 40#7 ++ 0#7 ++ 5#3, .frcp 88 40 5),
    (0x5D#8 ++ 88#7 ++ 40#7 ++ 0#7 ++ 5#3, .frsq 88 40 5),
    (0x5E#8 ++ 88#7 ++ 40#7 ++ 0#7 ++ 5#3, .fsqrt 88 40 5),
    (0x5F#8 ++ 88#7 ++ 40#7 ++ 100#7 ++ 5#3, .fdiv 88 40 100 5),
    (0x60#8 ++ 88#7 ++ 40#7 ++ 0#7 ++ 5#3, .fexp2 88 40 5),
    (0x61#8 ++ 88#7 ++ 40#7 ++ 0#7 ++ 5#3, .flog2 88 40 5),
    (0x62#8 ++ 88#7 ++ 40#7 ++ 0#7 ++ 5#3, .fsin 88 40 5),
    (0x63#8 ++ 88#7 ++ 40#7 ++ 0#7 ++ 5#3, .fcos 88 40 5),
    (0x64#8 ++ 88#7 ++ 40#7 ++ 100#7 ++ 5#3, .dadd 88 40 100 5),
    (0x65#8 ++ 88#7 ++ 40#7 ++ 100#7 ++ 5#3, .dsub 88 40 100 5),
    (0x66#8 ++ 88#7 ++ 40#7 ++ 100#7 ++ 5#3, .dmul 88 40 100 5),
    (0x67#8 ++ 88#7 ++ 40#7 ++ 100#7 ++ 5#3, .dfma 88 40 100 5),
    (0x68#8 ++ 88#7 ++ 40#7 ++ 100#7 ++ 5#3, .dmin 88 40 100 5)] : List (BitVec 32 × Instr)),
    (decodeNative x.1).toOption = some x.2 := by decide +kernel

theorem test_words_dmax_to_tgrab : ∀ x ∈ ([
    (0x69#8 ++ 88#7 ++ 40#7 ++ 100#7 ++ 5#3, .dmax 88 40 100 5),
    (0x6A#8 ++ 88#7 ++ 40#7 ++ 100#7 ++ 5#3, .deq 88 40 100 5),
    (0x6B#8 ++ 88#7 ++ 40#7 ++ 100#7 ++ 5#3, .dlt 88 40 100 5),
    (0x6C#8 ++ 88#7 ++ 40#7 ++ 100#7 ++ 5#3, .dle 88 40 100 5),
    (0x6D#8 ++ 88#7 ++ 40#7 ++ 100#7 ++ 5#3, .ddiv 88 40 100 5),
    (0x6E#8 ++ 88#7 ++ 40#7 ++ 0#7 ++ 5#3, .dsqrt 88 40 5),
    (0x6F#8 ++ 88#7 ++ 40#7 ++ 0#7 ++ 5#3, .drcp 88 40 5),
    (0x70#8 ++ 88#7 ++ 40#7 ++ 100#7 ++ 5#3, .hadd2 88 40 100 5),
    (0x71#8 ++ 88#7 ++ 40#7 ++ 100#7 ++ 5#3, .hmul2 88 40 100 5),
    (0x72#8 ++ 88#7 ++ 40#7 ++ 100#7 ++ 5#3, .hfma2 88 40 100 5),
    (0x73#8 ++ 88#7 ++ 40#7 ++ 100#7 ++ 5#3, .badd2 88 40 100 5),
    (0x74#8 ++ 88#7 ++ 40#7 ++ 100#7 ++ 5#3, .bmul2 88 40 100 5),
    (0x75#8 ++ 88#7 ++ 40#7 ++ 100#7 ++ 5#3, .bfma2 88 40 100 5),
    (0x76#8 ++ 88#7 ++ 40#7 ++ 13#7 ++ 5#3, .cvt 88 40 13 5),
    (0x77#8 ++ 88#7 ++ 40#7 ++ 13#7 ++ 5#3, .cvtz 88 40 13 5),
    (0x78#8 ++ 88#7 ++ 40#7 ++ 0#7 ++ 5#3, .fclass 88 40 5),
    (0x79#8 ++ 88#7 ++ 40#7 ++ 100#7 ++ 5#3, .fldx 88 40 100 5),
    (0x7A#8 ++ 88#7 ++ 40#7 ++ 3#7 ++ 5#3, .frnd 88 40 3 5),
    (0x7B#8 ++ 88#7 ++ 40#7 ++ 3#7 ++ 5#3, .drnd 88 40 3 5),
    (0x7C#8 ++ 88#7 ++ 40#7 ++ 100#7 ++ 5#3, .fdot2 88 40 100 5),
    (0x7D#8 ++ 88#7 ++ 40#7 ++ 100#7 ++ 5#3, .hdot2 88 40 100 5),
    (0x7E#8 ++ 88#7 ++ 40#7 ++ 100#7 ++ 5#3, .packb 88 40 100 5),
    (0x7F#8 ++ 88#7 ++ 40#7 ++ 100#7 ++ 5#3, .packh 88 40 100 5),
    (0x80#8 ++ 88#7 ++ 40#7 ++ 83#7 ++ 5#3, .ldb 88 40 (-45) 5),
    (0x81#8 ++ 88#7 ++ 40#7 ++ 83#7 ++ 5#3, .ldbs 88 40 (-45) 5),
    (0x82#8 ++ 88#7 ++ 40#7 ++ 83#7 ++ 5#3, .ldh 88 40 (-45) 5),
    (0x83#8 ++ 88#7 ++ 40#7 ++ 83#7 ++ 5#3, .ldhs 88 40 (-45) 5),
    (0x84#8 ++ 88#7 ++ 40#7 ++ 83#7 ++ 5#3, .ldw 88 40 (-45) 5),
    (0x85#8 ++ 88#7 ++ 40#7 ++ 83#7 ++ 5#3, .ldd 88 40 (-45) 5),
    (0x86#8 ++ 88#7 ++ 40#7 ++ 83#7 ++ 5#3, .ldq 88 40 (-45) 5),
    (0x87#8 ++ 88#7 ++ 40#7 ++ 83#7 ++ 5#3, .stb 88 40 (-45) 5),
    (0x88#8 ++ 88#7 ++ 40#7 ++ 83#7 ++ 5#3, .sth 88 40 (-45) 5),
    (0x89#8 ++ 88#7 ++ 40#7 ++ 83#7 ++ 5#3, .stw 88 40 (-45) 5),
    (0x8A#8 ++ 88#7 ++ 40#7 ++ 83#7 ++ 5#3, .std 88 40 (-45) 5),
    (0x8B#8 ++ 88#7 ++ 40#7 ++ 83#7 ++ 5#3, .stq 88 40 (-45) 5),
    (0x8C#8 ++ 88#7 ++ 40#7 ++ 9#4 ++ 1#2 ++ 1#1 ++ 5#3, .ldo 88 40 9 1 1 5),
    (0x8D#8 ++ 88#7 ++ 40#7 ++ 9#4 ++ 2#2 ++ 1#1 ++ 5#3, .sto 88 40 9 2 1 5),
    (0x8E#8 ++ 88#7 ++ 40#7 ++ 9#4 ++ 3#2 ++ 1#1 ++ 5#3, .aadd 88 40 9 3 1 5),
    (0x8F#8 ++ 88#7 ++ 40#7 ++ 9#4 ++ 3#2 ++ 1#1 ++ 5#3, .aand 88 40 9 3 1 5),
    (0x90#8 ++ 88#7 ++ 40#7 ++ 9#4 ++ 3#2 ++ 1#1 ++ 5#3, .aor 88 40 9 3 1 5),
    (0x91#8 ++ 88#7 ++ 40#7 ++ 9#4 ++ 3#2 ++ 1#1 ++ 5#3, .axor 88 40 9 3 1 5),
    (0x92#8 ++ 88#7 ++ 40#7 ++ 9#4 ++ 3#2 ++ 1#1 ++ 5#3, .amins 88 40 9 3 1 5),
    (0x93#8 ++ 88#7 ++ 40#7 ++ 9#4 ++ 3#2 ++ 1#1 ++ 5#3, .aminu 88 40 9 3 1 5),
    (0x94#8 ++ 88#7 ++ 40#7 ++ 9#4 ++ 3#2 ++ 1#1 ++ 5#3, .amaxs 88 40 9 3 1 5),
    (0x95#8 ++ 88#7 ++ 40#7 ++ 9#4 ++ 3#2 ++ 1#1 ++ 5#3, .amaxu 88 40 9 3 1 5),
    (0x96#8 ++ 88#7 ++ 40#7 ++ 9#4 ++ 3#2 ++ 1#1 ++ 5#3, .axch 88 40 9 3 1 5),
    (0x97#8 ++ 88#7 ++ 40#7 ++ 9#4 ++ 3#2 ++ 1#1 ++ 5#3, .acas 88 40 9 3 1 5),
    (0x98#8 ++ 88#7 ++ 40#7 ++ 9#4 ++ 3#2 ++ 1#1 ++ 5#3, .afxa 88 40 9 3 1 5),
    (0x99#8 ++ 88#7 ++ 40#7 ++ 9#4 ++ 3#2 ++ 1#1 ++ 5#3, .afxr 88 40 9 3 1 5),
    (0x9A#8 ++ 88#7 ++ 40#7 ++ 9#4 ++ 3#2 ++ 0#1 ++ 5#3, .afxz 88 40 9 3 5),
    (0x9B#8 ++ 0#14 ++ 9#4 ++ 3#2 ++ 0#1 ++ 5#3, .fence 9 3 5),
    (0x9C#8 ++ 88#7 ++ 40#7 ++ 0#7 ++ 5#3, .tgrab 88 40 5)] : List (BitVec 32 × Instr)),
    (decodeNative x.1).toOption = some x.2 := by decide +kernel

theorem test_words_tinit_to_time : ∀ x ∈ ([
    (0x9D#8 ++ 0#7 ++ 40#7 ++ 100#7 ++ 5#3, .tinit 40 100 5),
    (0xA0#8 ++ 88#7 ++ 40#7 ++ 4#7 ++ 5#3, .vote 88 40 4 5),
    (0xA1#8 ++ 88#7 ++ 40#7 ++ 100#7 ++ 5#3, .shfi 88 40 100 5),
    (0xA2#8 ++ 88#7 ++ 40#7 ++ 41#7 ++ 5#3, .shfu 88 40 41 5),
    (0xA3#8 ++ 88#7 ++ 40#7 ++ 41#7 ++ 5#3, .shfd 88 40 41 5),
    (0xA4#8 ++ 88#7 ++ 40#7 ++ 41#7 ++ 5#3, .shfx 88 40 41 5),
    (0xA5#8 ++ 88#7 ++ 40#7 ++ 2#7 ++ 5#3, .redf 88 40 2 5),
    (0xA6#8 ++ 88#7 ++ 40#7 ++ 5#7 ++ 5#3, .redi 88 40 5 5),
    (0xA7#8 ++ 88#7 ++ 40#7 ++ 0#3 ++ 1#1 ++ 4#3 ++ 5#3, .scni 88 40 1 4 5),
    (0xA8#8 ++ 88#7 ++ 40#7 ++ 0#7 ++ 5#3, .matchw 88 40 5),
    (0xA9#8 ++ 88#7 ++ 0#14 ++ 5#3, .elect 88 5),
    (0xAA#8 ++ 88#7 ++ 40#7 ++ 100#7 ++ 5#3, .qswz 88 40 100 5),
    (0xAB#8 ++ 5#7 ++ 40#7 ++ 100#7 ++ 5#3, .sbind 5 40 100 5),
    (0xAC#8 ++ 88#7 ++ 40#7 ++ 0#3 ++ 1#1 ++ 5#3 ++ 5#3, .spos 88 40 1 5 5),
    (0xAD#8 ++ 6#7 ++ 0#7 ++ 100#7 ++ 5#3, .qbind 6 100 5),
    (0xAE#8 ++ 0#14 ++ 77#7 ++ 5#3, .wspl 77 5),
    (0xAF#8 ++ 0#14 ++ 77#7 ++ 5#3, .wfil 77 5),
    (0xB0#8 ++ 13#7 ++ 0#14 ++ 5#3, .dsp 13 5),
    (0xB1#8 ++ 88#7 ++ 0#7 ++ 83#7 ++ 5#3, .gldb 88 (-45) 5),
    (0xB2#8 ++ 88#7 ++ 0#7 ++ 83#7 ++ 5#3, .gldbs 88 (-45) 5),
    (0xB3#8 ++ 88#7 ++ 0#7 ++ 83#7 ++ 5#3, .gldh 88 (-45) 5),
    (0xB4#8 ++ 88#7 ++ 0#7 ++ 83#7 ++ 5#3, .gldhs 88 (-45) 5),
    (0xB5#8 ++ 88#7 ++ 0#7 ++ 83#7 ++ 5#3, .gldw 88 (-45) 5),
    (0xB6#8 ++ 0#14 ++ 83#7 ++ 5#3, .gadv 83 5),
    (0xB7#8 ++ 0#7 ++ 40#7 ++ 0#7 ++ 5#3, .gjmp 40 5),
    (0xB8#8 ++ 0#7 ++ 40#7 ++ 0#7 ++ 5#3, .gjrel 40 5),
    (0xB9#8 ++ 0#7 ++ 10843#14 ++ 5#3, .gtrap 10843 5),
    (0xC0#8 ++ 5#7 ++ 40#7 ++ 100#7 ++ 5#3, .bld 5 40 100 5),
    (0xC1#8 ++ 1#7 ++ 40#7 ++ 0#7 ++ 5#3, .cbl 1 40 5),
    (0xC2#8 ++ 5#7 ++ 40#7 ++ 100#7 ++ 5#3, .mma 5 40 100 5),
    (0xC3#8 ++ 5#7 ++ 6#7 ++ 100#7 ++ 5#3, .mmab 5 6 100 5),
    (0xC4#8 ++ 5#7 ++ 40#7 ++ 100#7 ++ 5#3, .mmas 5 40 100 5),
    (0xC5#8 ++ 88#7 ++ 6#7 ++ 0#4 ++ 1#1 ++ 2#2 ++ 5#3, .drn 88 6 1 2 5),
    (0xC6#8 ++ 6#7 ++ 0#13 ++ 1727292#1 ++ 5#3, .acz 6 1727292 5),
    (0xC7#8 ++ 6#7 ++ 40#7 ++ 0#4 ++ 1#1 ++ 2#2 ++ 5#3, .acl 6 40 1 2 5),
    (0xC8#8 ++ 88#7 ++ 40#7 ++ 100#7 ++ 5#3, .rqt 88 40 100 5),
    (0xC9#8 ++ 88#7 ++ 0#7 ++ 8#7 ++ 5#3, .mstat 88 8 5),
    (0xD0#8 ++ 42#7 ++ 40#7 ++ 0#7 ++ 5#3, .dwait 42 40 5),
    (0xD1#8 ++ 88#7 ++ 42#7 ++ 0#7 ++ 5#3, .dpoll 88 42 5),
    (0xD2#8 ++ 42#7 ++ 0#14 ++ 5#3, .drst 42 5),
    (0xD3#8 ++ 88#7 ++ 11#7 ++ 0#7 ++ 5#3, .rwait 88 11 5),
    (0xD4#8 ++ 11#7 ++ 0#14 ++ 5#3, .rrel 11 5),
    (0xD5#8 ++ 88#7 ++ 11#7 ++ 0#7 ++ 5#3, .rclm 88 11 5),
    (0xD6#8 ++ 11#7 ++ 40#7 ++ 0#7 ++ 5#3, .rcmt 11 40 5),
    (0xD7#8 ++ 0#14 ++ 13#7 ++ 5#3, .bar 13 5),
    (0xD8#8 ++ 0#7 ++ 40#7 ++ 13#7 ++ 5#3, .bara 40 13 5),
    (0xD9#8 ++ 0#7 ++ 40#7 ++ 13#7 ++ 5#3, .barw 40 13 5),
    (0xE0#8 ++ 88#7 ++ 0#7 ++ 100#7 ++ 5#3, .srd 88 100 5),
    (0xE1#8 ++ 0#7 ++ 40#7 ++ 100#7 ++ 5#3, .swr 40 100 5),
    (0xE2#8 ++ 88#7 ++ 40#7 ++ 0#7 ++ 5#3, .pcrd 88 40 5),
    (0xE3#8 ++ 0#7 ++ 10843#14 ++ 5#3, .tmrk 10843 5),
    (0xE4#8 ++ 88#7 ++ 0#14 ++ 5#3, .time 88 5)] : List (BitVec 32 × Instr)),
    (decodeNative x.1).toOption = some x.2 := by decide +kernel

/-- The worked run of R52 as Tolune bytes, first byte lowest. -/
theorem test_tolune_words : ∀ x ∈ ([
    (0x02#8 ++ 0x04#8 ++ 0x05#8 ++ 0x84#8, .ldw 5 4 2 0), (0x05#8 ++ 0x06#8 ++ 0x06#8 ++ 0x18#8, .add 6 6 5 0),
    (0x04#8 ++ 0x04#8 ++ 0x04#8 ++ 0x3E#8, .addi 4 4 4 0), (0xFF#8 ++ 0x07#8 ++ 0x07#8 ++ 0x3E#8, .addi 7 7 (-1) 0),
    (0xFF#8 ++ 0xEC#8 ++ 0x07#8 ++ 0x04#8, .bnz 7 (-20) 0)] : List (BitVec 32 × Instr)),
    (decodeTolune x.1).toOption = some x.2 := by decide +kernel

/-- The opcodes R43 reserves and those of patches decode to nothing, and so does a Tolune code beyond its limit (R50, R128). -/
theorem test_refused_words : (decodeNative 0xFF000000).toOption = none ∧ (decodeNative 0x00000008).toOption = none ∧
    (decodeTolune (0x40#8 ++ 0#8 ++ 0#8 ++ 0x10#8)).toOption = none ∧ (decodeTolune (0x3F#8 ++ 0xFF#8 ++ 0#8 ++ 0x10#8)).toOption = some (.svc 0x3FFF 0) ∧
    (decodeTolune 0x00000001).toOption = none ∧ (decodeTolune 0x00010203).toOption = none := by decide +kernel

/-! ## Well-formedness: an ill-formed term for each check, which the check refuses -/

def refusedFor (i : Instr) (r : Reason) : Bool := i.fieldFault == some r && !i.wf && !i.wfTolune && (encode i).all fun w =>
  (decodeNative w).toOption.isNone

/-- Slots of a trailer and its flag that must be 0, pairs, quads, groups of eight, codes, selectors and numbers. -/
theorem test_reserved_fields : ∀ i ∈ ([
    .runt 120 127 127 0, .runt 127 126 127 0, .runt 127 127 123 0, .runt 127 127 127 4, .wbase 2 0 0, .add64 1 2 4 0, .add64 2 1 4 0,
    .add64 2 4 1 0, .mulw 1 2 3 0, .sltu64 1 3 2 0, .sltu64 1 2 3 0, .ddiv 1 2 4 0, .dsqrt 2 3 0, .cvt 1 2 18 0, .cvt 1 2 6 0, .cvtz 1 3 4 0,
    .frnd 1 2 5 0, .drnd 1 2 4 0, .drnd 2 1 4 0, .ldd 1 2 0 0, .ldq 2 4 0 0, .std 3 2 0 0, .stq 6 4 0 0, .ldo 1 2 11 1 0 0, .ldo 1 2 0 1 1 0,
    .sto 1 2 0 2 1 0, .aadd 1 2 0 0 1 0, .acas 1 2 0 0 0 0, .acas 2 2 0 0 1 0, .afxz 1 2 11 0 0, .fence 11 3 0, .tgrab 1 2 0, .tinit 1 2 0,
    .vote 1 2 5 0, .vote 1 2 2 0, .shfu 1 2 64 0, .shfd 1 2 64 0, .shfx 1 2 64 0, .redf 1 2 3 0, .redi 1 2 6 0, .scni 1 2 0 6 0,
    .matchw 1 2 0, .sbind 8 4 5 0, .sbind 0 2 5 0, .sbind 0 4 120 0, .sbind 0 4 127 0, .spos 1 2 0 3 0, .qbind 8 0 0, .qbind 0 120 0, .qbind 0 126 0, .dsp 120 0, .bld 8 1 2 0,
    .cbl 2 0 0, .mma 8 4 1 0, .mma 7 2 1 0, .mmab 8 0 1 0, .mmab 0 8 1 0, .mmas 0 1 2 0, .drn 4 0 0 0 0, .drn 8 8 0 0 0, .drn 8 1 1 0 0, .acz 8 0 0,
    .acz 1 1 0, .acl 8 8 0 0 0, .acl 0 4 0 0 0, .acl 1 8 1 0 0, .mstat 1 9 0, .dwait 64 1 0, .dpoll 1 64 0, .drst 64 0, .rwait 1 16 0, .rrel 16 0,
    .rclm 1 16 0, .rcmt 16 1 0, .bar 16 0, .bara 1 16 0, .barw 1 16 0, .pcrd 1 2 0, .time 1 0] : List Instr),
    refusedFor i .reservedField = true := by decide +kernel

theorem test_illegal_orders : ∀ i ∈ ([.ldo 1 2 0 2 0 0, .sto 1 2 0 1 0 0, .fence 0 0 0] : List Instr), refusedFor i .illegalOrder = true := by
  decide +kernel

/-- What a native word cannot hold: a register over 127, an immediate over its field; what Tolune cannot: a stall, a branch
offset of no whole instruction, a window moved; and no step of an engine has a word. -/
theorem test_unfit : (∀ i ∈ ([.add 128 0 0 0, .addi 1 2 64 0, .movi 1 8192 0, .bra 1048576 0, .svc 16384 0, .call 0 1 0, .call 16 1 0, .callr 0 1 0] : List Instr), i.wf = false) ∧
    (∀ i ∈ ([.add 1 2 3 1, .bra 2 0, .bnz 1 6 0, .call 1 4 0, .callr 1 4 0, .wspl 1 0, .runt 127 127 127 0, .ext 1] : List Instr),
      i.wfTolune = false) ∧
    ∀ i ∈ ([.bindBlock 0, .jobStart 1, .windowOpen] : List Instr), i.wf = false ∧ i.wfTolune = false ∧ encode i = none := by decide +kernel

/-! ## The whole machine -/

theorem witness_memories : base.MemoriesCanonical ∧ ∃ t, step base = .next t := by
  refine ⟨by unfold State.MemoriesCanonical Memory.wf; decide +kernel, ?_⟩
  have : (match step base with | .next _ => true | _ => false) = true := by decide +kernel
  cases h : step base with
  | next t => exact ⟨t, rfl⟩
  | fault f => rw [h] at this; simp at this
  | refused r => rw [h] at this; simp at this

end Sys2Proof.Tests
end

section
/-!
PROOFS. Integer words (R75 to R88): the model's results are those of the rules, and each word is its effect on the lanes of
its group. Settles O13.
-/

namespace Sys2Proof.Machine

namespace IntegerLaws

/-! ## Truth values, minima and maxima -/

theorem flag_eq_truth {b : Bool} {p : Prop} [Decidable p] (h : b = true ↔ p) : flag b = truth p := by
  unfold flag truth
  simp only [h]

theorem flag_ult (x y : Dword) : flag (x.ult y) = truth (x.toNat < y.toNat) := flag_eq_truth BitVec.ult_iff_lt

theorem minsW_eq (x y : Word) : minsW x y = if x.toInt ≤ y.toInt then x else y := by
  simp only [minsW, BitVec.sle_iff_toInt_le]

theorem minuW_eq (x y : Word) : minuW x y = if x.toNat ≤ y.toNat then x else y := by
  simp only [minuW, BitVec.ule_iff_le, BitVec.le_def]

/-- The greater of two, whichever of them is asked about: where both tests hold, they are the same. -/
theorem greater_comm {α : Type} {p q : Prop} [Decidable p] [Decidable q] {x y : α} (h : p ∨ q) (he : p → q → x = y) :
    (if p then x else y) = if q then y else x := by
  by_cases hq : q
  · by_cases hp : p
    · rw [if_pos hp, if_pos hq, he hp hq]
    · rw [if_neg hp, if_pos hq]
  · rw [if_pos (h.resolve_right hq), if_neg hq]

theorem maxsW_eq (x y : Word) : maxsW x y = if x.toInt ≤ y.toInt then y else x := by
  simp only [maxsW, BitVec.sle_iff_toInt_le]
  exact greater_comm (Int.le_total _ _) fun h k => BitVec.eq_of_toInt_eq (Int.le_antisymm k h)

theorem maxuW_eq (x y : Word) : maxuW x y = if x.toNat ≤ y.toNat then y else x := by
  simp only [maxuW, BitVec.ule_iff_le, BitVec.le_def]
  exact greater_comm (Nat.le_total _ _) fun h k => BitVec.eq_of_toNat_eq (Nat.le_antisymm k h)

/-! ## Shifts -/

theorem count5_eq (y : Word) : count5 y = y.toNat % 32 := by
  simp [count5]

theorem shlW_eq (x y : Word) : shlW x y = BitVec.ofNat 32 (x.toNat * 2 ^ (y.toNat % 32)) := by
  rw [shlW, count5_eq]
  apply BitVec.eq_of_toNat_eq
  simp [Nat.shiftLeft_eq]

theorem shrW_eq (x y : Word) : shrW x y = BitVec.ofNat 32 (x.toNat / 2 ^ (y.toNat % 32)) := by
  rw [shrW, count5_eq, ← Nat.shiftRight_eq_div_pow, ← BitVec.toNat_ushiftRight, BitVec.ofNat_toNat, BitVec.setWidth_eq]

theorem sarW_eq (x y : Word) : sarW x y = BitVec.ofInt 32 (x.toInt / 2 ^ (y.toNat % 32)) := by
  rw [sarW, count5_eq]
  simp [BitVec.sshiftRight, Int.shiftRight_eq_div_pow]

theorem rolW_eq (x y : Word) : rolW x y = x <<< (y.toNat % 32) ||| x >>> (32 - y.toNat % 32) := by
  rw [rolW, count5_eq, BitVec.rotateLeft_def, Nat.mod_mod]

/-! ## Sums and products -/

theorem sub_eq (x y : Word) : x - y = BitVec.ofInt 32 ((x.toNat : Int) - y.toNat) := by
  bv_omega

theorem mul_eq (x y : Word) : x * y = BitVec.ofNat 32 (x.toNat * y.toNat) := by
  rw [BitVec.ofNat_mul, BitVec.ofNat_toNat, BitVec.ofNat_toNat, BitVec.setWidth_eq, BitVec.setWidth_eq]

theorem mad_eq (z x y : Word) : z + x * y = BitVec.ofNat 32 (z.toNat + x.toNat * y.toNat) := by
  rw [mul_eq, BitVec.ofNat_add, BitVec.ofNat_toNat, BitVec.setWidth_eq]

theorem scaled_eq (x y : Word) (k : Nat) : x + y * BitVec.ofNat 32 k = BitVec.ofNat 32 (x.toNat + k * y.toNat) := by
  rw [BitVec.ofNat_add, BitVec.ofNat_mul, BitVec.mul_comm]
  simp only [BitVec.ofNat_toNat, BitVec.setWidth_eq]

theorem subPair_eq (x y : Dword) : x - y = BitVec.ofNat 64 (x.toNat + 2 ^ 64 - y.toNat) := by
  rw [BitVec.sub_def]
  congr 1
  have := y.isLt
  omega

/-- Bits [63:32] of a number wrapped to 64 bits. -/
theorem highHalf_ofInt (z : Int) : (BitVec.ofInt 64 z).extractLsb' 32 32 = BitVec.ofInt 32 (z / 2 ^ 32) := by
  apply BitVec.eq_of_toNat_eq
  simp only [BitVec.extractLsb'_toNat, BitVec.toNat_ofInt, Nat.shiftRight_eq_div_pow]
  omega

theorem mulhsW_eq (x y : Word) : mulhsW x y = (x.signExtend 64 * y.signExtend 64).extractLsb' 32 32 := by
  rw [mulhsW, ← highHalf_ofInt, BitVec.ofInt_mul, BitVec.signExtend, BitVec.signExtend]

theorem mulhuW_eq (x y : Word) : mulhuW x y = (x.setWidth 64 * y.setWidth 64).extractLsb' 32 32 := by
  have h (v : Word) : v.setWidth 64 = BitVec.ofInt 64 v.toNat := by rw [BitVec.ofInt_natCast, BitVec.ofNat_toNat]
  rw [h, h, ← BitVec.ofInt_mul, highHalf_ofInt, mulhuW, ← BitVec.ofInt_natCast, Int.natCast_ediv,
    Int.natCast_mul]
  rfl

theorem absW_eq (x : Word) : absW x = BitVec.ofNat 32 x.toInt.natAbs := by
  rw [absW, BitVec.slt_eq_decide, ← BitVec.ofInt_natCast]
  by_cases h : x.toInt < 0
  · rw [Int.ofNat_natAbs_of_nonpos (Int.le_of_lt h), BitVec.ofInt_neg, BitVec.ofInt_toInt]
    simp [h]
  · rw [Int.natAbs_of_nonneg (Int.not_lt.mp h), BitVec.ofInt_toInt]
    simp [h]

/-! ## Counts and reversal of bits -/

theorem popcW_eq (x : Word) : popcW x = BitVec.ofNat 32 ((List.range 32).countP fun i => x.getLsbD i) := by
  rw [popcW, List.countP_eq_length_filter]

/-- The first of n numbers from k up of which a test holds, or k + n, stands behind those of which it fails. -/
theorem getD_find_range' (p : Nat → Bool) (k n : Nat) :
    ((List.range' k n).find? p).getD (k + n) = k + leading (fun i => !p i) (List.range' k n) := by
  unfold leading
  induction n generalizing k with
  | zero => rfl
  | succ n ih =>
    rw [List.range'_succ]
    cases h : p k with
    | true => simp [h]
    | false =>
      have := ih (k + 1)
      simp only [List.find?_cons, List.takeWhile_cons, h, Bool.not_false, if_true, List.length_cons]
      rw [show k + (n + 1) = k + 1 + n by omega, this]
      omega

theorem ctzW_eq (x : Word) : ctzW x = BitVec.ofNat 32 (leading (fun i => !x.getLsbD i) (List.range 32)) := by
  have h := getD_find_range' x.getLsbD 0 32
  rw [Nat.zero_add, Nat.zero_add] at h
  rw [ctzW, List.range_eq_range', h]

/-- Below 2 ^ n, the zero bits from place n - 1 down to the highest bit set. -/
theorem leading_zeros (v n : Nat) (h : v < 2 ^ n) :
    leading (fun i => !v.testBit i) (List.range n).reverse = if v = 0 then n else n - 1 - v.log2 := by
  induction n with
  | zero => simp [leading]
  | succ n ih =>
    unfold leading at ih ⊢
    rw [List.range_succ, List.reverse_append, List.reverse_singleton, List.singleton_append]
    by_cases hv : v < 2 ^ n
    · rw [List.takeWhile_cons_of_pos (by simp [Nat.testBit_lt_two_pow hv]), List.length_cons, ih hv]
      split
      · rfl
      · rename_i h0
        have := (Nat.log2_lt h0).mpr hv
        omega
    · have h0 : v ≠ 0 := by have := Nat.two_pow_pos n; omega
      have hl : v.log2 = n := (Nat.log2_eq_iff h0).mpr ⟨Nat.not_lt.mp hv, h⟩
      have ht : v.testBit n = true := hl ▸ Nat.testBit_log2 h0
      simp [ht, h0, hl]

theorem clzW_eq (x : Word) : clzW x = BitVec.ofNat 32 (leading (fun i => !x.getLsbD i) (List.range 32).reverse) := by
  have h := leading_zeros x.toNat 32 x.isLt
  rw [show (fun i => !x.getLsbD i) = fun i => !x.toNat.testBit i from rfl, h, clzW]
  by_cases hx : x = 0
  · subst hx; rfl
  · have hn : x.toNat ≠ 0 := fun e => hx (BitVec.eq_of_toNat_eq e)
    rw [if_neg hx, if_neg hn]

/-- A truth value shifted to place k is that bit alone. -/
theorem getLsbD_flag_shift (b : Bool) (k j : Nat) :
    (flag b <<< k).getLsbD j = (decide (j < 32) && decide (j = k) && b) := by
  cases b
  · simp [flag]
  · rw [flag, if_pos rfl, show (1 : Word) <<< k = BitVec.twoPow 32 k from (BitVec.twoPow_eq 32 k).symm,
      BitVec.getLsbD_twoPow, Bool.and_true]
    by_cases h : k = j
    · subst h; simp
    · simp [h, Ne.symm h]

/-- The bits that the first n steps of the reversal place. -/
theorem getLsbD_foldl_brev (x : Word) (n j : Nat) (hn : n ≤ 32) (hj : j < 32) :
    ((List.range n).foldl (fun r i => r ||| (flag (x.getLsbD i) <<< (31 - i))) (0 : Word)).getLsbD j =
      (decide (31 - j < n) && x.getLsbD (31 - j)) := by
  induction n with
  | zero => simp
  | succ n ih =>
    rw [List.range_succ, List.foldl_append]
    simp only [List.foldl_cons, List.foldl_nil, BitVec.getLsbD_or, ih (by omega), getLsbD_flag_shift]
    by_cases h : 31 - j = n
    · subst h
      simp [hj, show 31 - (31 - j) = j by omega]
    · simp [show ¬ j = 31 - n by omega, show 31 - j < n + 1 ↔ 31 - j < n by omega]

theorem brevW_eq (x : Word) : brevW x = x.reverse := by
  apply BitVec.eq_of_getLsbD_eq
  intro j hj
  rw [brevW, getLsbD_foldl_brev x 32 j (by omega) hj, BitVec.getLsbD_reverse, BitVec.getMsbD]
  simp [hj]
  omega

/-! ## Bit fields -/

theorem fieldPos_eq (y : Word) : fieldPos y = (fieldAt y).1 := by simp [fieldPos, fieldAt]

theorem fieldLen_eq (y : Word) : fieldLen y = (fieldAt y).2 := by
  simp [fieldLen, fieldAt, fieldPos, Nat.shiftRight_eq_div_pow]

/-- A field ends at bit 31 at the latest (R82). -/
theorem field_fits (y : Word) : (fieldAt y).1 + (fieldAt y).2 ≤ 32 := by
  simp [fieldAt]; omega

theorem bfxuW_eq (x y : Word) : bfxuW x y = BitVec.ofNat 32 (x.toNat / 2 ^ (fieldAt y).1 % 2 ^ (fieldAt y).2) := by
  rw [bfxuW, fieldPos_eq, fieldLen_eq]
  apply BitVec.eq_of_getLsbD_eq
  intro j hj
  simp only [BitVec.getLsbD_and, BitVec.getLsbD_ushiftRight, BitVec.getLsbD_ofNat, Nat.testBit_mod_two_pow,
    Nat.testBit_div_two_pow, Nat.testBit_two_pow_sub_one, hj, decide_true, Bool.true_and, Nat.add_comm j]
  exact Bool.and_comm _ _

/-- The signed number of a field is that of its bits. -/
theorem signedField_eq (l v : Nat) (h : v < 2 ^ l) : signedField l v = (BitVec.ofNat l v).toInt := by
  unfold signedField
  cases l with
  | zero => rw [BitVec.toInt_zero_length]; rfl
  | succ k =>
    rw [BitVec.toInt_eq_toNat_cond, BitVec.toNat_ofNat, Nat.mod_eq_of_lt h, if_neg (Nat.succ_ne_zero k), Nat.add_sub_cancel]
    have : v < 2 ^ k ↔ 2 * v < 2 ^ (k + 1) := by omega
    simp only [this]
    norm_cast

/-- A field shifted up to bit 31 and back down with its sign is the field sign-extended. -/
theorem sshiftRight_shiftLeft_field (x : Word) (p k s : Nat) (h : p + (k + 1) + s = 32) :
    (x <<< s).sshiftRight (p + s) = (x.extractLsb' p (k + 1)).signExtend 32 := by
  apply BitVec.eq_of_getLsbD_eq
  intro j hj
  rw [BitVec.getLsbD_sshiftRight, BitVec.getLsbD_signExtend, BitVec.msb_eq_getLsbD_last, BitVec.msb_eq_getLsbD_last]
  simp only [BitVec.getLsbD_shiftLeft, BitVec.getLsbD_extractLsb']
  by_cases hk : j < k + 1
  · simp [hj, hk, show p + s + j < 32 by omega, show ¬ p + s + j < s by omega, show p + s + j - s = p + j by omega]
  · simp [hj, hk, show ¬ p + s + j < 32 by omega, show ¬ 31 < s by omega, show 31 - s = p + k by omega]

theorem bfxsW_eq (x y : Word) :
    bfxsW x y = BitVec.ofInt 32 (signedField (fieldAt y).2 (x.toNat / 2 ^ (fieldAt y).1 % 2 ^ (fieldAt y).2)) := by
  have hf := field_fits y
  rw [bfxsW, fieldPos_eq, fieldLen_eq, signedField_eq _ _ (Nat.mod_lt _ (Nat.two_pow_pos _)),
    ← Nat.shiftRight_eq_div_pow, ← BitVec.extractLsb'_toNat, BitVec.ofNat_toNat, BitVec.setWidth_eq]
  generalize (fieldAt y).1 = p at *
  generalize (fieldAt y).2 = l at *
  cases l with
  | zero => rw [BitVec.toInt_zero_length]; rfl
  | succ k =>
    rw [if_neg (Nat.succ_ne_zero k), show 32 - (k + 1) = p + (32 - p - (k + 1)) by omega,
      sshiftRight_shiftLeft_field x p k _ (by omega), BitVec.signExtend]

/-- A number with l of its bits from place p up replaced. -/
theorem field_replaced (z v p l : Nat) : z - z / 2 ^ p % 2 ^ l * 2 ^ p + v % 2 ^ l * 2 ^ p =
    2 ^ p * (2 ^ l * (z / 2 ^ p / 2 ^ l) + v % 2 ^ l) + z % 2 ^ p := by
  have h1 := Nat.div_add_mod z (2 ^ p)
  have h2 := Nat.div_add_mod (z / 2 ^ p) (2 ^ l)
  generalize z / 2 ^ p / 2 ^ l = h at *
  generalize z / 2 ^ p % 2 ^ l = m at *
  generalize z % 2 ^ p = r at *
  have h3 : 2 ^ p * (2 ^ l * h + m) + r = z := h2 ▸ h1
  rw [← h3, Nat.mul_add, Nat.mul_add, Nat.mul_comm m, Nat.mul_comm (v % _) (2 ^ p)]
  omega

theorem bfiW_eq (z x y : Word) :
    bfiW z x y = BitVec.ofNat 32 (z.toNat - z.toNat / 2 ^ (fieldAt y).1 % 2 ^ (fieldAt y).2 * 2 ^ (fieldAt y).1 +
        x.toNat % 2 ^ (fieldAt y).2 * 2 ^ (fieldAt y).1) := by
  rw [bfiW, fieldPos_eq, fieldLen_eq, field_replaced]
  apply BitVec.eq_of_getLsbD_eq
  intro j hj
  have hf := field_fits y
  generalize (fieldAt y).1 = p at *
  generalize (fieldAt y).2 = l at *
  simp only [BitVec.getLsbD_and, BitVec.getLsbD_or, BitVec.getLsbD_not, BitVec.getLsbD_shiftLeft, BitVec.getLsbD_ofNat,
    Nat.testBit_two_pow_mul_add _ (Nat.mod_lt _ (Nat.two_pow_pos _)), Nat.testBit_mod_two_pow,
    Nat.testBit_div_two_pow, Nat.testBit_two_pow_sub_one, hj, decide_true, Bool.true_and]
  by_cases h : j < p
  · simp [h, BitVec.getLsbD]
  · by_cases hl : j - p < l
    · simp [h, hl, show j - p < 32 by omega, BitVec.getLsbD]
    · simp [h, hl, show j - p - l + l + p = j by omega, BitVec.getLsbD]

/-! ## Quotients and remainders -/

theorem toInt_eq_zero {y : Word} : y.toInt = 0 ↔ y = 0 := by rw [← BitVec.toInt_inj]; rfl
theorem toNat_eq_zero {y : Word} : y.toNat = 0 ↔ y = 0 := by rw [← BitVec.toNat_inj]; rfl

theorem divsW_eq (x y : Word) : divsW x y =
      if y.toInt = 0 then BitVec.ofInt 32 (-1)
      else if x.toInt = -2 ^ 31 ∧ y.toInt = -1 then BitVec.ofInt 32 (-2 ^ 31) else BitVec.ofInt 32 (x.toInt.tdiv y.toInt) := by
  rw [divsW]
  by_cases hy : y = 0
  · rw [if_pos hy, if_pos (toInt_eq_zero.mpr hy)]; rfl
  · rw [if_neg hy, if_neg (mt toInt_eq_zero.mp hy)]
    by_cases ho : x.toInt = -2 ^ 31 ∧ y.toInt = -1
    · rw [if_pos ho, ho.1, ho.2]; decide
    · rw [if_neg ho]

theorem remsW_eq (x y : Word) : remsW x y =
      if y.toInt = 0 then x
      else if x.toInt = -2 ^ 31 ∧ y.toInt = -1 then 0
      else BitVec.ofInt 32 (x.toInt - x.toInt.tdiv y.toInt * y.toInt) := by
  rw [remsW, Int.mul_comm, ← Int.tmod_def]
  by_cases hy : y = 0
  · rw [if_pos hy, if_pos (toInt_eq_zero.mpr hy)]
  · rw [if_neg hy, if_neg (mt toInt_eq_zero.mp hy)]
    by_cases ho : x.toInt = -2 ^ 31 ∧ y.toInt = -1
    · rw [if_pos ho, ho.1, ho.2]; rfl
    · rw [if_neg ho]

theorem divuW_eq (x y : Word) :
    divuW x y = if y.toNat = 0 then BitVec.ofInt 32 (-1) else BitVec.ofNat 32 (x.toNat / y.toNat) := by
  rw [divuW]
  by_cases hy : y = 0
  · rw [if_pos hy, if_pos (toNat_eq_zero.mpr hy)]; rfl
  · rw [if_neg hy, if_neg (mt toNat_eq_zero.mp hy)]

theorem remuW_eq (x y : Word) :
    remuW x y = if y.toNat = 0 then x else BitVec.ofNat 32 (x.toNat - x.toNat / y.toNat * y.toNat) := by
  rw [remuW, Nat.mod_eq_sub_div_mul]
  by_cases hy : y = 0
  · rw [if_pos hy, if_pos (toNat_eq_zero.mpr hy)]
  · rw [if_neg hy, if_neg (mt toNat_eq_zero.mp hy)]

/-! ## Words that are their effect -/

/-- A word whose whole meaning is an effect on each lane of its group, the same whatever issue has noted of the warp. -/
structure Answers (i : Instr) (f : LaneEffect) : Prop where
  exec : ∀ s, Machine.exec i s = issue i (fun w rid c => c.lanesDo w rid f) s
  steady : ∀ (wp : Warp) (run : Run) e d rs b l t,
    f { wp with entries := e, drawHeld := d, runs := rs } { run with entering := b } l t = f wp run l t

theorem Answers.lanesBecome {i : Instr} {f : LaneEffect} (h : Answers i f) {s : State} {w rid : Nat} (hr : Ready s w rid i)
    (hp : Plain s w i) :
    ∃ t, Machine.exec i s = .next t ∧ OnlyThreads s t w rid ∧ LanesBecome s t w rid (f (s.warp w) (s.run w rid)) := by
  rw [h.exec]
  exact wordGo_lanes hr hp (fun _ _ => rfl) fun e d rs b l t => h.steady _ _ e d rs b l t

section
variable {i : Instr} {d a b : Reg}

theorem Answers.of_unOp {g f : Word → Word} (he : ∀ s, Machine.exec i s = issue i (unOp d a g) s) (hg : ∀ x, g x = f x) :
    Answers i (result1 d a f) :=
  ⟨funext hg ▸ he, fun _ _ _ _ _ _ _ _ => rfl⟩

theorem Answers.of_binOp {g f : Word → Word → Word} (he : ∀ s, Machine.exec i s = issue i (binOp d a b g) s)
    (hg : ∀ x y, g x y = f x y) : Answers i (result2 d a b f) :=
  ⟨funext (fun x => funext (hg x)) ▸ he, fun _ _ _ _ _ _ _ _ => rfl⟩

theorem Answers.of_triOp {g f : Word → Word → Word → Word} (he : ∀ s, Machine.exec i s = issue i (triOp d a b g) s)
    (hg : ∀ z x y, g z x y = f z x y) : Answers i (result3 d a b f) :=
  ⟨funext (fun z => funext fun x => funext (hg z x)) ▸ he, fun _ _ _ _ _ _ _ _ => rfl⟩

theorem Answers.of_immOp {m : Imm} {g f : Word → Word → Word} (he : ∀ s, Machine.exec i s = issue i (immOp d a m g) s)
    (hg : ∀ x y, g x y = f x y) : Answers i (resultI d a m f) :=
  ⟨funext (fun x => funext (hg x)) ▸ he, fun _ _ _ _ _ _ _ _ => rfl⟩

theorem Answers.of_pairOp {g : Dword → Dword → Dword} {f : Nat → Nat → Nat}
    (he : ∀ s, Machine.exec i s = issue i (pairOp d a b g) s)
    (hg : ∀ x y, g x y = BitVec.ofNat 64 (f x.toNat y.toNat)) : Answers i (resultP d a b f) :=
  have h : g = fun x y => BitVec.ofNat 64 (f x.toNat y.toNat) := funext fun x => funext (hg x)
  ⟨by subst h; exact he, fun _ _ _ _ _ _ _ _ => rfl⟩

theorem Answers.of_divOp {g f : Word → Word → Word} (he : ∀ s, Machine.exec i s = issue i (divOp d a b g) s)
    (hg : ∀ x y, g x y = f x y) : Answers i (divideEffect d a b f) :=
  ⟨funext (fun x => funext (hg x)) ▸ he, fun _ _ _ _ _ _ _ _ => rfl⟩

end

/-- The meaning of every integer word that answers at once is the effect the rules give (R75 to R88): one line per word. -/
theorem answers_of_intEffect {i : Instr} {f : LaneEffect} (h : intEffect i = some f) : Answers i f := by
  unfold intEffect at h
  split at h <;> cases h
  · exact .of_binOp (fun _ => rfl) fun x y => BitVec.add_def x y  -- add
  · exact .of_binOp (fun _ => rfl) sub_eq  -- sub
  · exact .of_binOp (fun _ => rfl) mul_eq  -- mul
  · exact .of_binOp (fun _ => rfl) mulhsW_eq  -- mulhs
  · exact .of_binOp (fun _ => rfl) mulhuW_eq  -- mulhu
  · exact .of_triOp (fun _ => rfl) mad_eq  -- mad
  · exact .of_binOp (fun _ => rfl) fun _ _ => rfl  -- and
  · exact .of_binOp (fun _ => rfl) fun _ _ => rfl  -- or
  · exact .of_binOp (fun _ => rfl) fun _ _ => rfl  -- xor
  · exact .of_binOp (fun _ => rfl) fun _ _ => rfl  -- andn
  · exact .of_binOp (fun _ => rfl) shlW_eq  -- shl
  · exact .of_binOp (fun _ => rfl) shrW_eq  -- shr
  · exact .of_binOp (fun _ => rfl) sarW_eq  -- sar
  · exact .of_binOp (fun _ => rfl) rolW_eq  -- rol
  · exact .of_binOp (fun _ => rfl) minsW_eq  -- mins
  · exact .of_binOp (fun _ => rfl) minuW_eq  -- minu
  · exact .of_binOp (fun _ => rfl) maxsW_eq  -- maxs
  · exact .of_binOp (fun _ => rfl) maxuW_eq  -- maxu
  · exact .of_binOp (fun _ => rfl) fun _ _ => flag_eq_truth beq_iff_eq  -- seq
  · exact .of_binOp (fun _ => rfl) fun _ _ => flag_eq_truth bne_iff_ne  -- sne
  · exact .of_binOp (fun _ => rfl) fun _ _ => flag_eq_truth BitVec.slt_iff_toInt_lt  -- slt
  · exact .of_binOp (fun _ => rfl) fun _ _ => flag_eq_truth BitVec.ult_iff_lt  -- sltu
  · exact .of_binOp (fun _ => rfl) fun _ _ => flag_eq_truth BitVec.sle_iff_toInt_le  -- sle
  · exact .of_binOp (fun _ => rfl) fun _ _ => flag_eq_truth BitVec.ule_iff_le  -- sleu
  · exact .of_triOp (fun _ => rfl) fun _ _ _ => (ite_not ..).symm  -- csel
  · exact .of_unOp (fun _ => rfl) fun _ => rfl  -- mov
  · exact .of_unOp (fun _ => rfl) clzW_eq  -- clz
  · exact .of_unOp (fun _ => rfl) ctzW_eq  -- ctz
  · exact .of_unOp (fun _ => rfl) popcW_eq  -- popc
  · exact .of_unOp (fun _ => rfl) brevW_eq  -- brev
  · exact .of_unOp (fun _ => rfl) absW_eq  -- abs
  · exact .of_binOp (fun _ => rfl) bfxuW_eq  -- bfxu
  · exact .of_binOp (fun _ => rfl) bfxsW_eq  -- bfxs
  · exact .of_triOp (fun _ => rfl) bfiW_eq  -- bfi
  · exact .of_immOp (fun _ => rfl) fun x y => BitVec.add_def x y  -- addi
  · exact .of_immOp (fun _ => rfl) fun _ _ => rfl  -- andi
  · exact .of_immOp (fun _ => rfl) fun _ _ => rfl  -- ori
  · exact .of_immOp (fun _ => rfl) fun _ _ => rfl  -- xori
  · exact .of_immOp (fun _ => rfl) shlW_eq  -- shli
  · exact .of_immOp (fun _ => rfl) shrW_eq  -- shri
  · exact .of_immOp (fun _ => rfl) sarW_eq  -- sari
  · exact .of_immOp (fun _ => rfl) fun _ _ => flag_eq_truth BitVec.slt_iff_toInt_lt  -- slti
  · exact .of_immOp (fun _ => rfl) fun _ _ => flag_eq_truth beq_iff_eq  -- seqi
  · exact ⟨fun _ => rfl, fun _ _ _ _ _ _ _ _ => rfl⟩  -- movi
  · exact .of_binOp (fun _ => rfl) fun x y => (scaled_eq x y 1).trans (by rw [Nat.one_mul])  -- lea1
  · exact .of_binOp (fun _ => rfl) fun x y => scaled_eq x y 2  -- lea2
  · exact .of_binOp (fun _ => rfl) fun x y => scaled_eq x y 4  -- lea4
  · exact .of_binOp (fun _ => rfl) fun x y => scaled_eq x y 8  -- lea8
  · exact .of_pairOp (fun _ => rfl) fun x y => BitVec.add_def x y  -- add64
  · exact .of_pairOp (fun _ => rfl) subPair_eq  -- sub64
  · exact ⟨fun _ => rfl, fun _ _ _ _ _ _ _ _ => rfl⟩  -- mulw
  · refine ⟨fun _ => ?_, fun _ _ _ _ _ _ _ _ => rfl⟩  -- sltu64
    simp only [← flag_ult]
    rfl

/-- So it is of the four divides (R78). -/
theorem answers_of_divideResult {i : Instr} {d a b : Reg} {f : Word → Word → Word} (h : divideResult i = some (d, a, b, f)) :
    Answers i (divideEffect d a b f) := by
  unfold divideResult at h
  split at h <;> cases h
  · exact .of_divOp (fun _ => rfl) divsW_eq
  · exact .of_divOp (fun _ => rfl) remsW_eq
  · exact .of_divOp (fun _ => rfl) divuW_eq
  · exact .of_divOp (fun _ => rfl) remuW_eq

end IntegerLaws

/-- Settles O13: every integer word and divide has the form of `IntegerLaws.Answers`, and a word of that form changes the
lanes of its group and nothing else. -/
theorem integerWords : Obligations.IntegerWords :=
  ⟨fun _ _ _ _ _ h hr hp => (IntegerLaws.answers_of_intEffect h).lanesBecome hr hp,
    fun _ _ _ _ _ _ _ _ h hr hp => (IntegerLaws.answers_of_divideResult h).lanesBecome hr hp⟩

end Sys2Proof.Machine
end

section
/-!
PROOFS. Results that arrive (R153): what a delivery does to its lane, and what a value does to the stream or the queue
whose element waits for it (R178, R180). Settles O38.
-/

namespace Sys2Proof.Machine

namespace DeliveryLaws
open SparseLaws

/-! ## Two changes at the same place -/

theorem put_put {α : Type} (m : Sparse α) (k : Nat) (v w : α) : Sparse.put (Sparse.put m k v) k w = Sparse.put m k w := by
  induction m with
  | nil => simp [Sparse.put]
  | cons e r ih =>
    obtain ⟨j, x⟩ := e
    simp only [Sparse.put]
    by_cases hj : k = j
    · simp [hj, Sparse.put]
    · by_cases hlt : k < j
      · simp [hj, hlt, Sparse.put]
      · simp [hj, hlt, Sparse.put, ih]

theorem modify_modify {α : Type} (m : Sparse α) (k : Nat) (f g : α → α) :
    Sparse.modify (Sparse.modify m k f) k g = Sparse.modify m k fun x => g (f x) := by
  cases h : Sparse.find m k with
  | none => simp [Sparse.modify, h]
  | some v => simp [Sparse.modify, h, put_put]

theorem modWarp_modWarp (c : Chip) (w : Nat) (f g : Warp → Warp) :
    (c.modWarp w f).modWarp w g = c.modWarp w fun x => g (f x) := by
  simp only [Chip.modWarp, modify_modify]

theorem modThread_modThread (wp : Warp) (l : Nat) (f g : Thread → Thread) :
    (wp.modThread l f).modThread l g = wp.modThread l fun t => g (f t) := by
  simp only [Warp.modThread, Warp.thread, get_put_same, put_put]

/-! ## Landing values in a lane -/

theorem setCells_eq (t : Thread) (cells : Sparse Val) : t.setCells cells = { t with regs := written t.regs cells } := by
  induction cells generalizing t with
  | nil => rfl
  | cons e r ih => exact ih (t.setCell e.1 e.2)

/-- The latch of a bound slot is told by the slot's number. -/
theorem latchSlot_eq (k : Nat) : latchSlot k = if latched k then some (k - 512) else none := by
  unfold latchSlot latched
  simp only [decide_eq_true_eq]

/-- No latch is the cell that no register has. -/
theorem ne_noCell_of_latched {k : Nat} (h : latched k = true) : k ≠ noCell := by
  unfold latched noCell at *
  simp only [decide_eq_true_eq] at h
  omega

/-- Of the values that have a cell, those in latches take the places of their elements, in order. -/
theorem foldl_latches (c : Chip) (w l : Nat) (cells : Sparse Val) :
    (cells.filter fun e => e.1 != noCell).foldl (fun c e => (latchSlot e.1).elim c fun r => c.fillElement w l r e.2) c =
      (cells.filter fun e => latched e.1).foldl (fun c e => c.fillElement w l (e.1 - 512) e.2) c := by
  induction cells generalizing c with
  | nil => rfl
  | cons e r ih =>
    cases hl : latched e.1 with
    | true =>
      have hs : latchSlot e.1 = some (e.1 - 512) := by rw [latchSlot_eq, hl, if_pos rfl]
      simp [ne_noCell_of_latched hl, hl, hs, ih]
    | false =>
      have hs : latchSlot e.1 = none := by rw [latchSlot_eq, hl, if_neg Bool.false_ne_true]
      rw [List.filter_cons_of_neg (p := fun e : Nat × Val => latched e.1) (by simp [hl]), ← ih c]
      by_cases hn : e.1 = noCell
      · simp [hn]
      · simp [hn, hs]

/-- A thread that is rid of a pending result, with its flags, and then receives values. -/
theorem landed_eq (t : Thread) (cells : Sparse Val) (pend : List Pend) (flags : BitVec 5) (now : Nat) :
    t.landed cells pend flags now =
      { ((({ t with pend := pend, fflags := t.fflags ||| flags } : Thread).setCells (cells.filter fun e => e.1 != noCell)).unfix
          ((cells.filter fun e => e.1 != noCell).map (·.1))) with since := if t.waits.isEmpty then t.since else now } := by
  have hc : (fun e : Nat × Val => e.1 != noCell) = fun e => decide (e.1 ≠ 1000) := by
    funext e
    rw [Bool.eq_iff_iff, bne_iff_ne, decide_eq_true_eq]; rfl
  rw [setCells_eq, hc]
  unfold Thread.landed Thread.unfix
  simp only [List.contains_eq_mem, List.isEmpty_iff, decide_not]

/-- What a delivery to a live lane does: the lane changes once, and the latches among the cells are then filled (R153, R178). -/
theorem deliver_eq (c : Chip) (f : PendKind → Bool) (w l n : Nat) (p : Pend) (hl : ((c.warp w).thread l).status = .live)
    (hp : ((c.warp w).thread l).pend[n]? = some p) (hf : f p.kind = true) :
    c.deliver f w l n = some ((p.cells.filter fun e => latched e.1).foldl (fun c e => c.fillElement w l (e.1 - 512) e.2)
      (c.modWarp w fun wp => wp.modThread l fun t => t.landed p.cells (t.pend.eraseIdx n) p.flags c.cycle)) := by
  have hv : ((c.warp w).thread l).live = true := by rw [Thread.live, hl]; rfl
  unfold Chip.deliver
  simp only [hp, hv, hf, Bool.and_self, if_true]
  unfold Chip.landCells
  rw [foldl_latches, modWarp_modWarp]
  simp only [modThread_modThread, landed_eq]
  rfl

/-- Every delivery is `Chip.deliver` for its kinds of result. -/
theorem exec_delivery {i : Instr} {w l n : Nat} {f : PendKind → Bool} (h : deliveryOf i = some (w, l, n, f)) (s : State) :
    exec i s = chipEvent (fun c => c.deliver f w l n) s := by
  unfold deliveryOf at h
  split at h <;> cases h
  all_goals rfl

/-! ## An element whose value has come -/

/-- A list lengthened by empty entries reads as before. -/
theorem getD_append_nils {α : Type} (xs : List (List α)) (n k : Nat) :
    (xs ++ List.replicate n []).getD k [] = xs.getD k [] := by
  rw [List.getD_eq_getElem?_getD, List.getD_eq_getElem?_getD]
  by_cases h : k < xs.length
  · rw [List.getElem?_append_left h]
  · rw [List.getElem?_append_right (Nat.not_lt.mp h), List.getElem?_eq_none (Nat.not_lt.mp h), List.getElem?_replicate]
    split <;> rfl

theorem getD_set {α : Type} (xs : List α) (n k : Nat) (x d : α) (h : n < xs.length) :
    (xs.set n x).getD k d = if k = n then x else xs.getD k d := by
  simp only [List.getD_eq_getElem?_getD, List.getElem?_set]
  by_cases hk : n = k
  · subst hk; simp [h]
  · simp [hk, Ne.symm hk]

/-- The registers of a queue with entry k among them. -/
def reaching (xs : List (Sparse Val)) (k : Nat) : List (Sparse Val) :=
  if k < xs.length then xs else xs ++ List.replicate (k + 1 - xs.length) []

theorem lt_length_reaching (xs : List (Sparse Val)) (k : Nat) : k < (reaching xs k).length := by
  unfold reaching
  split
  · assumption
  · rw [List.length_append, List.length_replicate]; omega

theorem getD_reaching (xs : List (Sparse Val)) (n k : Nat) : (reaching xs n).getD k [] = xs.getD k [] := by
  unfold reaching
  split
  · rfl
  · exact getD_append_nils _ _ _

/-- After one more value, an entry reads as before but for the value's own place and lane. -/
theorem entry_push (q : Queue) (l p : Nat) (v : Val) (hp : q.first ≤ p) (k j : Nat) (hk : q.first ≤ k) :
    (q.push l p v).entry k j = if k = p ∧ j = l then v else q.entry k j := by
  have hpush : (q.push l p v).fifo = (reaching q.fifo (p - q.first)).set (p - q.first)
      (Sparse.set ⟨0, false⟩ (q.fifo.getD (p - q.first) []) l v) := by
    rw [← getD_reaching q.fifo (p - q.first)]; rfl
  show Sparse.get _ ((q.push l p v).fifo.getD (k - q.first) []) j = _
  rw [hpush, getD_set _ _ _ _ _ (lt_length_reaching _ _), getD_reaching]
  by_cases hkp : k = p
  · subst hkp
    by_cases hj : j = l
    · subst hj; simp
    · simp only [if_true, hj, and_false, if_false]
      exact get_set_ne _ _ _ hj
  · rw [if_neg (show k - q.first ≠ p - q.first by omega), if_neg fun h => hkp h.1]
    rfl

theorem find_map_value {α β : Type} (m : Sparse α) (g : α → β) (n : Nat) :
    Sparse.find (m.map fun e => (e.1, g e.2)) n = (Sparse.find m n).map g := by
  induction m with
  | nil => rfl
  | cons e r ih =>
    obtain ⟨j, x⟩ := e
    by_cases h : j = n
    · simp [Sparse.find, h]
    · simp [Sparse.find, h, ih]

/-- A queue once a value that was still to come for a lane at a slot is there, if it waits for one. -/
def filled (q : Queue) (l slot : Nat) (v : Val) : Queue :=
  match q.due.find? fun d => decide (d.1 = l ∧ d.2.1 = slot) with
  | some d => { q.push l d.2.2 v with due := q.due.erase d }
  | none => q

theorem filled_of_none {q : Queue} {l slot : Nat} (v : Val)
    (h : (q.due.find? fun d => decide (d.1 = l ∧ d.2.1 = slot)) = none) : filled q l slot v = q := by
  unfold filled; rw [h]

theorem filled_of_some {q : Queue} {l slot : Nat} (v : Val) {d : Nat × Nat × Nat}
    (h : (q.due.find? fun d => decide (d.1 = l ∧ d.2.1 = slot)) = some d) :
    filled q l slot v = { q.push l d.2.2 v with due := q.due.erase d } := by
  unfold filled; rw [h]

theorem filled_kept (q : Queue) (l slot : Nat) (v : Val) :
    (filled q l slot v).slot = q.slot ∧ (filled q l slot v).first = q.first := by
  unfold filled
  split <;> exact ⟨rfl, rfl⟩

/-- A warp once the value of an element of a lane is there: its store has its bytes, its queue register its entry. -/
def fillWarp (wp : Warp) (l slot : Nat) (v : Val) : Warp :=
  { wp with
    storeQ := wp.storeQ.map fun y => if y.lane = l ∧ y.due = some slot then
      { y with bytes := bytesOfNum y.bytes.length v.v.toNat, poison := v.p, due := none } else y
    queues := wp.queues.map fun e => (e.1, filled e.2 l slot v) }

theorem with_queues_storeQ (wp : Warp) {qs qs' : Sparse Queue} {st st' : List Store} (hq : qs = qs') (hs : st = st') :
    ({ wp with queues := qs, storeQ := st } : Warp) = { wp with queues := qs', storeQ := st' } := by
  rw [hq, hs]

theorem fillElement_eq (c : Chip) (w l slot : Nat) (v : Val) :
    c.fillElement w l slot v = c.modWarp w fun wp => fillWarp wp l slot v := by
  refine congrArg (c.modWarp w) (funext fun wp => ?_)
  refine with_queues_storeQ wp (List.map_congr_left fun e _ => ?_) (List.map_congr_left fun y _ => ?_)
  · have hd : (fun x : Nat × Nat × Nat => x.1 == l && x.2.1 == slot) = fun d => decide (d.1 = l ∧ d.2.1 = slot) := by
      funext x
      rw [Bool.decide_and]; rfl
    unfold filled
    rw [hd]
    cases e.2.due.find? fun d => decide (d.1 = l ∧ d.2.1 = slot) <;> rfl
  · have hs : (y.awaits l slot = true) = (y.lane = l ∧ y.due = some slot) := by simp [Store.awaits]
    simp only [hs]

theorem fillWarp_comes (wp : Warp) (l slot : Nat) (v : Val) : wp.comes l slot v (fillWarp wp l slot v) := by
  refine ⟨rfl, fun n q hq => ?_⟩
  obtain ⟨hslot, hfirst⟩ := filled_kept q l slot v
  refine ⟨filled q l slot v, ?_, hslot, hfirst, ?_⟩
  · show Sparse.find (wp.queues.map fun e => (e.1, filled e.2 l slot v)) n = _
    rw [find_map_value wp.queues (filled · l slot v), hq]
    rfl
  · split
    · next h => exact filled_of_none v h
    · next d h =>
      rw [filled_of_some v h]
      refine ⟨rfl, fun hd => ?_, fun k j hk hd hne => ?_⟩
      · exact (entry_push q l d.2.2 v hd d.2.2 l hd).trans (if_pos ⟨rfl, rfl⟩)
      · exact (entry_push q l d.2.2 v hd k j hk).trans (if_neg fun ⟨ek, ej⟩ => hne.elim (· ek) (· ej))

end DeliveryLaws

open DeliveryLaws

/-- Settles O38: a delivery is `Chip.deliver` of its kind, which changes the lane once and then fills the latches in order;
filling one element changes the store queue and the queue registers of its warp and no more. -/
theorem resultsArrive : Obligations.ResultsArrive := by
  refine ⟨fun s i w l n f p hi hl hp hf => ?_, fun c w l slot v hw => ?_⟩
  · rw [exec_delivery hi, chipEvent, deliver_eq s.chip f w l n p hl hp hf]
  · intro d
    have hd : d = c.modWarp w fun wp => fillWarp wp l slot v := fillElement_eq c w l slot v
    have hwarp : d.warp w = fillWarp (c.warp w) l slot v := by rw [hd, Chip.warp_modWarp_same hw]
    rw [hwarp]
    refine ⟨rfl, fun u hu => ?_, fillWarp_comes _ l slot v, rfl⟩
    rw [hd, Chip.warp_modWarp_ne _ hu]

end Sys2Proof.Machine
end

section
/-!
PROOFS. Floating-point words (R95 to R112): each word is the effect of its form on the lanes of its group. Settles O14.
-/

namespace Sys2Proof.Machine

namespace FloatLaws
open IntegerLaws

/-! ## The shapes of the model are effects of forms -/

/-- A word whose effect is a form's answers it whatever issue has noted of the warp: only the registers of a lane count. -/
theorem answers_of_effect {i : Instr} {u : FloatForm} {f : LaneEffect}
    (he : ∀ s, exec i s = issue i (fun w rid c => c.lanesDo w rid f) s) (hf : f = u.effect) : Answers i u.effect :=
  ⟨hf ▸ he, fun _ _ _ _ _ _ _ _ => rfl⟩

/-- A function of a rounding mode and operands is another's on every choice of operand values for the registers `srcs`. -/
def SameOn (srcs : List Reg) (g f : Rm → List Nat → Nat × Flags) : Prop :=
  ∀ rm (x : Reg → Nat), g rm (srcs.map x) = f rm (srcs.map x)

section
variable {i : Instr} {d : Reg} {srcs : List Reg} {g f : Rm → List Nat → Nat × Flags}

theorem answers_of_fop (he : ∀ s, exec i s = issue i (fop d srcs g) s) (hg : SameOn srcs g f) :
    Answers i (FloatForm.effect ⟨d, false, srcs, false, false, none, f⟩) := by
  refine answers_of_effect he ?_
  funext wp run l t
  have h := hg (Rm.of t.frm) fun r => (wp.read run t r).v.toNat
  simp [FloatForm.effect, FloatForm.operand, Thread.raiseFlags, word, Function.comp_def, List.any_map, h]

theorem answers_of_dop (he : ∀ s, exec i s = issue i (dop d srcs g) s) (hg : SameOn srcs g f) :
    Answers i (FloatForm.effect ⟨d, true, srcs, true, false, none, f⟩) := by
  refine answers_of_effect he ?_
  funext wp run l t
  have h := hg (Rm.of t.frm) fun r => (wp.readPair run t r).1.toNat
  simp [FloatForm.effect, FloatForm.operand, Thread.raiseFlags, Function.comp_def, List.any_map, h]

theorem answers_of_dcmp (he : ∀ s, exec i s = issue i (dcmp d srcs g) s) (hg : SameOn srcs g f) :
    Answers i (FloatForm.effect ⟨d, false, srcs, true, false, none, f⟩) := by
  refine answers_of_effect he ?_
  funext wp run l t
  have h := hg (Rm.of t.frm) fun r => (wp.readPair run t r).1.toNat
  simp [FloatForm.effect, FloatForm.operand, Thread.raiseFlags, word, Function.comp_def, List.any_map, h]

theorem answers_of_flater (he : ∀ s, exec i s = issue i (flater d srcs g) s) (hg : SameOn srcs g f) :
    Answers i (FloatForm.effect ⟨d, false, srcs, false, true, none, f⟩) := by
  refine answers_of_effect he ?_
  funext wp run l t
  have h := hg (Rm.of t.frm) fun r => (wp.read run t r).v.toNat
  simp [FloatForm.effect, FloatForm.operand, word, Function.comp_def, List.any_map, h]

theorem answers_of_dlater (he : ∀ s, exec i s = issue i (dlater d srcs g) s) (hg : SameOn srcs g f) :
    Answers i (FloatForm.effect ⟨d, true, srcs, true, true, none, f⟩) := by
  refine answers_of_effect he ?_
  funext wp run l t
  have h := hg (Rm.of t.frm) fun r => (wp.readPair run t r).1.toNat
  simp [FloatForm.effect, FloatForm.operand, Function.comp_def, List.any_map, h]

end

/-- A conversion takes and gives a register or a pair as its code says (R106); `cvtz` rounds toward zero. -/
theorem answers_of_cvtOp {i : Instr} {d a c : Reg} {z : Bool} {m : Option Rm} (hm : ∀ r, m.getD r = if z then .rtz else r)
    (he : ∀ s, exec i s = issue i (cvtOp d a c z) s) :
    Answers i (FloatForm.effect ⟨d, Field.cvtPairD c, [a], Field.cvtPairA c, false, m,
      fun rm xs => conversion c.toNat rm (xs.getD 0 0)⟩) := by
  refine answers_of_effect he ?_
  funext wp run l t
  have hw (v : Word) : (v.setWidth 64).toNat = v.toNat := BitVec.toNat_setWidth_of_le (by decide)
  cases Field.cvtPairA c <;>
    simp [-BitVec.toNat_setWidth, hw, hm, FloatForm.effect, FloatForm.operand, Thread.raiseFlags, word]

/-- The sign bit of b over the other bits of a (R101), as numbers. -/
theorem copySign_eq (a b : Word) :
    copySign a b = BitVec.ofNat 32 (a.toNat % 2 ^ 31 + b.toNat / 2 ^ 31 * 2 ^ 31) := by
  rw [copySign, show (0x7FFFFFFF : Word) = BitVec.ofNat 32 (2 ^ 31 - 1) from rfl,
    show (0x80000000 : Word) = BitVec.ofNat 32 (2 ^ 31) from rfl, Nat.add_comm, Nat.mul_comm]
  apply BitVec.eq_of_getLsbD_eq
  intro j hj
  simp only [BitVec.getLsbD_or, BitVec.getLsbD_and, BitVec.getLsbD_ofNat, Nat.testBit_two_pow_sub_one, Nat.testBit_two_pow,
    Nat.testBit_two_pow_mul_add _ (Nat.mod_lt _ (Nat.two_pow_pos 31)), Nat.testBit_mod_two_pow, Nat.testBit_div_two_pow, hj]
  by_cases h : j < 31
  · simp [h, BitVec.getLsbD, show ¬ 31 = j by omega]
  · simp [show j = 31 by omega, BitVec.getLsbD]

/-- `fcps` is an integer word to the model; its form raises no flag (R101). -/
theorem answers_of_copySign {i : Instr} {d a b : Reg} (he : ∀ s, exec i s = issue i (binOp d a b copySign) s) :
    Answers i (FloatForm.effect ⟨d, false, [a, b], false, false, none, fun _ xs =>
      (xs.getD 0 0 % 2 ^ 31 + xs.getD 1 0 / 2 ^ 31 * 2 ^ 31, noFlags)⟩) := by
  refine answers_of_effect he ?_
  funext wp run l t
  have hf : t.fflags ||| noFlags = t.fflags := BitVec.or_zero
  simp [FloatForm.effect, FloatForm.operand, copySign_eq, hf]

/-- The meaning of every floating-point word is the effect of its form (R100 to R112): one line per word. -/
theorem answers_of_floatForm {i : Instr} {u : FloatForm} (h : floatForm i = some u) : Answers i u.effect := by
  unfold floatForm at h
  split at h <;> cases h
  · exact answers_of_fop (fun _ => rfl) fun _ _ => rfl  -- fadd
  · exact answers_of_fop (fun _ => rfl) fun _ _ => rfl  -- fsub
  · exact answers_of_fop (fun _ => rfl) fun _ _ => rfl  -- fmul
  · exact answers_of_fop (fun _ => rfl) fun _ _ => rfl  -- ffma
  · exact answers_of_fop (fun _ => rfl) fun _ _ => rfl  -- ffms
  · exact answers_of_fop (fun _ => rfl) fun _ _ => rfl  -- fmin
  · exact answers_of_fop (fun _ => rfl) fun _ _ => rfl  -- fmax
  · exact answers_of_copySign fun _ => rfl  -- fcps
  · exact answers_of_fop (fun _ => rfl) fun _ _ => rfl  -- feq
  · exact answers_of_fop (fun _ => rfl) fun _ _ => rfl  -- flt
  · exact answers_of_fop (fun _ => rfl) fun _ _ => rfl  -- fle
  · exact answers_of_fop (fun _ => rfl) fun _ _ => rfl  -- funo
  · exact answers_of_fop (fun _ => rfl) fun _ _ => rfl  -- frcp
  · exact answers_of_fop (fun _ => rfl) fun _ _ => rfl  -- frsq
  · exact answers_of_flater (fun _ => rfl) fun _ _ => rfl  -- fsqrt
  · exact answers_of_flater (fun _ => rfl) fun _ _ => rfl  -- fdiv
  · exact answers_of_fop (fun _ => rfl) fun _ _ => rfl  -- fexp2
  · exact answers_of_fop (fun _ => rfl) fun _ _ => rfl  -- flog2
  · exact answers_of_fop (fun _ => rfl) fun _ _ => rfl  -- fsin
  · exact answers_of_fop (fun _ => rfl) fun _ _ => rfl  -- fcos
  · exact answers_of_dop (fun _ => rfl) fun _ _ => rfl  -- dadd
  · exact answers_of_dop (fun _ => rfl) fun _ _ => rfl  -- dsub
  · exact answers_of_dop (fun _ => rfl) fun _ _ => rfl  -- dmul
  · exact answers_of_dop (fun _ => rfl) fun _ _ => rfl  -- dfma
  · exact answers_of_dop (fun _ => rfl) fun _ _ => rfl  -- dmin
  · exact answers_of_dop (fun _ => rfl) fun _ _ => rfl  -- dmax
  · exact answers_of_dcmp (fun _ => rfl) fun _ _ => rfl  -- deq
  · exact answers_of_dcmp (fun _ => rfl) fun _ _ => rfl  -- dlt
  · exact answers_of_dcmp (fun _ => rfl) fun _ _ => rfl  -- dle
  · exact answers_of_dlater (fun _ => rfl) fun _ _ => rfl  -- ddiv
  · exact answers_of_dlater (fun _ => rfl) fun _ _ => rfl  -- dsqrt
  · exact answers_of_dlater (fun _ => rfl) fun _ _ => rfl  -- drcp
  · exact answers_of_fop (fun _ => rfl) fun _ _ => rfl  -- hadd2
  · exact answers_of_fop (fun _ => rfl) fun _ _ => rfl  -- hmul2
  · exact answers_of_fop (fun _ => rfl) fun _ _ => rfl  -- hfma2
  · exact answers_of_fop (fun _ => rfl) fun _ _ => rfl  -- badd2
  · exact answers_of_fop (fun _ => rfl) fun _ _ => rfl  -- bmul2
  · exact answers_of_fop (fun _ => rfl) fun _ _ => rfl  -- bfma2
  · exact answers_of_cvtOp (fun _ => rfl) fun _ => rfl  -- cvt
  · exact answers_of_cvtOp (fun _ => rfl) fun _ => rfl  -- cvtz
  · exact answers_of_fop (fun _ => rfl) fun _ _ => rfl  -- fclass
  · exact answers_of_fop (fun _ => rfl) fun _ _ => rfl  -- fldx
  · exact answers_of_fop (fun _ => rfl) fun _ _ => rfl  -- frnd
  · exact answers_of_dop (fun _ => rfl) fun _ _ => rfl  -- drnd
  · exact answers_of_fop (fun _ => rfl) fun _ _ => rfl  -- fdot2
  · exact answers_of_fop (fun _ => rfl) fun _ _ => rfl  -- hdot2
  · exact answers_of_fop (fun _ => rfl) fun _ _ => rfl  -- packb
  · exact answers_of_fop (fun _ => rfl) fun _ _ => rfl  -- packh

end FloatLaws

/-- Settles O14: every floating-point word is the effect of its form, and such a word changes the lanes of its group and
nothing else. -/
theorem floatWords : Obligations.FloatWords :=
  fun _ _ _ _ _ h hr hp => (FloatLaws.answers_of_floatForm h).lanesBecome hr hp

end Sys2Proof.Machine
end

section
/-!
PROOFS. The one rounding of an exact value (R94): the magnitudes of a format grow with their bits, a value lies between those
of `floorBits` and the next, and each mode picks one of the two, cut at infinity. Settles O15.
-/

namespace Sys2Proof.Machine

namespace RoundingLaws

/-! ## Multiples of powers of two -/

theorem pow2_natCast (n : Nat) : pow2 n = (2 ^ n : Nat) := if_pos (Int.natCast_nonneg n)

theorem pow2_negSucc (n : Nat) : pow2 (Int.negSucc n) = 1 / (2 ^ (n + 1) : Nat) :=
  if_neg (Int.not_le.mpr (Int.negSucc_lt_zero n))

theorem natCast_two_pow_pos (n : Nat) : (0 : Rat) < (2 ^ n : Nat) := Rat.natCast_pos.mpr (Nat.two_pow_pos n)

theorem pow2_pos : (x : Int) → 0 < pow2 x
  | .ofNat n => pow2_natCast n ▸ natCast_two_pow_pos n
  | .negSucc n => by
    rw [pow2_negSucc, Rat.div_def, Rat.one_mul]
    exact Rat.inv_pos.mpr (natCast_two_pow_pos _)

theorem pow2_succ : (x : Int) → pow2 (x + 1) = 2 * pow2 x
  | .ofNat n => by
    rw [Int.ofNat_eq_natCast, ← Int.natCast_succ, pow2_natCast, pow2_natCast, Nat.succ_eq_add_one, Nat.pow_succ]
    grind
  | .negSucc 0 => by
    rw [pow2_negSucc, show Int.negSucc 0 + 1 = ((0 : Nat) : Int) from rfl, pow2_natCast]
    grind
  | .negSucc (n + 1) => by
    have h := natCast_two_pow_pos (n + 1)
    rw [show Int.negSucc (n + 1) + 1 = Int.negSucc n from rfl, pow2_negSucc, pow2_negSucc, Nat.pow_succ 2 (n + 1)]
    grind

/-- A shifted count is the count of a greater power. -/
theorem shift_mul_pow2 (a n : Nat) (x : Int) : ((a * 2 ^ n : Nat) : Rat) * pow2 x = a * pow2 (x + n) := by
  induction n generalizing x with
  | zero => simp
  | succ k ih =>
    have h := ih (x + 1)
    rw [pow2_succ, show x + 1 + (k : Int) = x + (k + 1 : Nat) by omega] at h
    rw [← h, Nat.pow_succ, ← Nat.mul_assoc]
    grind

theorem add_mul_pow2 (a b : Nat) (x : Int) : ((a + b : Nat) : Rat) * pow2 x = a * pow2 x + b * pow2 x := by
  rw [Rat.natCast_add, Rat.add_mul]

theorem mul_pow2_lt {a b : Nat} {x : Int} : (a : Rat) * pow2 x < b * pow2 x ↔ a < b := by
  rw [Rat.mul_lt_mul_right (pow2_pos x), Rat.natCast_lt_natCast]

theorem mul_pow2_le {a b : Nat} {x : Int} (h : a ≤ b) : (a : Rat) * pow2 x ≤ b * pow2 x :=
  Rat.mul_le_mul_of_nonneg_right (Rat.natCast_le_natCast.mpr h) (Rat.le_of_lt (pow2_pos x))

theorem two_pow_mul_pow2 (n : Nat) (x : Int) : ((2 ^ n : Nat) : Rat) * pow2 x = pow2 (x + n) := by
  have h := shift_mul_pow2 1 n x
  rw [Nat.one_mul] at h
  rw [h]
  exact Rat.one_mul _

theorem pow2_le {x y : Int} (h : x ≤ y) : pow2 x ≤ pow2 y := by
  obtain ⟨n, rfl⟩ := Int.le.dest h
  have h1 := mul_pow2_le (x := x) (Nat.two_pow_pos n)
  rw [two_pow_mul_pow2] at h1
  exact Rat.one_mul (pow2 x) ▸ h1

/-! ## The magnitudes of a format -/

/-- Bits of exponent field e over a significand that may carry into the next exponent. -/
theorem magnitude_of_significand (f : Fmt) {e r : Nat} (hlo : e = 0 ∨ 2 ^ f.fbits ≤ r) (hhi : r ≤ 2 ^ f.fbits * 2) :
    f.magnitude (e * 2 ^ f.fbits + r) = r * pow2 (f.qmin + e) := by
  have hF := Nat.two_pow_pos f.fbits
  unfold Fmt.magnitude
  generalize 2 ^ f.fbits = F at *
  rw [Nat.mul_comm, Nat.mul_add_div hF, Nat.mul_add_mod]
  obtain hr | ⟨hr, hr'⟩ | rfl : r < F ∨ (F ≤ r ∧ r < F * 2) ∨ r = F * 2 := by omega
  · obtain rfl : e = 0 := by omega
    simp [Nat.div_eq_of_lt hr, Nat.mod_eq_of_lt hr]
  · obtain ⟨k, rfl⟩ := Nat.exists_eq_add_of_le hr
    have hk : k < F := by omega
    simp [Nat.add_div_left _ hF, Nat.div_eq_of_lt hk, Nat.mod_eq_of_lt hk]
  · rw [Nat.mul_div_cancel_left _ hF, Nat.mul_mod_right, if_neg (by omega), Nat.add_zero,
      show e + 2 - 1 = e + 1 from rfl, Int.natCast_succ, ← Int.add_assoc]
    exact (shift_mul_pow2 F 1 _).symm

theorem magnitude_lt_succ (f : Fmt) (b : Nat) : f.magnitude b < f.magnitude (b + 1) := by
  have hF := Nat.two_pow_pos f.fbits
  obtain ⟨e, r, hb, hlo, hhi⟩ :
      ∃ e r, b = e * 2 ^ f.fbits + r ∧ (e = 0 ∨ 2 ^ f.fbits ≤ r) ∧ r < 2 ^ f.fbits * 2 := by
    generalize 2 ^ f.fbits = F at *
    have hd := Nat.div_add_mod' b F
    have hm := Nat.mod_lt b hF
    cases hq : b / F with
    | zero => exact ⟨0, b, by omega, .inl rfl, by rw [hq] at hd; omega⟩
    | succ n => exact ⟨n, F + b % F, by rw [hq, Nat.succ_mul] at hd; omega, .inr (by omega), by omega⟩
  rw [hb, Nat.add_assoc, magnitude_of_significand f hlo (Nat.le_of_lt hhi), magnitude_of_significand f (by omega) hhi]
  exact mul_pow2_lt.mpr (Nat.lt_succ_self r)

theorem magnitude_le (f : Fmt) {a b : Nat} (h : a ≤ b) : f.magnitude a ≤ f.magnitude b := by
  induction h with
  | refl => exact Rat.le_refl
  | step _ ih => exact Rat.le_trans ih (Rat.le_of_lt (magnitude_lt_succ f _))

theorem magnitude_lt (f : Fmt) {a b : Nat} (h : a < b) : f.magnitude a < f.magnitude b := by
  have h1 := magnitude_lt_succ f a
  have h2 := magnitude_le f h
  grind

/-! ## Shifts that round -/

theorem roundShift_rup (n k : Nat) :
    (roundShift .rup false n k).1 = if n % 2 ^ k = 0 then n / 2 ^ k else n / 2 ^ k + 1 := by
  by_cases h : n % 2 ^ k = 0 <;> simp [roundShift, h]

theorem roundShift_rne (neg : Bool) (n k : Nat) :
    (roundShift .rne neg n k).1 =
      if 2 * (n % 2 ^ k) < 2 ^ k ∨ (2 * (n % 2 ^ k) = 2 ^ k ∧ n / 2 ^ k % 2 = 0) then n / 2 ^ k else n / 2 ^ k + 1 := by
  have hu := Nat.two_pow_pos k
  simp only [roundShift, Bool.or_eq_true, Bool.and_eq_true, decide_eq_true_eq, beq_iff_eq, bne_iff_ne]
  generalize n / 2 ^ k = q, n % 2 ^ k = r
  generalize 2 ^ k = u at *
  have hc : (u < 2 * r ∨ (2 * r = u ∧ r ≠ 0) ∧ q % 2 = 1) ↔ ¬ (2 * r < u ∨ 2 * r = u ∧ q % 2 = 0) := by omega
  simp only [hc, ite_not]

/-! ## A value as a multiple of a power of two -/

/-- m · 2^x and 2^q as multiples of their lesser unit: what `roundAt` rounds is a shift in every case. -/
theorem roundAt_eq_roundShift (rm : Rm) (neg : Bool) (m : Nat) (x q : Int) :
    roundAt rm neg m x q = roundShift rm neg (m * 2 ^ (x - q).toNat) (q - x).toNat := by
  unfold roundAt
  by_cases h : q ≤ x
  · rw [if_pos h, Int.toNat_of_nonpos (by omega : q - x ≤ 0)]
    cases rm <;> simp [roundShift, Nat.mod_one]
  · rw [if_neg h, Int.toNat_of_nonpos (by omega : x - q ≤ 0), Nat.pow_zero, Nat.mul_one]

/-- The cut of m · 2^x to a multiple of 2^q. -/
def floorAt (m : Nat) (x q : Int) : Nat := m * 2 ^ (x - q).toNat / 2 ^ (q - x).toNat
/-- What the cut leaves, in units of the lesser of 2^x and 2^q. -/
def restAt (m : Nat) (x q : Int) : Nat := m * 2 ^ (x - q).toNat % 2 ^ (q - x).toNat

theorem restAt_lt (m : Nat) (x q : Int) : restAt m x q < 2 ^ (q - x).toNat := Nat.mod_lt _ (Nat.two_pow_pos _)

/-- How far m · 2^x lies above its cut and below the next multiple of 2^q. -/
theorem gaps_at (m : Nat) (x q : Int) :
    m * pow2 x - floorAt m x q * pow2 q = restAt m x q * pow2 (min x q) ∧
    ((floorAt m x q + 1 : Nat) : Rat) * pow2 q - m * pow2 x = ((2 ^ (q - x).toNat - restAt m x q : Nat) : Rat) * pow2 (min x q) := by
  have hlow (a : Nat) : (a : Rat) * pow2 x = (a * 2 ^ (x - q).toNat : Nat) * pow2 (min x q) := by
    rw [shift_mul_pow2, show min x q + ((x - q).toNat : Int) = x by omega]
  have hhigh (a : Nat) : (a : Rat) * pow2 q = (a * 2 ^ (q - x).toNat : Nat) * pow2 (min x q) := by
    rw [shift_mul_pow2, show min x q + ((q - x).toNat : Int) = q by omega]
  have hm : floorAt m x q * 2 ^ (q - x).toNat + restAt m x q = m * 2 ^ (x - q).toNat := Nat.div_add_mod' _ _
  have hr := restAt_lt m x q
  rw [hlow, hhigh, hhigh, Nat.succ_mul, ← hm]
  generalize 2 ^ (q - x).toNat = u at *
  obtain ⟨k, rfl⟩ := Nat.exists_eq_add_of_le (Nat.le_of_lt hr)
  rw [Nat.add_sub_cancel_left]
  simp only [add_mul_pow2]
  constructor <;> grind

/-- A value lies at or above its cut and below the next multiple. -/
theorem floorAt_bounds (m : Nat) (x q : Int) :
    floorAt m x q * pow2 q ≤ m * pow2 x ∧ m * pow2 x < ((floorAt m x q + 1 : Nat) : Rat) * pow2 q := by
  obtain ⟨hlo, hhi⟩ := gaps_at m x q
  have hε := pow2_pos (min x q)
  have h0 := Rat.mul_nonneg (Rat.natCast_nonneg (a := restAt m x q)) (Rat.le_of_lt hε)
  have h1 := Rat.mul_pos (Rat.natCast_pos.mpr (Nat.sub_pos_of_lt (restAt_lt m x q))) hε
  rw [← hlo] at h0
  rw [← hhi] at h1
  exact ⟨(Rat.le_iff_sub_nonneg _ _).mpr h0, (Rat.lt_iff_sub_pos _ _).mpr h1⟩

/-! ## The bits before the cut at infinity -/

/-- The exponent of the lowest result bit: subnormals have one exponent (R94). -/
def resultExp (f : Fmt) (m : Nat) (x : Int) : Int := max (lowestExp f m x) f.qmin

/-- The rounded magnitude bits with an exponent field that may run past the format. -/
def freeBits (f : Fmt) (rm : Rm) (neg : Bool) (m : Nat) (x : Int) : Nat :=
  (resultExp f m x - f.qmin).toNat * 2 ^ f.fbits + (roundAt rm neg m x (resultExp f m x)).1

/-- Infinity is where rounding to nearest stops (R94). -/
theorem roundMag_rne (f : Fmt) (neg : Bool) (m : Nat) (x : Int) :
    (roundMag f .rne neg m x).1 = min f.inf (freeBits f .rne neg m x) := by
  change (if f.inf ≤ freeBits f .rne neg m x then (f.inf, _) else (freeBits f .rne neg m x, _)).1 = _
  rw [Nat.min_def, apply_ite Prod.fst]

/-- So it is where rounding away from zero stops. -/
theorem roundMag_rup (f : Fmt) (m : Nat) (x : Int) :
    (roundMag f .rup false m x).1 = min f.inf (freeBits f .rup false m x) := by
  change (if f.inf ≤ freeBits f .rup false m x then (f.inf, _) else (freeBits f .rup false m x, _)).1 = _
  rw [Nat.min_def, apply_ite Prod.fst]

/-- Rounding toward zero stops at the greatest finite value. -/
theorem roundMag_rtz (f : Fmt) (neg : Bool) (m : Nat) (x : Int) :
    (roundMag f .rtz neg m x).1 = min (f.inf - 1) (floorBits f m x) := by
  change (if f.inf ≤ floorBits f m x then (f.inf - 1, _) else (floorBits f m x, _)).1 = _
  rw [apply_ite Prod.fst]
  split <;> omega

/-! ## The two magnitudes about a value -/

section
variable (f : Fmt) {m : Nat} (hm : m ≠ 0) (x : Int)
include hm

/-- The leading bit of m · 2^x. -/
theorem leadingBit_bounds :
    pow2 (lowestExp f m x + f.fbits) ≤ m * pow2 x ∧ m * pow2 x < pow2 (lowestExp f m x + (f.fbits + 1 : Nat)) := by
  have hlo : lowestExp f m x + f.fbits = x + Nat.log2 m := by unfold lowestExp; omega
  have hhi : lowestExp f m x + (f.fbits + 1 : Nat) = x + (Nat.log2 m + 1 : Nat) := by unfold lowestExp; omega
  rw [hlo, hhi, ← two_pow_mul_pow2, ← two_pow_mul_pow2]
  exact ⟨mul_pow2_le (Nat.log2_self_le hm), mul_pow2_lt.mpr Nat.lt_log2_self⟩

theorem floorAt_lt : floorAt m x (resultExp f m x) < 2 ^ (f.fbits + 1) := by
  obtain ⟨hfloor, -⟩ := floorAt_bounds m x (resultExp f m x)
  obtain ⟨-, hlead⟩ := leadingBit_bounds f hm x
  have hexp : pow2 (lowestExp f m x + (f.fbits + 1 : Nat)) ≤ pow2 (resultExp f m x + (f.fbits + 1 : Nat)) :=
    pow2_le (by unfold resultExp; omega)
  refine mul_pow2_lt (x := resultExp f m x).mp ?_
  rw [two_pow_mul_pow2]
  grind

/-- Above the least exponent a significand has its leading bit. -/
theorem le_floorAt (h : resultExp f m x ≠ f.qmin) : 2 ^ f.fbits ≤ floorAt m x (resultExp f m x) := by
  have hq : resultExp f m x = lowestExp f m x := by unfold resultExp at *; omega
  obtain ⟨-, hfloor⟩ := floorAt_bounds m x (resultExp f m x)
  obtain ⟨hlead, -⟩ := leadingBit_bounds f hm x
  refine Nat.le_of_lt_succ (mul_pow2_lt (x := resultExp f m x).mp ?_)
  rw [two_pow_mul_pow2]
  rw [hq] at *
  grind

end

theorem floorBits_eq (f : Fmt) (m : Nat) (x : Int) :
    floorBits f m x = (resultExp f m x - f.qmin).toNat * 2 ^ f.fbits + floorAt m x (resultExp f m x) := by
  change _ + (roundAt .rtz false m x (resultExp f m x)).1 = _
  rw [roundAt_eq_roundShift]
  rfl

section
variable (f : Fmt) {m : Nat} (hm : m ≠ 0) (x : Int)
include hm

/-- Both magnitudes about a value are multiples of 2^`resultExp`. -/
theorem magnitude_floorBits :
    f.magnitude (floorBits f m x) = floorAt m x (resultExp f m x) * pow2 (resultExp f m x) ∧
    f.magnitude (floorBits f m x + 1) = ((floorAt m x (resultExp f m x) + 1 : Nat) : Rat) * pow2 (resultExp f m x) := by
  have hlt := floorAt_lt f hm x
  rw [Nat.pow_succ] at hlt
  have he : f.qmin + ((resultExp f m x - f.qmin).toNat : Int) = resultExp f m x := by unfold resultExp; omega
  have hlo : (resultExp f m x - f.qmin).toNat = 0 ∨ 2 ^ f.fbits ≤ floorAt m x (resultExp f m x) := by
    by_cases h : resultExp f m x = f.qmin
    · exact .inl (by omega)
    · exact .inr (le_floorAt f hm x h)
  rw [floorBits_eq, Nat.add_assoc, magnitude_of_significand f hlo (Nat.le_of_lt hlt),
    magnitude_of_significand f (by omega) hlt, he]
  exact ⟨rfl, rfl⟩

/-- The distances of a value from the magnitudes about it, in a unit that measures both. -/
theorem gaps_floorBits :
    let q := resultExp f m x
    m * pow2 x - f.magnitude (floorBits f m x) = restAt m x q * pow2 (min x q) ∧
    f.magnitude (floorBits f m x + 1) - m * pow2 x = ((2 ^ (q - x).toNat - restAt m x q : Nat) : Rat) * pow2 (min x q) := by
  obtain ⟨h0, h1⟩ := magnitude_floorBits f hm x
  rw [h0, h1]
  exact gaps_at m x _

theorem floorBits_bounds :
    f.magnitude (floorBits f m x) ≤ m * pow2 x ∧ m * pow2 x < f.magnitude (floorBits f m x + 1) := by
  obtain ⟨h0, h1⟩ := magnitude_floorBits f hm x
  rw [h0, h1]
  exact floorAt_bounds m x _

end

/-! ## What each mode picks -/

/-- Away from zero a value goes up unless its cut leaves nothing. -/
theorem freeBits_rup (f : Fmt) (m : Nat) (x : Int) :
    freeBits f .rup false m x =
      if restAt m x (resultExp f m x) = 0 then floorBits f m x else floorBits f m x + 1 := by
  rw [freeBits, roundAt_eq_roundShift, floorBits_eq, roundShift_rup]
  exact (apply_ite (_ + ·) _ _ _).trans rfl

/-- To nearest a value goes up when the rest is over half a unit, or just half and the cut odd. -/
theorem freeBits_rne {f : Fmt} (hF : 1 ≤ f.fbits) (neg : Bool) (m : Nat) (x : Int) :
    let r := restAt m x (resultExp f m x)
    let u := 2 ^ (resultExp f m x - x).toNat
    freeBits f .rne neg m x =
      if 2 * r < u ∨ (2 * r = u ∧ floorBits f m x % 2 = 0) then floorBits f m x else floorBits f m x + 1 := by
  have hpar : floorBits f m x % 2 = floorAt m x (resultExp f m x) % 2 := by
    obtain ⟨k, hk⟩ := Nat.exists_eq_add_of_le hF
    rw [floorBits_eq, hk, Nat.pow_add, Nat.mul_left_comm, Nat.pow_one, Nat.mul_add_mod]
  rw [hpar, freeBits, roundAt_eq_roundShift, floorBits_eq, roundShift_rne]
  exact (apply_ite (_ + ·) _ _ _).trans rfl

/-! ## Cutting, raising and rounding between two magnitudes -/

section
variable {f : Fmt} {v : Rat} {b : Nat}

theorem cut_min (hlo : f.magnitude b ≤ v) (hhi : v < f.magnitude (b + 1)) (hi : 0 < f.inf) : Cut f v (min (f.inf - 1) b) := by
  refine ⟨by omega, Rat.le_trans (magnitude_le f (Nat.min_le_right _ _)) hlo, fun h => ?_⟩
  rwa [Nat.min_eq_right (by omega)]

theorem raised_min (hhi : v ≤ f.magnitude b) (hlo : 0 < b → f.magnitude (b - 1) < v) : Raised f v (min f.inf b) := by
  refine ⟨Nat.min_le_left _ _, fun h => ?_, fun h => ?_⟩
  · rwa [Nat.min_eq_right (by omega)]
  · have hb := hlo (by omega)
    have hle := magnitude_le f (show min f.inf b - 1 ≤ b - 1 by omega)
    grind

/-- Magnitude bits b, whatever their exponent field, are nearest to a value, and even on a tie. -/
def Closest (f : Fmt) (v : Rat) (b : Nat) : Prop :=
  ∀ c, c ≠ b → (v - f.magnitude b).abs < (v - f.magnitude c).abs ∨
    ((v - f.magnitude b).abs = (v - f.magnitude c).abs ∧ b % 2 = 0)

theorem dist_of_le {c : Nat} (hlo : f.magnitude b ≤ v) (h : c ≤ b) : (v - f.magnitude c).abs = v - f.magnitude c :=
  Rat.abs_of_nonneg ((Rat.le_iff_sub_nonneg _ _).mp (Rat.le_trans (magnitude_le f h) hlo))

theorem dist_of_ge {c : Nat} (hhi : v ≤ f.magnitude b) (h : b ≤ c) : (v - f.magnitude c).abs = f.magnitude c - v := by
  rw [Rat.abs_sub_comm]
  exact Rat.abs_of_nonneg ((Rat.le_iff_sub_nonneg _ _).mp (Rat.le_trans hhi (magnitude_le f h)))

theorem closest_of_lower (hlo : f.magnitude b ≤ v) (hhi : v < f.magnitude (b + 1))
    (h : v - f.magnitude b < f.magnitude (b + 1) - v ∨ (v - f.magnitude b = f.magnitude (b + 1) - v ∧ b % 2 = 0)) :
    Closest f v b := by
  intro c hc
  rw [dist_of_le hlo (Nat.le_refl b)]
  rcases Nat.lt_or_gt_of_ne hc with hlt | hgt
  · have := magnitude_lt f hlt
    rw [dist_of_le hlo (Nat.le_of_lt hlt)]
    grind
  · have := magnitude_le f (show b + 1 ≤ c from hgt)
    rw [dist_of_ge (Rat.le_of_lt hhi) hgt]
    grind

theorem closest_of_upper (hlo : f.magnitude b ≤ v) (hhi : v < f.magnitude (b + 1))
    (h : f.magnitude (b + 1) - v < v - f.magnitude b ∨ (f.magnitude (b + 1) - v = v - f.magnitude b ∧ (b + 1) % 2 = 0)) :
    Closest f v (b + 1) := by
  intro c hc
  rw [dist_of_ge (Rat.le_of_lt hhi) (Nat.le_refl (b + 1))]
  rcases Nat.lt_or_gt_of_ne hc with hlt | hgt
  · have hcb : c ≤ b := Nat.le_of_lt_succ hlt
    have := magnitude_le f hcb
    rw [dist_of_le hlo hcb]
    grind
  · have := magnitude_lt f hgt
    rw [dist_of_ge (Rat.le_of_lt hhi) (Nat.le_of_lt hgt)]
    grind

/-- A value at or beyond the magnitude of infinity is nearest to it among the bits a format has. -/
theorem nearest_min (h : Closest f v b) (hi : f.inf < b → f.magnitude f.inf ≤ v) : Nearest f v (min f.inf b) := by
  refine ⟨Nat.min_le_left _ _, fun c hc hne => ?_⟩
  by_cases hb : b ≤ f.inf
  · rw [Nat.min_eq_right hb] at *
    exact h c hne
  · rw [Nat.min_eq_left (by omega)] at *
    have hv := hi (by omega)
    have := magnitude_lt f (Nat.lt_of_le_of_ne hc hne)
    rw [dist_of_le hv (Nat.le_refl _), dist_of_le hv hc]
    grind

end

/-! ## Each mode's result -/

/-- Distances that are counts of one unit compare as the counts do. -/
theorem gap_lt_or_tie {a b : Nat} {p : Prop} (x : Int) (h : a < b ∨ (a = b ∧ p)) :
    (a : Rat) * pow2 x < b * pow2 x ∨ ((a : Rat) * pow2 x = b * pow2 x ∧ p) :=
  h.imp mul_pow2_lt.mpr fun ⟨e, hp⟩ => ⟨by rw [e], hp⟩

theorem inf_pos {f : Fmt} (hE : 1 ≤ f.ebits) : 0 < f.inf :=
  Nat.mul_pos (Nat.sub_pos_of_lt (Nat.one_lt_two_pow (by omega))) (Nat.two_pow_pos _)

section
variable {f : Fmt} {m : Nat} (hm : m ≠ 0) (x : Int)
include hm

theorem cut_rtz (hE : 1 ≤ f.ebits) (neg : Bool) : Cut f (m * pow2 x) (roundMag f .rtz neg m x).1 := by
  obtain ⟨hlo, hhi⟩ := floorBits_bounds f hm x
  rw [roundMag_rtz]
  exact cut_min hlo hhi (inf_pos hE)

theorem raised_rup : Raised f (m * pow2 x) (roundMag f .rup false m x).1 := by
  obtain ⟨hlo, hhi⟩ := floorBits_bounds f hm x
  obtain ⟨hrest, -⟩ := gaps_floorBits f hm x
  have hε := pow2_pos (min x (resultExp f m x))
  rw [roundMag_rup, freeBits_rup]
  split
  case isTrue h =>
    rw [h] at hrest
    have hv : m * pow2 x = f.magnitude (floorBits f m x) := by grind
    rw [hv]
    exact raised_min Rat.le_refl fun hb => magnitude_lt f (Nat.sub_lt hb Nat.one_pos)
  case isFalse h =>
    have hpos := Rat.mul_pos (Rat.natCast_pos.mpr (Nat.pos_of_ne_zero h)) hε
    refine raised_min (Rat.le_of_lt hhi) fun _ => ?_
    rw [Nat.add_sub_cancel, Rat.lt_iff_sub_pos, hrest]
    exact hpos

theorem nearest_rne (hF : 1 ≤ f.fbits) (neg : Bool) : Nearest f (m * pow2 x) (roundMag f .rne neg m x).1 := by
  obtain ⟨hlo, hhi⟩ := floorBits_bounds f hm x
  obtain ⟨hbelow, habove⟩ := gaps_floorBits f hm x
  rw [roundMag_rne, freeBits_rne hF]
  refine nearest_min ?_ fun hinf => Rat.le_trans (magnitude_le f (by split at hinf <;> omega)) hlo
  have hr := restAt_lt m x (resultExp f m x)
  split
  case isTrue h =>
    refine closest_of_lower hlo hhi ?_
    rw [hbelow, habove]
    exact gap_lt_or_tie _ (by omega)
  case isFalse h =>
    refine closest_of_upper hlo hhi ?_
    rw [hbelow, habove]
    exact gap_lt_or_tie _ (by omega)

end

end RoundingLaws

open RoundingLaws

/-- Settles O15: the four formats have an exponent and a fraction, and there each mode is one of three roundings: to nearest,
toward zero, and away from zero. -/
theorem roundingIsCorrect : Obligations.RoundingIsCorrect := by
  intro f hf neg m x hm
  have hw : 1 ≤ f.fbits ∧ 1 ≤ f.ebits := by
    revert f
    decide
  obtain ⟨hF, hE⟩ := hw
  have hcut := cut_rtz hm x hE
  have hraised := raised_rup (f := f) hm x
  refine ⟨nearest_rne hm x hF neg, hcut neg, ?_, ?_⟩
  · cases neg
    · exact hcut false
    · exact hraised
  · cases neg
    · exact hraised
    · exact hcut true

end Sys2Proof.Machine
end
